-- ==== Sys2Proof/Word.lean ====
section
/-! DEFINITION. Words, bytes and lane masks, with the plainest arithmetic over them (00 R3). -/
namespace Sys2Proof

/-- A 64-bit lane or uniform value. -/
abbrev Word := BitVec 64

/-- A byte of memory. -/
abbrev Byte := BitVec 8

/-- A set of lanes of a warp: bit `l` stands for lane `l`, at most 64 of them (04 R67). -/
abbrev Mask := BitVec 64

/-- Whether lane `l` is in the mask. -/
def Mask.has (m : Mask) (l : Nat) : Bool := m.getLsbD l

/-- The mask of the lanes below `w` for which `p` holds. -/
def Mask.of (w : Nat) (p : Nat → Bool) : Mask :=
  (List.range w).foldl (fun m l => if p l then m ||| (1#64 <<< l) else m) 0#64

/-- The lanes of a mask in ascending order. -/
def Mask.lanes (m : Mask) : List Nat := (List.range 64).filter m.has

/-- The lowest lane of a mask, if it has one. -/
def Mask.lowest (m : Mask) : Option Nat := (List.range 64).find? m.has

/-- How many lanes a mask holds. -/
def Mask.count (m : Mask) : Nat := m.lanes.length

/-- `x` read as two's complement at width `w`, from its low `w` bits. -/
def toSigned (w x : Nat) : Int :=
  let y := x % 2 ^ w
  if y < 2 ^ (w - 1) then (y : Int) else (y : Int) - (2 ^ w : Nat)

/-- The low `w` bits of an integer, as a natural number. -/
def wrapTo (w : Nat) (x : Int) : Nat := (x % (2 ^ w : Nat)).toNat

/-- `x` clamped between `lo` and `hi`. -/
def clampInt (lo hi x : Int) : Int := if x < lo then lo else if hi < x then hi else x

/-- The bits `hi` down to `lo` of a natural number (00 R3). -/
def natBits (x hi lo : Nat) : Nat := (x >>> lo) % 2 ^ (hi + 1 - lo)

/-- The number of bits up to the highest one of a natural number: 0 for 0. -/
def bitLen (x : Nat) : Nat := if x = 0 then 0 else x.log2 + 1

/-- `x` rounded up to a multiple of `a`. -/
def alignUp (x a : Nat) : Nat := (x + a - 1) / a * a

/-- The ceiling of a quotient. -/
def ceilDiv (x y : Nat) : Nat := (x + y - 1) / y

/-- The bytes of a value, lowest first (00 R3: the part is little-endian). -/
def bytesOf : Nat → Nat → List Byte
  | 0, _ => []
  | n + 1, x => BitVec.ofNat 8 x :: bytesOf n (x / 256)

/-- The value of bytes, lowest first. -/
def ofBytes : List Byte → Nat
  | [] => 0
  | b :: bs => b.toNat + 256 * ofBytes bs

/-- A canonical virtual address has bits [63:57] equal to bit 56 (04 R89). -/
def canonical (a : Word) : Bool :=
  let hi := natBits a.toNat 63 56
  hi == 0 || hi == 255

end Sys2Proof
end

