-- ==== Sys2Proof/Syntax.lean ====
section
/-! DEFINITION. What an instruction is: data types, operands, the fields of a word, and one constructor per row of the opcode table (03 R55-R59). -/
namespace Sys2Proof

/-- Data types of an instruction, Table 2.2 (02 R25); `noType` is code 0x1F, no type. -/
inductive Ty where
  | i8 | i16 | i32 | i64 | n8 | n16 | n32 | n64 | b32 | b64
  | f32 | f16 | bf16 | e4m3 | e5m2 | e2m1 | c32
  | i8x8 | i16x4 | i32x2 | n8x8 | n16x4
  | f32x2 | f16x4 | bf16x4 | e4m3x8 | e5m2x8 | e2m1x16 | n32x2
  | noType
  deriving DecidableEq, Repr

/-- Edge mode of a neighbour permute or of PERM: zero, clamp, wrap (Table 5.5). -/
inductive Edge where
  | z | c | w
  deriving DecidableEq, Repr

/-- A permute pattern with its parameter (05 R116, Table 5.5). A distance is held as `d - 1`. -/
inductive Perm where
  | ident
  | bc (n : BitVec 6)
  | rot (k : BitVec 6)
  | bf (k : BitVec 6)
  | mir (k : BitVec 6)
  | lt (d1 : BitVec 4) (e : Edge)
  | rt (d1 : BitVec 4) (e : Edge)
  | sub (s : BitVec 4)
  | bcSub (flat : BitVec 5)
  deriving DecidableEq, Repr

/-- One operand of a word (03 R58, Table 3.5). -/
inductive Operand where
  | v (n : BitVec 8) (last : Bool) (perm : Perm)
  | w (n : BitVec 8)
  | p (n : BitVec 4)
  | t (n : BitVec 5)
  | a (n : BitVec 4)
  | q (n : BitVec 4)
  | imm (i : BitVec 18)
  | special (n : BitVec 8)
  | absent
  deriving DecidableEq, Repr

/-- A guard predicate, negated or not (03 R56). -/
structure Guard where
  neg : Bool
  pred : BitVec 4
  deriving DecidableEq, Repr

/-- The fields of an instruction word but its opcode (03 R55, Table 3.4); the reserved bits [9:8] are 0 in every
instruction that decodes. -/
structure Fields where
  variant : BitVec 6
  ty : Ty
  rounding : BitVec 3
  op0 : Operand
  op1 : Operand
  op2 : Operand
  op3 : Operand
  op4 : Operand
  guardA : Guard
  guardB : Guard
  combineOr : Bool
  hint : BitVec 4
  counter : BitVec 4
  yield : Bool
  sat : Bool
  mods : BitVec 8
  deriving DecidableEq, Repr

/-- The register numbers and immediate of a Nibex instruction (17 R381). -/
structure NibexFields where
  a : BitVec 3
  b : BitVec 3
  imm : BitVec 21
  deriving DecidableEq, Repr

/-- What a die's boot ROM finds in the flash (19 R417): whether an image is there, its bytes, the public key and the signature that come
with it, and its security version and version; and whether the recovery hart works. -/
structure BootImage where
  present : Bool
  data : List Byte
  key : List Byte
  signature : List Byte
  securityVersion : BitVec 32
  recoveryFault : Bool
  version : BitVec 64
  deriving DecidableEq, Repr

/-- What an event happens to: unit numbers, an address, lists, bytes and images, as the event's constructor says. -/
structure EventArgs where
  unit : Nat := 0
  item : Nat := 0
  third : Nat := 0
  word : Word := 0
  nums : List Nat := []
  bytes : List Byte := []
  images : List BootImage := []
  signed : Int := 0
  /-- A peer's access came over Ultra Ethernet, not UALink (19 R421). -/
  ether : Bool := false
  deriving DecidableEq, Repr

/-- The instructions and events of the opcode table, one constructor a row: first the rows of Irlek, with the fields of
their word, then those of Nibex, with their registers and immediate, then the events, whose arguments (the unit an event
happens at and what the spec leaves to the outside world) stand in `EventArgs`. -/
inductive Instr where
  /-- NOP (R95). -/
  | nop (f : Fields)
  /-- BRA (R90). -/
  | bra (f : Fields)
  /-- BRC (R90). -/
  | brc (f : Fields)
  /-- BRW_ANY (R90). -/
  | brwAny (f : Fields)
  /-- BRW_ALL (R90). -/
  | brwAll (f : Fields)
  /-- BRW_NONE (R90). -/
  | brwNone (f : Fields)
  /-- BRW_WZ (R90). -/
  | brwWz (f : Fields)
  /-- BRW_WNZ (R90). -/
  | brwWnz (f : Fields)
  /-- JMPI (R90). -/
  | jmpi (f : Fields)
  /-- CALL (R91). -/
  | call (f : Fields)
  /-- CALLI (R91). -/
  | calli (f : Fields)
  /-- RET (R90). -/
  | ret (f : Fields)
  /-- JOIN (R92). -/
  | join (f : Fields)
  /-- EXIT (R93). -/
  | exit (f : Fields)
  /-- YIELD (R95). -/
  | yield (f : Fields)
  /-- BRK (R96). -/
  | brk (f : Fields)
  /-- TRAP (R403). -/
  | trap (f : Fields)
  /-- MOV (R121). -/
  | mov (f : Fields)
  /-- MOVW (R121). -/
  | movw (f : Fields)
  /-- BCASTW (R121). -/
  | bcastw (f : Fields)
  /-- BCASTW_P (R121). -/
  | bcastwP (f : Fields)
  /-- SEL (R122). -/
  | sel (f : Fields)
  /-- PAND (R123). -/
  | pand (f : Fields)
  /-- PAND_AN (R123). -/
  | pandAn (f : Fields)
  /-- POR (R123). -/
  | por (f : Fields)
  /-- POR_ON (R123). -/
  | porOn (f : Fields)
  /-- PXOR (R123). -/
  | pxor (f : Fields)
  /-- PNOT (R123). -/
  | pnot (f : Fields)
  /-- VOTE_BALLOT (R124). -/
  | voteBallot (f : Fields)
  /-- VOTE_ANY (R124). -/
  | voteAny (f : Fields)
  /-- VOTE_ALL (R124). -/
  | voteAll (f : Fields)
  /-- VOTE_UNI (R124). -/
  | voteUni (f : Fields)
  /-- MATCH_ANY (R125). -/
  | matchAny (f : Fields)
  /-- MATCH_ALL (R125). -/
  | matchAll (f : Fields)
  /-- REDUCE (R126). -/
  | reduce (f : Fields)
  /-- SCAN (R126). -/
  | scan (f : Fields)
  /-- SCAN_EXCLUSIVE (R126). -/
  | scanExclusive (f : Fields)
  /-- PERM (R128). -/
  | perm (f : Fields)
  /-- PACK (R129). -/
  | pack (f : Fields)
  /-- UNPK (R129). -/
  | unpk (f : Fields)
  /-- SUBX (R130). -/
  | subx (f : Fields)
  /-- SUBX_TWO (R130). -/
  | subxTwo (f : Fields)
  /-- MOVS (R97). -/
  | movs (f : Fields)
  /-- MOVS_CLR (R99). -/
  | movsClr (f : Fields)
  /-- IADD (R135). -/
  | iadd (f : Fields)
  /-- ISUB (R135). -/
  | isub (f : Fields)
  /-- IMUL (R135). -/
  | imul (f : Fields)
  /-- IMAD (R135). -/
  | imad (f : Fields)
  /-- IMULH (R136). -/
  | imulh (f : Fields)
  /-- IMULH_SU (R136). -/
  | imulhSu (f : Fields)
  /-- IMADW_LO (R137). -/
  | imadwLo (f : Fields)
  /-- IMADW_HI (R137). -/
  | imadwHi (f : Fields)
  /-- IDIV (R138). -/
  | idiv (f : Fields)
  /-- IREM (R138). -/
  | irem (f : Fields)
  /-- IMIN (R139). -/
  | imin (f : Fields)
  /-- IMAX (R139). -/
  | imax (f : Fields)
  /-- IABS (R139). -/
  | iabs (f : Fields)
  /-- SHL (R140). -/
  | shl (f : Fields)
  /-- SHR (R140). -/
  | shr (f : Fields)
  /-- SAR (R140). -/
  | sar (f : Fields)
  /-- ROT_L (R140). -/
  | rotL (f : Fields)
  /-- ROT_R (R140). -/
  | rotR (f : Fields)
  /-- FSHL_L (R141). -/
  | fshlL (f : Fields)
  /-- FSHL_R (R141). -/
  | fshlR (f : Fields)
  /-- AND (R142). -/
  | andB (f : Fields)
  /-- OR (R142). -/
  | orB (f : Fields)
  /-- XOR (R142). -/
  | xor (f : Fields)
  /-- ANDN (R142). -/
  | andn (f : Fields)
  /-- LOP3 (R143). -/
  | lop3 (f : Fields)
  /-- POPC (R144). -/
  | popc (f : Fields)
  /-- CLZ (R144). -/
  | clz (f : Fields)
  /-- CTZ (R144). -/
  | ctz (f : Fields)
  /-- BREV (R144). -/
  | brev (f : Fields)
  /-- BFX (R145). -/
  | bfx (f : Fields)
  /-- BFI (R145). -/
  | bfi (f : Fields)
  /-- ICMP (R146). -/
  | icmp (f : Fields)
  /-- IADDC_C (R147). -/
  | iaddcC (f : Fields)
  /-- IADDC_B (R147). -/
  | iaddcB (f : Fields)
  /-- LEA (R148). -/
  | lea (f : Fields)
  /-- SAD (R149). -/
  | sad (f : Fields)
  /-- ACS_PM (R150). -/
  | acsPm (f : Fields)
  /-- ACS_MP (R150). -/
  | acsMp (f : Fields)
  /-- FADD (R160). -/
  | fadd (f : Fields)
  /-- FSUB (R160). -/
  | fsub (f : Fields)
  /-- FMUL (R160). -/
  | fmul (f : Fields)
  /-- FFMA (R160). -/
  | ffma (f : Fields)
  /-- FMIN (R161). -/
  | fmin (f : Fields)
  /-- FMAX (R161). -/
  | fmax (f : Fields)
  /-- FCMP (R162). -/
  | fcmp (f : Fields)
  /-- FCLASS (R163). -/
  | fclass (f : Fields)
  /-- FCLASS_TEST (R163). -/
  | fclassTest (f : Fields)
  /-- FRND (R164). -/
  | frnd (f : Fields)
  /-- FRND_X (R164). -/
  | frndX (f : Fields)
  /-- FCVT (R167). -/
  | fcvt (f : Fields)
  /-- FSCALE (R169). -/
  | fscale (f : Fields)
  /-- FDOT2 (R170). -/
  | fdot2 (f : Fields)
  /-- FDIV (R171). -/
  | fdiv (f : Fields)
  /-- FSQRT (R171). -/
  | fsqrt (f : Fields)
  /-- MODESET_ALL (R158). -/
  | modesetAll (f : Fields)
  /-- MODESET_RM (R158). -/
  | modesetRm (f : Fields)
  /-- MODESET_FTZ (R158). -/
  | modesetFtz (f : Fields)
  /-- MODESET_FCLR (R158). -/
  | modesetFclr (f : Fields)
  /-- MODEGET (R159). -/
  | modeget (f : Fields)
  /-- MODEGET_CLR (R159). -/
  | modegetClr (f : Fields)
  /-- SEED (R168). -/
  | seed (f : Fields)
  /-- SEED_LANE (R168). -/
  | seedLane (f : Fields)
  /-- CMUL (R172). -/
  | cmul (f : Fields)
  /-- CFMA (R172). -/
  | cfma (f : Fields)
  /-- CMULJ (R172). -/
  | cmulj (f : Fields)
  /-- CCONJ (R173). -/
  | cconj (f : Fields)
  /-- CABS2 (R172). -/
  | cabs2 (f : Fields)
  /-- RCP (R175). -/
  | rcp (f : Fields)
  /-- RSQ (R175). -/
  | rsq (f : Fields)
  /-- SQRTA (R175). -/
  | sqrta (f : Fields)
  /-- EX2 (R175). -/
  | ex2 (f : Fields)
  /-- LG2 (R175). -/
  | lg2 (f : Fields)
  /-- SINPI (R175). -/
  | sinpi (f : Fields)
  /-- COSPI (R175). -/
  | cospi (f : Fields)
  /-- CISPI (R177). -/
  | cispi (f : Fields)
  /-- TANH (R175). -/
  | tanh (f : Fields)
  /-- SIGM (R175). -/
  | sigm (f : Fields)
  /-- ERF (R175). -/
  | erf (f : Fields)
  /-- LDS (R192). -/
  | lds (f : Fields)
  /-- STS (R192). -/
  | sts (f : Fields)
  /-- COPY (R193). -/
  | copy (f : Fields)
  /-- COPYOUT (R193). -/
  | copyout (f : Fields)
  /-- SPCLR (R194). -/
  | spclr (f : Fields)
  /-- SPMAP (R195). -/
  | spmap (f : Fields)
  /-- SPUNMAP (R196). -/
  | spunmap (f : Fields)
  /-- SPWB (R196). -/
  | spwb (f : Fields)
  /-- QBIND_POP (R215). -/
  | qbindPop (f : Fields)
  /-- QBIND_PUSH (R215). -/
  | qbindPush (f : Fields)
  /-- QUNBIND (R215). -/
  | qunbind (f : Fields)
  /-- QINIT (R214). -/
  | qinit (f : Fields)
  /-- QINIT_DROP (R214). -/
  | qinitDrop (f : Fields)
  /-- QTRY (R216). -/
  | qtry (f : Fields)
  /-- QPEEK (R216). -/
  | qpeek (f : Fields)
  /-- QLEN (R216). -/
  | qlen (f : Fields)
  /-- QCLOSE (R217). -/
  | qclose (f : Fields)
  /-- DQSET (R218). -/
  | dqset (f : Fields)
  /-- DQSET_CLR (R218). -/
  | dqsetClr (f : Fields)
  /-- SPAWN (R219). -/
  | spawn (f : Fields)
  /-- POPTASK (R220). -/
  | poptask (f : Fields)
  /-- STEAL_ANY (R220). -/
  | stealAny (f : Fields)
  /-- STEAL_AT (R220). -/
  | stealAt (f : Fields)
  /-- TASKDONE (R221). -/
  | taskdone (f : Fields)
  /-- PHASEBEGIN (R222). -/
  | phasebegin (f : Fields)
  /-- PHASEWAIT (R222). -/
  | phasewait (f : Fields)
  /-- PHASEWAIT_TRY (R222). -/
  | phasewaitTry (f : Fields)
  /-- WAITLE (R236). -/
  | waitle (f : Fields)
  /-- BARINIT (R237). -/
  | barinit (f : Fields)
  /-- BARARR (R238). -/
  | bararr (f : Fields)
  /-- BARWAIT (R238). -/
  | barwait (f : Fields)
  /-- BARSYNC (R238). -/
  | barsync (f : Fields)
  /-- TBAR_SYNC (R239). -/
  | tbarSync (f : Fields)
  /-- TBAR_ARR (R239). -/
  | tbarArr (f : Fields)
  /-- TBAR_WAIT (R239). -/
  | tbarWait (f : Fields)
  /-- GANG (R260). -/
  | gang (f : Fields)
  /-- AREL (R260). -/
  | arel (f : Fields)
  /-- TDESC (R261). -/
  | tdesc (f : Fields)
  /-- MMA (R262). -/
  | mma (f : Fields)
  /-- MMAS (R262). -/
  | mmas (f : Fields)
  /-- ACLR (R264). -/
  | aclr (f : Fields)
  /-- AMOV_COPY (R264). -/
  | amovCopy (f : Fields)
  /-- AMOV_TR (R264). -/
  | amovTr (f : Fields)
  /-- AMOV_GET (R264). -/
  | amovGet (f : Fields)
  /-- AMOV_PUT (R264). -/
  | amovPut (f : Fields)
  /-- ALD (R265). -/
  | ald (f : Fields)
  /-- AST (R265). -/
  | ast (f : Fields)
  /-- ARED (R266). -/
  | ared (f : Fields)
  /-- AEPI (R267). -/
  | aepi (f : Fields)
  /-- LD (R291). -/
  | ld (f : Fields)
  /-- ST (R291). -/
  | st (f : Fields)
  /-- LDX (R291). -/
  | ldx (f : Fields)
  /-- STX (R291). -/
  | stx (f : Fields)
  /-- PREF_L2 (R292). -/
  | prefL2 (f : Fields)
  /-- PREF_MSC (R292). -/
  | prefMsc (f : Fields)
  /-- PREF_CORE (R292). -/
  | prefCore (f : Fields)
  /-- ATOM (R293). -/
  | atom (f : Fields)
  /-- ATOMR_CAS (R294). -/
  | atomrCas (f : Fields)
  /-- ATOMR_SWAP (R294). -/
  | atomrSwap (f : Fields)
  /-- RED (R293). -/
  | red (f : Fields)
  /-- REDF_ADD (R295). -/
  | redfAdd (f : Fields)
  /-- REDF_FLUSH (R296). -/
  | redfFlush (f : Fields)
  /-- BULK_COPY (R297). -/
  | bulkCopy (f : Fields)
  /-- BULK_FILL (R297). -/
  | bulkFill (f : Fields)
  /-- ESYNC_BOTH (R312). -/
  | esyncBoth (f : Fields)
  /-- ESYNC_IN (R312). -/
  | esyncIn (f : Fields)
  /-- ESYNC_OUT (R312). -/
  | esyncOut (f : Fields)
  /-- PROBE_R (R328). -/
  | probeR (f : Fields)
  /-- PROBE_W (R328). -/
  | probeW (f : Fields)
  /-- PROBE_X (R328). -/
  | probeX (f : Fields)
  /-- ASBIND (R351). -/
  | asbind (f : Fields)
  /-- ASBIND_CLOSE (R351). -/
  | asbindClose (f : Fields)
  /-- ASBIND_CLR (R351). -/
  | asbindClr (f : Fields)
  /-- TRACE (R352). -/
  | trace (f : Fields)
  /-- TRACEW (R353). -/
  | tracew (f : Fields)
  /-- HITACC (R354). -/
  | hitacc (f : Fields)
  /-- HITACC_END (R354). -/
  | hitaccEnd (f : Fields)
  /-- HITIGN (R354). -/
  | hitign (f : Fields)
  /-- RAYSPAWN (R355). -/
  | rayspawn (f : Fields)
  /-- RAYTERM (R354). -/
  | rayterm (f : Fields)
  /-- RLOAD (R356). -/
  | rload (f : Fields)
  /-- RLOAD_SLOT (R356). -/
  | rloadSlot (f : Fields)
  /-- CLEMIT (R370). -/
  | clemit (f : Fields)
  /-- BUILD (R371). -/
  | build (f : Fields)
  /-- REFIT (R364). -/
  | refit (f : Fields)
  /-- REFIT_INPLACE (R364). -/
  | refitInplace (f : Fields)
  /-- COMPACT (R365). -/
  | compact (f : Fields)
  /-- SFWAIT (R372). -/
  | sfwait (f : Fields)
  /-- SFWAIT_TRY (R372). -/
  | sfwaitTry (f : Fields)
  /-- GENADV (R373). -/
  | genadv (f : Fields)
  /-- LAUNCH (R390). -/
  | launch (f : Fields)
  /-- NOTIFY (R390). -/
  | notify (f : Fields)
  /-- HRET (R404). -/
  | hret (f : Fields)
  /-- SRD (R405). -/
  | srd (f : Fields)
  /-- SWR (R405). -/
  | swr (f : Fields)
  /-- SWR_T (R405). -/
  | swrT (f : Fields)
  /-- CLOCK_CYC (R406). -/
  | clockCyc (f : Fields)
  /-- CLOCK_NS (R406). -/
  | clockNs (f : Fields)
  /-- NIBEX_HALT (R381). -/
  | nxHalt (f : NibexFields)
  /-- NIBEX_LDC (R381). -/
  | nxLdc (f : NibexFields)
  /-- NIBEX_LDI (R381). -/
  | nxLdi (f : NibexFields)
  /-- NIBEX_ADDI (R381). -/
  | nxAddi (f : NibexFields)
  /-- NIBEX_ADD (R381). -/
  | nxAdd (f : NibexFields)
  /-- NIBEX_AND (R381). -/
  | nxAnd (f : NibexFields)
  /-- NIBEX_SHR (R381). -/
  | nxShr (f : NibexFields)
  /-- NIBEX_SHL (R381). -/
  | nxShl (f : NibexFields)
  /-- NIBEX_LDM (R383). -/
  | nxLdm (f : NibexFields)
  /-- NIBEX_STM (R383). -/
  | nxStm (f : NibexFields)
  /-- NIBEX_BEQ (R381). -/
  | nxBeq (f : NibexFields)
  /-- NIBEX_BNE (R381). -/
  | nxBne (f : NibexFields)
  /-- NIBEX_BLTU (R381). -/
  | nxBltu (f : NibexFields)
  /-- NIBEX_DJNZ (R381). -/
  | nxDjnz (f : NibexFields)
  /-- NIBEX_NLAUNCH (R384). -/
  | nxNlaunch (f : NibexFields)
  /-- NIBEX_NCOPY (R381). -/
  | nxNcopy (f : NibexFields)
  /-- NIBEX_NBUILD (R381). -/
  | nxNbuild (f : NibexFields)
  /-- NIBEX_NWAIT (R381). -/
  | nxNwait (f : NibexFields)
  /-- NIBEX_NDONE (R381). -/
  | nxNdone (f : NibexFields)
  /-- TEAM_BARRIER_RELEASE (R233): wid is `unit`. -/
  | teamBarrierRelease
  /-- GANG_GRANT (R241): cluster is `unit`. -/
  | gangGrant
  /-- TILE_RETURN (R242): gang is `unit`. -/
  | tileReturn
  /-- MXE_ENTRY_START (R249): cluster is `unit`, entry is `item`. -/
  | mxeEntryStart
  /-- MXE_RETIRE (R252): cluster is `unit`, entry is `item`. -/
  | mxeRetire
  /-- SLOT_WAIT_RESUME (R285): die is `unit`. -/
  | slotWaitResume
  /-- HEADER_WAIT_PASS (R42): wid is `unit`, hdr is `word`. -/
  | headerWaitPass
  /-- SLUICE_ADMIT (R111): core is `unit`. -/
  | sluiceAdmit
  /-- SLUICE_REFILL (R113): core is `unit`. -/
  | sluiceRefill
  /-- JOIN_RELEASE (R84): wid is `unit`, rc is `word`. -/
  | joinRelease
  /-- WARP_DRAIN_END (R93): wid is `unit`. -/
  | warpDrainEnd
  /-- TEAM_PLACEMENT (R73): launch is `unit`, cores are `nums`. -/
  | teamPlacement
  /-- DICTIONARY_LOAD (R53): core is `unit`, bank is `item`, launch is `third`. -/
  | dictionaryLoad
  /-- ALLOTMENT_CLEAR (R178): allot is `unit`. -/
  | allotmentClear
  /-- ALLOTMENT_FREE (R180): allot is `unit`. -/
  | allotmentFree
  /-- LINE_DATA_ARRIVAL (R181): cluster is `unit`, cmd is `item`, piece is `third`. -/
  | lineDataArrival
  /-- COPY_ENGINE_COMPLETE (R186): cluster is `unit`, cmd is `item`. -/
  | copyEngineComplete
  /-- RAY_POP (R338): core is `unit`. -/
  | rayPop
  /-- NODE_VISIT (R338): core is `unit`, ray is `item`. -/
  | nodeVisit
  /-- FENCE_PASS (R342): core is `unit`, ray is `item`. -/
  | fencePass
  /-- LEAF_TEST (R340): core is `unit`, ray is `item`. -/
  | leafTest
  /-- BUILDER_COMMAND_START (R360): builder is `unit`. -/
  | builderCommandStart
  /-- BUILDER_WRITE_PHASE (R362): builder is `unit`. -/
  | builderWritePhase
  /-- BUILDER_COMPLETE (R362): builder is `unit`. -/
  | builderComplete
  /-- LEASE_RENEWAL (R302): core is `unit`, line is `item`, pts is `third`. -/
  | leaseRenewal
  /-- L2_EVICT (R305): line is `unit`. -/
  | l2Evict
  /-- L2_FILL (R305): line is `unit`. -/
  | l2Fill
  /-- PTS_ADVANCE (R304): wid is `unit`. -/
  | ptsAdvance
  /-- TIMESTAMP_OVERFLOW (R306). -/
  | timestampOverflow
  /-- PEER_LINK_READ (R318): peer is `unit`, pa is `item`, len is `third`. -/
  | peerLinkRead
  /-- PEER_LINK_WRITE (R318): peer is `unit`, pa is `item`, data are `bytes`. -/
  | peerLinkWrite
  /-- CORRECTED_ERROR (R286): die is `unit`. -/
  | correctedError
  /-- MEM_UNCORRECT (R287): ctx is `unit`, pa is `item`, unit is `third`; the warp whose instruction needs the data, if one does,
  is the head of `nums`. -/
  | memUncorrect
  /-- UNCONSUMED_ERROR (R288): pa is `unit`, writeBack is `item`. -/
  | unconsumedError
  /-- TLB_MISS_WALK (R323): die is `unit`, tlb is `item`, ctx is `third`, va is `word`. -/
  | tlbMissWalk
  /-- WALK_COMPLETE (R321): die is `unit`, walk is `item`. -/
  | walkComplete
  /-- FAULT_REPLAY (R325): die is `unit`, fault is `item`. -/
  | faultReplay
  /-- FAULT_FAIL (R325): die is `unit`, fault is `item`. -/
  | faultFail
  /-- SUPERVISOR_CONTINUE (R400): die is `unit`, wid is `item`. -/
  | supervisorContinue
  /-- SUPERVISOR_HALT (R400): die is `unit`, wid is `item`. -/
  | supervisorHalt
  /-- HALT_SAVE_COMPLETE (R407): ctx is `unit`. -/
  | haltSaveComplete
  /-- EVICTION_REQUEST (R410): launch is `unit`, cores are `nums`. -/
  | evictionRequest
  /-- VICTIM_SAVE (R411): wid is `unit`. -/
  | victimSave
  /-- EVICTION_RELEASE_TIMEOUT (R412): wid is `unit`. -/
  | evictionReleaseTimeout
  /-- WARP_RESUME (R413): saved is `unit`. -/
  | warpResume
  /-- FEU_SLOT_EXAMINE (R377): queue is `unit`. -/
  | feuSlotExamine
  /-- QUEUE_RESTART (R377): queue is `unit`, rd is `item`. -/
  | queueRestart
  /-- NDONE_STORE (R383): queue is `unit`, done is `item`. -/
  | ndoneStore
  /-- NIBEX_STEP_BUDGET (R383): queue is `unit`. -/
  | nxStepBudget
  /-- DISPATCH_STARVATION (R385): die is `unit`. -/
  | dispatchStarvation
  /-- ISSUE_CLASS_BOOST (R386): launch is `unit`. -/
  | issueClassBoost
  /-- TICKET (R378): peer is `unit`, queue is `item`. -/
  | ticket
  /-- NOTIFY_RECORD (R379): peer is `unit`, queue is `item`, record are `bytes`. -/
  | notifyRecord
  /-- CLAIM (R422): peer is `unit`. -/
  | mbxClaim
  /-- SUBMIT (R422): peer is `unit`, token is `item`. -/
  | mbxSubmit
  /-- NEXT (R422): peer is `unit`, token is `item`. -/
  | mbxNext
  /-- RELEASE (R422): peer is `unit`, token is `item`. -/
  | mbxRelease
  /-- CLAIM_LAPSE (R422). -/
  | claimLapse
  /-- CREATE (R424): ctx is `unit`, pools are `nums`. -/
  | reqCreate
  /-- MAP (R424): pa is `unit`, vouched is `item`, tables are `nums`. -/
  | reqMap
  /-- UNMAP (R424). -/
  | reqUnmap
  /-- QUEUE_CREATE (R424): queue is `unit`. -/
  | reqQueueCreate
  /-- QUEUE_DESTROY (R424). -/
  | reqQueueDestroy
  /-- HALT_REQUEST (R424). -/
  | reqHalt
  /-- RESUME_REQUEST (R424). -/
  | reqResume
  /-- ATTEST (R418). -/
  | reqAttest
  /-- DESTROY (R419). -/
  | reqDestroy
  /-- REGISTER_SPACE_ERROR (R421): peer is `unit`, addr is `item`, len is `third`. -/
  | registerSpaceError
  /-- REGISTER_WRITE (R21): the write is `bytes`, its first byte the pointer. -/
  | registerWrite
  /-- SET_POINTER (R21): ptr is `unit`. -/
  | setPointer
  /-- PRIVATE_READ (R21): len is `unit`. -/
  | privateRead
  /-- ENTDAA (R21): addr is `unit`. -/
  | entdaa
  /-- POWER_LIMIT_WRITE (R18): watts is `unit`. -/
  | powerLimitWrite
  /-- EVENT_FLAGS_CLEAR (R21): ones is `unit`. -/
  | eventFlagsClear
  /-- MODULE_RESET (R21): value is `unit`. -/
  | moduleReset
  /-- POWER_THROTTLE_STEP (R18): draw is `unit`. -/
  | powerThrottleStep
  /-- CLOCK_RAISE_STEP (R18): draw is `unit`, t0 is `item`, t1 is `third`. -/
  | clockRaiseStep
  /-- THERMAL_THROTTLE_STEP (R19): t0 is `unit`, t1 is `item`. -/
  | thermalThrottleStep
  /-- THERMAL_TRIP (R19): t0 is `unit`, t1 is `item`. -/
  | thermalTrip
  /-- POWER_ON_BOOT (R417): the images are `images`; clock and configuration are in `nums`, `item`, `third`, `word`. -/
  | powerOnBoot
  /-- PTP_STEER (R387): ppm is `signed`, span is `unit`. -/
  | ptpSteer
  /-- PTP_FIRST_LOCK (R387): master is `unit`. -/
  | ptpFirstLock
  /-- COMPLEX_FAILED (R416): die is `unit`. -/
  | complexFailed
  /-- FATAL_DUMP (R429): cause is `unit`. -/
  | fatalDump
  /-- LINK_PORT_FAILURE (R433): port is `unit`. -/
  | linkPortFailure
  /-- PACKAGE_REMOVAL (R433): package is `unit`. -/
  | packageRemoval
  /-- HEARTBEAT (R416). -/
  | heartbeat
  /-- MSC_EVICTION (R271): line is `unit`. -/
  | mscEviction
  /-- PATH_RETURNS (R433): package is `unit`. -/
  | pathReturns
  deriving DecidableEq, Repr

end Sys2Proof
end

