-- ==== Sys2Proof/Machine/Elements.lean ====
section
/-! DEFINITION. Elements of a lane, fills, ranges and immediates of the data types (02 R22-R25, 06 R132). -/
namespace Sys2Proof

/-- The code of a data type in bits [143:139] (Table 2.2). -/
def Ty.code : Ty → BitVec 5
  | .i8 => 0x00 | .i16 => 0x01 | .i32 => 0x02 | .i64 => 0x03 | .n8 => 0x04 | .n16 => 0x05 | .n32 => 0x06
  | .n64 => 0x07 | .b32 => 0x08 | .b64 => 0x09 | .f32 => 0x0A | .f16 => 0x0B | .bf16 => 0x0C | .e4m3 => 0x0D
  | .e5m2 => 0x0E | .e2m1 => 0x0F | .c32 => 0x10 | .i8x8 => 0x11 | .i16x4 => 0x12 | .i32x2 => 0x13
  | .n8x8 => 0x14 | .n16x4 => 0x15 | .f32x2 => 0x16 | .f16x4 => 0x17 | .bf16x4 => 0x18 | .e4m3x8 => 0x19
  | .e5m2x8 => 0x1A | .e2m1x16 => 0x1B | .n32x2 => 0x1C | .noType => 0x1F

/-- Every data type that has a code. -/
def Ty.all : List Ty :=
  [.i8, .i16, .i32, .i64, .n8, .n16, .n32, .n64, .b32, .b64, .f32, .f16, .bf16, .e4m3, .e5m2, .e2m1, .c32,
   .i8x8, .i16x4, .i32x2, .n8x8, .n16x4, .f32x2, .f16x4, .bf16x4, .e4m3x8, .e5m2x8, .e2m1x16, .n32x2, .noType]

/-- The data type of a code; codes 0x1D and 0x1E are illegal (02 R25). -/
def Ty.ofCode (c : BitVec 5) : Option Ty := Ty.all.find? (fun t => t.code == c)

/-- The width of an element of the type, in bits; 64 where the type says nothing. -/
def Ty.width : Ty → Nat
  | .i8 | .n8 | .i8x8 | .n8x8 | .e4m3 | .e5m2 | .e4m3x8 | .e5m2x8 => 8
  | .i16 | .n16 | .i16x4 | .n16x4 | .f16 | .bf16 | .f16x4 | .bf16x4 => 16
  | .i32 | .n32 | .b32 | .i32x2 | .n32x2 | .f32 | .f32x2 => 32
  | .e2m1 | .e2m1x16 => 4
  | .i64 | .n64 | .b64 | .c32 | .noType => 64

/-- The packed types of Table 2.1. -/
def Ty.packed : Ty → Bool
  | .i8x8 | .n8x8 | .i16x4 | .n16x4 | .i32x2 | .n32x2 | .f32x2 | .f16x4 | .bf16x4 | .e4m3x8 | .e5m2x8
  | .e2m1x16 => true
  | _ => false

/-- The signed integer types (02 R24). -/
def Ty.signed : Ty → Bool
  | .i8 | .i16 | .i32 | .i64 | .i8x8 | .i16x4 | .i32x2 => true
  | _ => false

/-- The types of untyped bits. -/
def Ty.untyped : Ty → Bool
  | .b32 | .b64 => true
  | _ => false

/-- How many elements an instruction computes in a lane: a scalar type counts one (06 R131). -/
def Ty.count (t : Ty) : Nat := if t.packed then 64 / t.width else 1

/-- `E` of the crossbar (05 R117): 64 ÷ w, and 1 for the 64-bit types, .c32 and no type. -/
def Ty.laneElems (t : Ty) : Nat := 64 / t.width

/-- Element `k` of width `w` of a lane (02 R22). -/
def elemAt (w : Nat) (x : Word) (k : Nat) : Nat := (x.toNat >>> (k * w)) % 2 ^ w

/-- Elements joined into a lane, element 0 lowest, `w` bits each; bits above are zero (02 R22). -/
def joinElems (w : Nat) (xs : List Nat) : Word :=
  BitVec.ofNat 64 (xs.foldr (fun x acc => x % 2 ^ w + acc * 2 ^ w) 0)

/-- A lane of one repeated element (05 R117). -/
def splat (w : Nat) (x : Nat) : Word := joinElems w (List.replicate (64 / w) x)

/-- The fill of a scalar narrower than a lane: sign for .i types, zeros for every other (02 R23). -/
def Ty.fill (t : Ty) (x : Word) : Word :=
  if t.packed || t.width == 64 then x
  else if t.signed then BitVec.ofInt 64 (toSigned t.width x.toNat)
  else BitVec.ofNat 64 (x.toNat % 2 ^ t.width)

/-- The elements an instruction of the type computes with. -/
def Ty.elems (t : Ty) (x : Word) : List Nat := (List.range t.count).map (elemAt t.width x)

/-- A lane from the results of the elements: packed as they are, a scalar filled (02 R22, R23). -/
def Ty.join (t : Ty) (xs : List Nat) : Word := t.fill (joinElems t.width xs)

/-- An element read as the type reads it: two's complement for .i, unsigned for .n and .b (06 R131). -/
def Ty.toInt (t : Ty) (x : Nat) : Int := if t.signed then toSigned t.width x else (x % 2 ^ t.width : Nat)

/-- The least value of an integer element. -/
def rangeLo (signed : Bool) (w : Nat) : Int := if signed then -(2 ^ (w - 1) : Nat) else 0

/-- The greatest value of an integer element. -/
def rangeHi (signed : Bool) (w : Nat) : Int := if signed then (2 ^ (w - 1) : Nat) - 1 else (2 ^ w : Nat) - 1

/-- An exact integer result wrapped, or clamped with saturate, at width `w` (02 R24). -/
def narrowInt (signed sat : Bool) (w : Nat) (x : Int) : Nat :=
  wrapTo w (if sat then clampInt (rangeLo signed w) (rangeHi signed w) x else x)

/-- The same at the type's own width. -/
def Ty.narrow (t : Ty) (sat : Bool) (x : Int) : Nat := narrowInt t.signed sat t.width x

/-- The signed value of an immediate (03 R59). -/
def immSigned (i : BitVec 18) : Int := toSigned 18 i.toNat

/-- An immediate replicated into every element of the type (06 R132). -/
def Ty.immSplat (t : Ty) (i : BitVec 18) : Word :=
  if t.signed || t.untyped then
    (if t.width == 64 then BitVec.ofInt 64 (immSigned i) else splat t.width (wrapTo t.width (immSigned i)))
  else (if t.width == 64 then BitVec.ofNat 64 i.toNat else splat t.width i.toNat)

/-- The set Z of integer types (06 R131). -/
def Ty.setZ : List Ty :=
  [.i8, .i16, .i32, .i64, .n8, .n16, .n32, .n64, .i8x8, .i16x4, .i32x2, .n8x8, .n16x4, .n32x2]

/-- The set ZB (06 R131). -/
def Ty.setZB : List Ty := setZ ++ [.b32, .b64]

/-- The set P of packed integer types (06 R131). -/
def Ty.setP : List Ty := [.i8x8, .i16x4, .i32x2, .n8x8, .n16x4, .n32x2]

/-- The scalar types of Z. -/
def Ty.setZs : List Ty := [.i8, .i16, .i32, .i64, .n8, .n16, .n32, .n64]

/-- The .i types of Z. -/
def Ty.setI : List Ty := [.i8, .i16, .i32, .i64, .i8x8, .i16x4, .i32x2]

/-- The set F of floating-point types (07 R152). -/
def Ty.setF : List Ty := [.f32, .f16, .bf16, .f32x2, .f16x4, .bf16x4]

/-- The scalar part of F (07 R152). -/
def Ty.setFS : List Ty := [.f32, .f16, .bf16]

/-- The FP8 and FP4 types (07 Table 7.4). -/
def Ty.setSmall : List Ty := [.e4m3, .e5m2, .e2m1, .e4m3x8, .e5m2x8, .e2m1x16]

/-- Every type with code 0x00 to 0x1C (05 R120). -/
def Ty.setAny : List Ty := Ty.all.filter (· != .noType)

end Sys2Proof
end

