-- ==== Sys2Proof/Machine/Encodings.lean ====
section
/-! DEFINITION. The encoding tables of the spec: for each row of Irlek its opcode, variants, types, operand classes, rounding, saturate, hint, counter and modifiers (Tables 4.3, 5.7, 6.1, 7.1, 8.1, 9.8, 10.1, 11.7, 12.3, 15.7, 16.4, 18.8). -/
namespace Sys2Proof

/-- Operand classes (03 Table 3.5); `absent` is the field of an operand that an instruction does not use. -/
inductive Cls where
  | v | w | p | t | a | q | imm | special | absent
  deriving DecidableEq, Repr

/-- The class of an operand. -/
def Operand.cls : Operand → Cls
  | .v .. => .v
  | .w _ => .w
  | .p _ => .p
  | .t _ => .t
  | .a _ => .a
  | .q _ => .q
  | .imm _ => .imm
  | .special _ => .special
  | .absent => .absent

/-- How an entry reads an immediate, and its limits: signed, unsigned within bounds, an element value of the type
(06 R132), or bits [31:14] of a binary32 (07 R152). -/
inductive ImmRule where
  | signed
  | range (lo hi : Nat)
  | elem
  | float
  deriving DecidableEq, Repr

/-- What an operand position accepts: classes, whether it is a destination, its immediates, and how many consecutive
registers it names. -/
structure Pos where
  cls : List Cls
  dst : Bool := false
  imm : ImmRule := .signed
  regs : Nat := 1

/-- Rounding admitted: none (field 0), a direction or DYN, or also SR (02 R29, 07 R153). -/
inductive RoundRule where
  | zero | dir | dirSR
  deriving DecidableEq, Repr

/-- An encoding row. `wideDst` says that a w destination forbids v sources (06 R132); `rowOp` is the operand that names row 0
of a row vector (11 R257); `extra` are the entry's own
checks, given the warp's uniform groups. -/
structure Enc where
  opcode : Nat
  variants : List Nat := [0]
  types : List Ty := [.noType]
  ops : List Pos := []
  round : Fields → RoundRule := fun _ => .zero
  hint : Bool := false
  counter : Bool := false
  sat : Fields → Bool := fun _ => false
  mods : BitVec 8 := 0
  wideDst : Bool := false
  control : Bool := false
  rowOp : Option Nat := none
  permE : Fields → Nat → Nat := fun f _ => f.ty.laneElems
  extra : Nat → Fields → Bool := fun _ _ => true

namespace Enc

def none_ : Pos := { cls := [.absent] }
/-- d: a v or w destination. -/
def d : Pos := { cls := [.v, .w], dst := true }
/-- s: a v, w or element immediate source. -/
def s : Pos := { cls := [.v, .w, .imm], imm := .elem }
/-- u: an amount (06 R132). -/
def amount : Pos := { cls := [.v, .w, .imm], imm := .range 0 262143 }
/-- f: a v, w or floating immediate source. -/
def f : Pos := { cls := [.v, .w, .imm], imm := .float }
def pd : Pos := { cls := [.p], dst := true }
def ps : Pos := { cls := [.p] }
def vd : Pos := { cls := [.v], dst := true }
def vs : Pos := { cls := [.v] }
def wd : Pos := { cls := [.w], dst := true }
def ws : Pos := { cls := [.w] }
/-- a: a v or w address or base. -/
def addr : Pos := { cls := [.v, .w] }
def simm : Pos := { cls := [.imm] }
def uimm (lo hi : Nat) : Pos := { cls := [.imm], imm := .range lo hi }
/-- u: a w register or an unsigned immediate. -/
def wu (lo hi : Nat) : Pos := { cls := [.w, .imm], imm := .range lo hi }
/-- s: a w register or a signed immediate. -/
def wsimm : Pos := { cls := [.w, .imm] }
/-- s of the memory chapter: a v, w or signed immediate source. -/
def data : Pos := { cls := [.v, .w, .imm] }
def acc : Pos := { cls := [.a] }
def accD : Pos := { cls := [.a], dst := true }
def tile : Pos := { cls := [.t] }
def qs : Pos := { cls := [.q] }
def pOpt : Pos := { cls := [.p, .absent] }
def pairD : Pos := { cls := [.v], dst := true, regs := 2 }
def pair : Pos := { cls := [.v], regs := 2 }
def pairOpt : Pos := { cls := [.v, .absent], regs := 2 }
def quad : Pos := { cls := [.v], regs := 4 }
/-- The first of `k` uniform registers, all of which are read or written. -/
def wsOf (k : Nat) : Pos := { cls := [.w], regs := k }

/-- The register number of a v or w operand, or of any other numbered class. -/
def num : Operand → Nat
  | .v n _ _ => n.toNat
  | .w n => n.toNat
  | .p n => n.toNat
  | .t n => n.toNat
  | .a n => n.toNat
  | .q n => n.toNat
  | .imm i => i.toNat
  | .special n => n.toNat
  | .absent => 0

/-- Whether a group of `k` uniform registers from operand `o` lies in the allotment. -/
def wGroup (k nw : Nat) (o : Operand) : Bool := num o + k ≤ 16 * nw

/-- The ordering flags of modifier bits [3:0] (08 R187): scope not 0b11, and 0 where both flags are 0. -/
def ordOk (f : Fields) : Bool :=
  natBits f.mods.toNat 3 2 != 3 && (natBits f.mods.toNat 1 0 != 0 || natBits f.mods.toNat 3 2 == 0)

def isCls (c : Cls) (o : Operand) : Bool := o.cls == c

/-- A v operand whose number is a multiple of `k`; other classes pass. -/
def aligned (k : Nat) (o : Operand) : Bool := o.cls != .v || num o % k == 0

/-! ### Control (Table 4.3), MOVS (04 R97) -/

def control' (op : Nat) (ops : List Pos) : Enc := { opcode := op, ops := ops, control := true }
def nop : Enc := { opcode := 0x001 }
def bra : Enc := control' 0x002 [simm]
def brc : Enc := control' 0x003 [ps, simm, simm]
def brwAny : Enc := control' 0x004 [ps, simm]
def brwAll : Enc := { brwAny with variants := [1] }
def brwNone : Enc := { brwAny with variants := [2] }
def brwWz : Enc := { brwAny with variants := [3], ops := [ws, simm] }
def brwWnz : Enc := { brwAny with variants := [4], ops := [ws, simm] }
def jmpi : Enc := control' 0x005 [vs]
def call : Enc := control' 0x006 [vd, simm]
def calli : Enc := control' 0x007 [vd, vs]
def ret : Enc := control' 0x008 [vs]
def join : Enc := control' 0x009 []
def exit : Enc := control' 0x00A []
def yield : Enc := { opcode := 0x00B, ops := [uimm 0 1023] }
def brk : Enc := { opcode := 0x00C, ops := [uimm 0 65535] }
def trap : Enc := control' 0x00D [uimm 0 65535]
/-- Per-lane special registers (Table 4.5). -/
def movs : Enc :=
  { opcode := 0x050, ops := [d, { cls := [.special] }],
    extra := fun _ f => match f.op1 with
      | .special n => 1 ≤ n.toNat && n.toNat ≤ 0x11 && (2 < n.toNat || !isCls .w f.op0)
      | _ => false }
def movsClr : Enc :=
  { movs with variants := [1], extra := fun _ f => f.op1 == .special 0x0E }

/-! ### Moves and cross-lane (Tables 5.7 to 5.9) -/

def mov : Enc :=
  { opcode := 0x040, types := Ty.setAny, ops := [d, data],
    extra := fun _ f => if isCls .w f.op0 then !isCls .v f.op1 && !isCls .q f.op1 else !isCls .w f.op1 }
def movw : Enc := { opcode := 0x041, types := Ty.setAny, ops := [wd, vs] }
def bcastw : Enc := { opcode := 0x042, types := Ty.setAny, ops := [vd, ws] }
def bcastwP : Enc := { opcode := 0x042, variants := [1], ops := [pd, ws] }
def sel : Enc := { opcode := 0x043, types := Ty.setAny, ops := [vd, ps, data, data] }
def pand : Enc := { opcode := 0x044, ops := [pd, ps, ps] }
def pandAn : Enc := { pand with variants := [1] }
def por : Enc := { opcode := 0x045, ops := [pd, ps, ps] }
def porOn : Enc := { por with variants := [1] }
def pxor : Enc := { opcode := 0x046, ops := [pd, ps, ps] }
def pnot : Enc := { opcode := 0x047, ops := [pd, ps] }
def voteBallot : Enc := { opcode := 0x048, ops := [d, ps] }
def voteAny : Enc := { opcode := 0x048, variants := [1], ops := [pd, ps] }
def voteAll : Enc := { voteAny with variants := [2] }
def voteUni : Enc := { voteAny with variants := [3] }
def matchAny : Enc := { opcode := 0x049, types := [.b32, .b64], ops := [vd, vs] }
def matchAll : Enc := { opcode := 0x049, variants := [1], types := [.b32, .b64], ops := [pd, vs] }

/-- Floating-point types of REDUCE and SCAN (Table 5.8). -/
def redF : List Ty := [.f32, .f16, .bf16, .f32x2, .f16x4, .bf16x4]
/-- Whether a type is one of the floating-point types, complex and FP8 and FP4 included. -/
def isFloat (t : Ty) : Bool := (redF ++ [Ty.c32] ++ Ty.setSmall).contains t
/-- Table 5.8, by operation 0 to 5. -/
def redTypes (op : Nat) : List Ty :=
  if op == 0 then Ty.setZ ++ redF ++ [.c32]
  else if op < 3 then Ty.setZ ++ redF
  else Ty.setZB
def redRound (f : Fields) : RoundRule :=
  if f.variant.toNat % 8 == 0 && isFloat f.ty then .dir else .zero
def redSat (f : Fields) : Bool := f.variant.toNat % 8 == 0 && Ty.setZ.contains f.ty
def reduce : Enc :=
  { opcode := 0x04A, variants := [0, 1, 2, 3, 4, 5], types := Ty.setZB ++ redF ++ [.c32], ops := [d, vs],
    round := redRound, sat := redSat, extra := fun _ f => (redTypes (f.variant.toNat % 8)).contains f.ty }
def scan : Enc := { reduce with opcode := 0x04B, ops := [vd, vs] }
def scanExclusive : Enc := { scan with variants := [8, 9, 10, 11, 12, 13] }
def perm : Enc :=
  { opcode := 0x04C, ops := [vd, vs, data], mods := 3, extra := fun _ f => f.mods != 3 }
def pack : Enc := { opcode := 0x04D, types := Ty.setP, ops := [vd, addr, addr], sat := fun _ => true }
def unpk : Enc := { opcode := 0x04E, types := Ty.setP, ops := [vd, addr, uimm 0 1] }
def subx : Enc :=
  { opcode := 0x04F, types := Ty.all.filter Ty.packed, ops := [vd, vs, wu 0 262143] }
def subxTwo : Enc :=
  { opcode := 0x04F, variants := [1], types := (Ty.all.filter Ty.packed).filter (· != .e2m1x16),
    ops := [vd, vs, vs, wu 0 262143] }

/-! ### Integer, logic and address (Table 6.1) -/

def int' (op : Nat) (types : List Ty) (ops : List Pos) : Enc :=
  { opcode := op, types := types, ops := ops, wideDst := true }
def sat' (e : Enc) : Enc := { e with sat := fun _ => true }
def iadd : Enc := sat' (int' 0x080 Ty.setZ [d, s, s])
def isub : Enc := sat' (int' 0x081 Ty.setZ [d, s, s])
def imul : Enc := sat' (int' 0x082 Ty.setZ [d, s, s])
def imad : Enc := sat' (int' 0x083 Ty.setZ [d, s, s, s])
def imulh : Enc := int' 0x084 Ty.setZ [d, s, s]
def imulhSu : Enc := { int' 0x084 Ty.setI [d, s, s] with variants := [1] }
def imadwLo : Enc := sat' (int' 0x085 Ty.setP [d, s, s, s])
def imadwHi : Enc := { imadwLo with variants := [1] }
def idiv : Enc := sat' (int' 0x086 Ty.setZ [d, s, s])
def irem : Enc := int' 0x087 Ty.setZ [d, s, s]
def imin : Enc := int' 0x088 Ty.setZ [d, s, s]
def imax : Enc := int' 0x089 Ty.setZ [d, s, s]
def iabs : Enc := sat' (int' 0x08A Ty.setI [d, s])
def shl : Enc := { int' 0x08B Ty.setZB [d, s, amount] with sat := fun f => !f.ty.untyped }
def shr : Enc := int' 0x08C Ty.setZB [d, s, amount]
def sar : Enc := int' 0x08D Ty.setZB [d, s, amount]
def rotL : Enc := int' 0x08E Ty.setZB [d, s, amount]
def rotR : Enc := { rotL with variants := [1] }
def fshlL : Enc := int' 0x08F Ty.setZB [d, s, s, amount]
def fshlR : Enc := { fshlL with variants := [1] }
def andB : Enc := int' 0x090 Ty.setZB [d, s, s]
def orB : Enc := int' 0x091 Ty.setZB [d, s, s]
def xor : Enc := int' 0x092 Ty.setZB [d, s, s]
def andn : Enc := int' 0x093 Ty.setZB [d, s, s]
def lop3 : Enc := { int' 0x094 Ty.setZB [d, s, s, s] with mods := 0xFF }
def popc : Enc := int' 0x095 Ty.setZB [d, s]
def clz : Enc := int' 0x096 Ty.setZB [d, s]
def ctz : Enc := int' 0x097 Ty.setZB [d, s]
def brev : Enc := int' 0x098 Ty.setZB [d, s]
def bfx : Enc := int' 0x099 Ty.setZB [d, s, amount, amount]
def bfi : Enc := int' 0x09A Ty.setZB [d, s, s, amount, amount]
def icmp : Enc :=
  { opcode := 0x09B, variants := [0, 1, 2, 3, 4, 5], types := Ty.setZs ++ [.b32, .b64], ops := [pd, s, s],
    extra := fun _ f => !f.ty.untyped || f.variant.toNat < 2 }
def iaddcC : Enc :=
  { opcode := 0x09C, types := [.i32, .n32, .i64, .n64],
    ops := [vd, { cls := [.p, .absent], dst := true }, s, s, pOpt] }
def iaddcB : Enc := { iaddcC with variants := [1] }
def lea : Enc :=
  { int' 0x09D [.i32, .n32, .i64, .n64] [d, addr, s, uimm 0 7, wsimm] with wideDst := true }
def sad : Enc :=
  sat' (int' 0x09E (Ty.setP ++ [.i32, .n32]) [d, s, s, { cls := [.v, .w, .imm], imm := .range 0 262143 }])
def acsPm : Enc :=
  { opcode := 0x09F, types := [.i16x4], ops := [vd, { cls := [.p], dst := true, regs := 4 }, s, s, s], mods := 3,
    sat := fun _ => true, extra := fun _ f => num f.op1 ≤ 11 }
def acsMp : Enc := { acsPm with variants := [1] }

/-! ### Floating point, complex, special functions (Tables 7.1, 7.4) -/

def fp' (op : Nat) (ops : List Pos) : Enc := { opcode := op, types := Ty.setF, ops := ops, wideDst := true }
def round' (e : Enc) : Enc := { e with round := fun _ => .dir }
def fadd : Enc := round' (sat' (fp' 0x100 [d, f, f]))
def fsub : Enc := round' (sat' (fp' 0x101 [d, f, f]))
def fmul : Enc := round' (sat' (fp' 0x102 [d, f, f]))
def ffma : Enc := round' (sat' (fp' 0x103 [d, f, f, f]))
def fmin : Enc := fp' 0x104 [d, f, f]
def fmax : Enc := fp' 0x105 [d, f, f]
def fcmp : Enc :=
  { opcode := 0x106, variants := [0, 1, 2, 3, 4, 5, 6, 7], types := Ty.setFS, ops := [pd, f, f] }
def fclass : Enc := fp' 0x107 [d, f]
def fclassTest : Enc :=
  { opcode := 0x107, variants := [1], types := Ty.setFS, ops := [pd, f, uimm 0 1023] }
def frnd : Enc := round' (fp' 0x108 [d, f])
def frndX : Enc := { frnd with variants := [1] }
/-- The source type of FCVT, modifier bits [4:0] (07 R165). -/
def fcvtSrc (f : Fields) : Option Ty := Ty.ofCode (f.mods.setWidth 5)
/-- Whether a pair of types is legal in FCVT (Table 7.4). -/
def fcvtPair (s d : Ty) : Bool :=
  if (Ty.setF ++ Ty.setSmall).contains s then
    (Ty.setF ++ Ty.setSmall).contains d || (Ty.setF.contains s && Ty.setZ.contains d)
  else Ty.setZ.contains s && Ty.setF.contains d
def fcvtOk (f : Fields) : Bool :=
  match fcvtSrc f with
  | none => false
  | some src =>
    let es := src.count
    let ed := f.ty.count
    fcvtPair src f.ty && natBits f.mods.toNat 7 5 == 0
    && (!f.sat || !Ty.setZ.contains f.ty)
    && (f.rounding != 5 || (!Ty.setZ.contains f.ty && f.ty.width < src.width))
    && (if es ≤ ed then num f.op2 < ed / es else num f.op2 < es / ed && f.op3 == .absent)
def fcvt : Enc :=
  { opcode := 0x109, types := Ty.setF ++ Ty.setSmall ++ Ty.setZ,
    ops := [d, addr, uimm 0 262143, { cls := [.v, .w, .absent] }], round := fun _ => .dirSR, sat := fun _ => true,
    mods := 0x1F, wideDst := true,
    permE := fun f i => if i == 1 then ((fcvtSrc f).getD .noType).laneElems else f.ty.laneElems,
    extra := fun _ f => fcvtOk f }
def fscale : Enc := round' (sat' (fp' 0x10A [d, f, data]))
def fdot2 : Enc := { round' (sat' (fp' 0x10B [d, f, f, f])) with types := [.f16x4, .bf16x4, .f32x2] }
def fdiv : Enc := round' (sat' (fp' 0x10C [d, f, f]))
def fsqrt : Enc := round' (fp' 0x10D [d, f])
def modesetAll : Enc := { opcode := 0x10E, ops := [wu 0 262143] }
def modesetRm : Enc := { modesetAll with variants := [1] }
def modesetFtz : Enc := { modesetAll with variants := [2] }
def modesetFclr : Enc := { modesetAll with variants := [3] }
def modeget : Enc := { opcode := 0x10F, ops := [wd] }
def modegetClr : Enc := { modeget with variants := [1] }
def seed : Enc := { opcode := 0x110, ops := [data] }
def seedLane : Enc := { seed with variants := [1] }
def cx' (op : Nat) (ops : List Pos) : Enc := { opcode := op, types := [.c32], ops := ops, wideDst := true }
def cmul : Enc := round' (sat' (cx' 0x120 [d, f, f]))
def cfma : Enc := round' (sat' (cx' 0x121 [d, f, f, f]))
def cmulj : Enc := round' (sat' (cx' 0x122 [d, f, f]))
def cconj : Enc := cx' 0x123 [d, f]
def cabs2 : Enc := round' (sat' (cx' 0x124 [d, f]))
def rcp : Enc := fp' 0x1C0 [d, f]
def rsq : Enc := fp' 0x1C1 [d, f]
def sqrta : Enc := fp' 0x1C2 [d, f]
def ex2 : Enc := fp' 0x1C3 [d, f]
def lg2 : Enc := fp' 0x1C4 [d, f]
def sinpi : Enc := fp' 0x1C5 [d, f]
def cospi : Enc := fp' 0x1C6 [d, f]
def cispi : Enc := cx' 0x1C7 [d, f]
def tanh : Enc := fp' 0x1C8 [d, f]
def sigm : Enc := fp' 0x1C9 [d, f]
def erf : Enc := fp' 0x1CA [d, f]

/-! ### Scratchpad (Tables 8.1, 8.2) -/

/-- An unsigned immediate's own limit, whatever the register forms: passes other classes. -/
def immOk (p : Nat → Bool) : Operand → Bool
  | .imm i => p i.toNat
  | _ => true
/-- The same for a signed immediate. -/
def immOkS (p : Int → Bool) : Operand → Bool
  | .imm i => p (immSigned i)
  | _ => true
def lds : Enc := { opcode := 0x200, types := Ty.setAny, ops := [d, addr, simm], hint := true, wideDst := true }
def sts : Enc := { opcode := 0x201, types := Ty.setAny, ops := [addr, simm, data], hint := true }
def eng' (op : Nat) (ops : List Pos) : Enc := { opcode := op, ops := ops, hint := true, counter := true }
def u18 : Pos := wu 0 262143
def copyLimits (off bytes rows stride : Operand) : Bool :=
  immOk (fun x => x % 8 == 0) off && immOk (fun x => x % 8 == 0 && 8 ≤ x && x ≤ 65536) bytes
  && immOk (fun x => 1 ≤ x && x ≤ 4096) rows && immOkS (fun x => x % 8 == 0) stride
def copy : Enc :=
  { eng' 0x202 [u18, ws, u18, u18, wsimm] with
    mods := 0xF, extra := fun _ f => ordOk f && copyLimits f.op0 f.op2 f.op3 f.op4 }
def copyout : Enc :=
  { eng' 0x203 [ws, u18, u18, u18, wsimm] with
    mods := 0xF, extra := fun _ f => ordOk f && copyLimits f.op1 f.op2 f.op3 f.op4 }
def spclr : Enc :=
  { eng' 0x204 [u18, u18] with
    extra := fun _ f => immOk (fun x => x % 128 == 0) f.op0 && immOk (fun x => x % 128 == 0 && 128 ≤ x) f.op1 }
def spmap : Enc :=
  { eng' 0x205 [wd, u18, ws, u18] with
    hint := false, extra := fun _ f => immOk (fun x => x % 4096 == 0) f.op1 && immOk (fun x => 1 ≤ x && x ≤ 96) f.op3 }
def spunmap : Enc := eng' 0x206 [u18]
def spwb : Enc := eng' 0x207 [u18]

/-! ### Queues and tasks (Table 9.8) -/

def q' (op : Nat) (ops : List Pos) : Enc := { opcode := op, ops := ops }
def w8 (i : Nat) (nw : Nat) (f : Fields) : Bool :=
  wGroup 8 nw (if i == 0 then f.op0 else if i == 1 then f.op1 else f.op2)
def u7 : Pos := wu 0 7
def qbindPop : Enc := q' 0x240 [qs, u18, ps]
def qbindPush : Enc := { q' 0x240 [qs, u18] with variants := [1] }
def qunbind : Enc := q' 0x241 [qs]
def lineOk (o : Operand) : Bool := immOk (fun x => x % 128 == 0) o
/-- The range of a deque, where immediates give both of its ends (09 R218). -/
def dequeOk (base limit : Operand) : Bool :=
  lineOk base && lineOk limit && immOk (fun b => immOk (fun x => b + 256 ≤ x && x ≤ b + 393216) limit) base
def qinit : Enc := { q' 0x242 [wd, u18, wu 0 12] with extra := fun _ f => lineOk f.op1 }
def qinitDrop : Enc := { q' 0x242 [wd, u18] with variants := [1], extra := fun _ f => lineOk f.op1 }
def qtry : Enc := q' 0x243 [d, qs, pd]
def qpeek : Enc := q' 0x244 [d, qs, pd]
def qclose : Enc := q' 0x245 [qs]
def qlen : Enc := q' 0x246 [wd, qs]
def dqset : Enc := { q' 0x247 [wd, u7, u18, u18] with extra := fun _ f => dequeOk f.op2 f.op3 }
def dqsetClr : Enc := { q' 0x247 [wd, u7] with variants := [1] }
def spawn : Enc := { q' 0x248 [pd, wsOf 8, u7] with extra := w8 1 }
def poptask : Enc := { q' 0x249 [wsOf 8, pd, u7] with extra := w8 0 }
def stealAny : Enc := { q' 0x24A [wsOf 8, pd, u7] with extra := w8 0 }
def stealAt : Enc := { q' 0x24A [wsOf 8, pd, u18, u7] with variants := [1], extra := w8 0 }
def taskdone : Enc := q' 0x24B []
def phasebegin : Enc := q' 0x24C [pd, ws]
def phasewait : Enc := q' 0x24D [pd, ws]
def phasewaitTry : Enc := { phasewait with variants := [1] }

/-! ### Counters and barriers (Table 10.1) -/

def waitle : Enc := q' 0x280 [uimm 0 11, uimm 0 63]
def barinit : Enc := q' 0x281 [wd, wu 0 255]
def bararr : Enc := q' 0x282 [wd, wu 0 255, wu 1 64]
def barwait : Enc := q' 0x283 [wu 0 255, ws]
def barsync : Enc := q' 0x284 [wu 0 255, wu 1 64]
def tbarSync : Enc := q' 0x285 [uimm 0 3, wu 1 65536]
def tbarArr : Enc := { q' 0x285 [wd, uimm 0 3, wu 1 65536] with variants := [1] }
def tbarWait : Enc := { q' 0x285 [uimm 0 3, ws] with variants := [2] }

/-! ### Matrix engine (Table 11.7) -/

def mx' (op : Nat) (types : List Ty) (ops : List Pos) : Enc :=
  { opcode := op, types := types, ops := ops, counter := true }
def gang : Enc := q' 0x2A0 [wd, wu 1 16]
def tdesc : Enc := q' 0x2A1 [{ cls := [.t], dst := true }, ws, ws]
def mma : Enc :=
  { mx' 0x2A2 [.f32, .i32] [accD, { cls := [.t, .a] }, tile] with
    hint := true, mods := 0xFF, sat := fun f => f.ty == .i32 || isCls .a f.op1,
    extra := fun _ f => ordOk f && (!isCls .a f.op1 || (f.op0 != f.op1 && f.ty != .i32)) }
def mmas : Enc :=
  { mx' 0x2A3 [.f32] [accD, { cls := [.t, .a] }, tile, { cls := [.t, .absent] }, tile] with
    hint := true, mods := 0xFF, sat := fun f => isCls .a f.op1,
    extra := fun _ f => ordOk f && f.op0 != f.op1 && (isCls .a f.op1 == isCls .absent f.op3) }
def aclr : Enc := mx' 0x2A4 [.noType] [accD]
def amovCopy : Enc := mx' 0x2A7 [.noType] [accD, acc]
def amovTr : Enc := { amovCopy with variants := [1], extra := fun _ f => f.op0 != f.op1 }
/-- Row 0 of a row vector (11 R257): `rowOp` checks that it is even and that the warp's 2W rows fit. -/
def rowImm : Pos := uimm 0 127
def amovGet : Enc :=
  { mx' 0x2A7 [.noType] [vd, acc, uimm 0 127, rowImm] with
    variants := [2], permE := fun _ _ => 2, rowOp := some 3 }
def amovPut : Enc :=
  { mx' 0x2A7 [.noType] [accD, vs, uimm 0 127, rowImm] with
    variants := [3], permE := fun _ _ => 2, rowOp := some 3 }
def ald : Enc :=
  { mx' 0x2A5 [.b32, .bf16, .f16] [accD, ws, wsimm] with
    hint := true, mods := 0xF, extra := fun _ f => ordOk f && immOkS (fun x => x % 16 == 0) f.op2 }
def ast : Enc :=
  { mx' 0x2A6 [.b32, .bf16, .f16] [ws, wsimm, acc] with
    hint := true, mods := 0xF, sat := fun f => f.ty != .b32,
    round := fun f => if f.ty == .b32 then .zero else .dir,
    extra := fun _ f => ordOk f && immOkS (fun x => x % 16 == 0) f.op1 }
def ared : Enc :=
  { mx' 0x2A8 [.f32, .i32] [vd, acc, rowImm] with
    variants := [0, 1, 2], sat := fun f => f.variant == 2 && f.ty == .i32, rowOp := some 2 }
def aepi : Enc :=
  { mx' 0x2A9 [.f32, .i32] [accD, acc, Enc.f, { cls := [.v, .w, .imm, .absent], imm := .float }, rowImm] with
    round := fun _ => .dir, sat := fun _ => true, mods := 3, permE := fun _ _ => 2,
    rowOp := some 4, extra := fun _ f => f.mods != 3 }
def arel : Enc := q' 0x2AA []

/-! ### Memory (Tables 12.3, 12.4), ordering and translation -/

def mem' (op : Nat) (types : List Ty) (ops : List Pos) : Enc := { opcode := op, types := types, ops := ops, hint := true }
def ld : Enc := { mem' 0x300 Ty.setAny [d, addr, simm] with wideDst := true }
def st : Enc := mem' 0x301 Ty.setAny [addr, simm, data]
def ldx : Enc := mem' 0x302 Ty.setAny [vd, ws, vs, uimm 0 7]
def stx : Enc := mem' 0x303 Ty.setAny [ws, vs, uimm 0 7, data]
def prefL2 : Enc := mem' 0x304 [.noType] [addr, simm]
def prefMsc : Enc := { prefL2 with variants := [1] }
def prefCore : Enc := { prefL2 with variants := [2], extra := fun _ f => f.hint != 1 && f.hint != 3 }
/-- Types of a bank ALU operation by variant (Table 12.4). -/
def aluTypes (v : Nat) : List Ty :=
  if v < 3 then [.i32, .n32, .i64, .n64, .f32, .f16, .bf16]
  else if v < 8 then [.i32, .n32, .i64, .n64, .b32, .b64]
  else [.n32, .n64]
def aluSat (f : Fields) : Bool := f.variant == 0 && Ty.setZ.contains f.ty
def atom : Enc :=
  { mem' 0x305 [.i32, .n32, .i64, .n64, .b32, .b64, .f32, .f16, .bf16]
      [vd, addr, data, { cls := [.v, .w, .imm, .absent] }] with
    variants := [0, 1, 2, 3, 4, 5, 6, 7, 8, 9], sat := aluSat,
    extra := fun _ f => (aluTypes f.variant.toNat).contains f.ty && (isCls .absent f.op3 == (f.variant != 7)) }
def atomrCas : Enc :=
  { mem' 0x306 [.b64] [pairD, vs, pair, pair] with
    extra := fun _ f => aligned 2 f.op0 && aligned 2 f.op2 && aligned 2 f.op3 }
def atomrSwap : Enc :=
  { mem' 0x306 [.b64] [pairD, vs, pair] with
    variants := [1], extra := fun _ f => aligned 2 f.op0 && aligned 2 f.op2 }
def vAddrWVal (f : Fields) : Bool := !(isCls .v f.op0 && isCls .w f.op1)
def red : Enc :=
  { mem' 0x307 [.i32, .n32, .i64, .n64, .b32, .b64, .f32, .f16, .bf16] [addr, data] with
    variants := [0, 1, 2, 3, 4, 5], sat := aluSat, counter := true,
    extra := fun _ f => (aluTypes f.variant.toNat).contains f.ty && vAddrWVal f }
def redfAdd : Enc :=
  { mem' 0x308 [.f32, .f16, .bf16, .f32x2, .c32] [addr, f] with counter := true, extra := fun _ f => vAddrWVal f }
def redfFlush : Enc :=
  { mem' 0x308 [.noType] [ws, u18] with
    variants := [1], counter := true }
def bulkCopy : Enc :=
  { mem' 0x309 [.noType] [ws, ws, u18] with counter := true, mods := 0xF, extra := fun _ f => ordOk f }
def bulkFill : Enc :=
  { mem' 0x309 [.noType] [ws, wsimm, u18] with
    variants := [1], counter := true, mods := 0xF, extra := fun _ f => ordOk f }
def esyncBoth : Enc :=
  { opcode := 0x380, mods := 0xC, extra := fun _ f => natBits f.mods.toNat 3 2 != 3 }
def esyncIn : Enc := { esyncBoth with variants := [1] }
def esyncOut : Enc := { esyncBoth with variants := [2] }
def probeR : Enc := { opcode := 0x381, ops := [d, addr], wideDst := true }
def probeW : Enc := { probeR with variants := [1] }
def probeX : Enc := { probeR with variants := [2] }

/-! ### Tracing (Table 15.7) and builders (Table 16.4) -/

def h : Pos := { cls := [.v, .w] }
def quadOk (o : Operand) : Bool := aligned 4 o
def asbind : Enc := { q' 0x3A0 [wd, u7, wsOf 4] with extra := fun nw f => wGroup 4 nw f.op2 }
def asbindClose : Enc := { q' 0x3A0 [wd, u7] with variants := [1] }
def asbindClr : Enc := { asbindClose with variants := [2] }
def trace : Enc :=
  { q' 0x3A1 [u7, quad, addr, pairOpt] with counter := true, extra := fun _ f => quadOk f.op1 && aligned 2 f.op3 }
def tracew : Enc :=
  { q' 0x3A2 [pairD, u7, quad, addr] with counter := true, extra := fun _ f => aligned 2 f.op0 && quadOk f.op2 }
def hitacc : Enc := q' 0x3A3 [h]
def hitaccEnd : Enc := { hitacc with variants := [1] }
def hitign : Enc := q' 0x3A4 [h]
def rayspawn : Enc :=
  { q' 0x3A5 [pd, h, quad, addr, pairOpt] with extra := fun _ f => quadOk f.op2 && aligned 2 f.op4 }
def rayterm : Enc := q' 0x3A6 [h]
def rload : Enc := { q' 0x3A7 [d, h, uimm 0 31] with wideDst := true }
def rloadSlot : Enc := { q' 0x3A7 [d, u7, uimm 0 3] with variants := [1] }
def clemit : Enc := q' 0x3C0 [pd, ws, vs, addr]
def build' (op : Nat) : Enc :=
  { q' op [wd, wsOf 7] with counter := true, mods := 0xF, extra := fun nw f => ordOk f && wGroup 7 nw f.op1 }
def build : Enc := build' 0x3C1
def refit : Enc := build' 0x3C2
def refitInplace : Enc := { refit with variants := [1] }
def compact : Enc := build' 0x3C5
def sfwait : Enc := q' 0x3C3 [pd, ws, wu 0 65535, wu 0 262143]
def sfwaitTry : Enc := { sfwait with variants := [1] }
def genadv : Enc := q' 0x3C4 [wd, u7, wu 0 262143]

/-! ### Work queues (17 R389), traps and clocks (Table 18.8) -/

def launch : Enc := { q' 0x3D0 [wd, ws, wsOf 8] with counter := true, extra := fun nw f => wGroup 8 nw f.op2 }
def notify : Enc := q' 0x3D1 [wd, wu 0 255]
def hret : Enc := control' 0x3E0 []
def srd : Enc := q' 0x3E1 [wd, uimm 1 6]
/-- The writable system registers: HVEC and TEPC (Table 18.7). -/
def swr : Enc := { q' 0x3E2 [uimm 1 6, wu 0 262143] with extra := fun _ f => num f.op0 == 1 || num f.op0 == 4 }
def swrT : Enc :=
  { q' 0x3E2 [uimm 1 6, simm] with variants := [1], extra := fun _ f => num f.op0 == 1 || num f.op0 == 4 }
def clockCyc : Enc := q' 0x3E3 [d]
def clockNs : Enc := { clockCyc with variants := [1] }

end Enc
end Sys2Proof
end

