-- ==== Sys2Proof/Machine/Legality.lean ====
section
/-! DEFINITION. Which fields an instruction's entry admits: the checks of step 5 of Table 3.7 (03 R55-R60, 05 R116, 06 R132, 09 R201). -/
namespace Sys2Proof.Enc

/-- A permute within the limits of Table 5.5, for a width and the elements a lane holds in the operand's type. -/
def permOk (w e : Nat) : Perm → Bool
  | .ident => true
  | .bc n => n.toNat < w
  | .rot k => 1 ≤ k.toNat && k.toNat < w
  | .bf k => k.toNat < w.log2
  | .mir k => 1 ≤ k.toNat && k.toNat ≤ w.log2
  | .lt _ _ => true
  | .rt _ _ => true
  | .sub s => s.toNat < e
  | .bcSub x => x.toNat / e < w

/-- An immediate within the limits of its entry (03 R59, 06 R132, 07 R152). -/
def immIn (t : Ty) (i : BitVec 18) : ImmRule → Bool
  | .signed => true
  | .range lo hi => lo ≤ i.toNat && i.toNat ≤ hi
  | .elem =>
    if t.signed || t.untyped then
      rangeLo true t.width ≤ immSigned i && immSigned i ≤ rangeHi true t.width
    else i.toNat < 2 ^ t.width
  | .float => true

/-- Class q stands wherever v may, in the opcodes 0x040 to 0x1DF (09 R201). -/
def clsOk (op : Nat) (p : Pos) (o : Operand) : Bool :=
  p.cls.contains o.cls || (o.cls == .q && p.cls.contains .v && 0x040 ≤ op && op ≤ 0x1DF)

/-- One operand against its position; `nw` counts the launch's groups of uniform registers (05 R101). -/
def posOk (w nw op e : Nat) (t : Ty) (p : Pos) (o : Operand) : Bool :=
  clsOk op p o && match o with
    | .v _ last perm => if p.dst then !last && perm == .ident else permOk w e perm
    | .w n => n.toNat < 16 * nw
    | .imm i => !p.dst && immIn t i p.imm
    | _ => true

/-- The five operands of a word. -/
def opsOf (f : Fields) : List Operand := [f.op0, f.op1, f.op2, f.op3, f.op4]

/-- The position an entry gives operand `i`; one it does not use must be absent (03 R59). -/
def posAt (e : Enc) (i : Nat) : Pos := (e.ops[i]?).getD none_

/-- Every operand within the rules. -/
def opsOk (w nw : Nat) (e : Enc) (f : Fields) : Bool :=
  (List.range 5).all fun i =>
    posOk w nw e.opcode (e.permE f i) f.ty (posAt e i) (((opsOf f)[i]?).getD .absent)

/-- The rounding field (02 R29). -/
def roundOk (e : Enc) (f : Fields) : Bool :=
  match e.round f with
  | .zero => f.rounding == 0
  | .dir => f.rounding != 7 && f.rounding != 5
  | .dirSR => f.rounding != 7

/-- At most one pop and one push operand (09 R201), counted where q stands for v. -/
def queueOk (e : Enc) (f : Fields) : Bool :=
  !(0x040 ≤ e.opcode && e.opcode ≤ 0x1DF) ||
    ((List.range 5).filter fun i =>
      isCls .q (((opsOf f)[i]?).getD .absent) && !(posAt e i).dst).length ≤ 1

/-- A w destination takes no vector source (06 R132), and so no pop operand. -/
def wideOk (e : Enc) (f : Fields) : Bool :=
  !e.wideDst || !isCls .w f.op0 || !([f.op1, f.op2, f.op3, f.op4].any fun o => isCls .v o || isCls .q o)

/-- The hint, counter, saturate and modifier fields (03 Table 3.4, R57, 12 R273). -/
def tailOk (e : Enc) (f : Fields) : Bool :=
  (if e.hint then f.hint.toNat ≤ 4 else f.hint == 0)
  && (if e.counter then f.counter.toNat ≤ 11 || f.counter == 15 else f.counter == 15)
  && (!f.sat || e.sat f)
  && (f.mods &&& ~~~e.mods) == 0

/-- Row 0 of a row vector: even, with the 2W rows inside the tile (11 R257). -/
def rowOk (w : Nat) (e : Enc) (f : Fields) : Bool :=
  match e.rowOp with
  | none => true
  | some k => match ((opsOf f)[k]?).getD .absent with
    | .imm i => i.toNat % 2 == 0 && i.toNat + 2 * w ≤ 128
    | _ => true

/-- Step 5 of Table 3.7 for a warp of width `w` whose launch allots `nw` groups of uniform registers. -/
def legal (w nw : Nat) (e : Enc) (f : Fields) : Bool :=
  e.variants.contains f.variant.toNat && e.types.contains f.ty && roundOk e f && opsOk w nw e f
  && queueOk e f && wideOk e f && tailOk e f && rowOk w e f && e.extra nw f

end Sys2Proof.Enc
end

