-- ==== Sys2Proof/WellFormed.lean ====
section
/-! DEFINITION. Which instructions are well formed: every field within its entry's limits (03 R60, 17 R382). -/
namespace Sys2Proof

/-- The entry and fields of an Irlek instruction; none for a Nibex instruction or an event. -/
def Instr.enc : Instr → Option (Enc × Fields)
  | .nop f => some (Enc.nop, f)
  | .bra f => some (Enc.bra, f)
  | .brc f => some (Enc.brc, f)
  | .brwAny f => some (Enc.brwAny, f)
  | .brwAll f => some (Enc.brwAll, f)
  | .brwNone f => some (Enc.brwNone, f)
  | .brwWz f => some (Enc.brwWz, f)
  | .brwWnz f => some (Enc.brwWnz, f)
  | .jmpi f => some (Enc.jmpi, f)
  | .call f => some (Enc.call, f)
  | .calli f => some (Enc.calli, f)
  | .ret f => some (Enc.ret, f)
  | .join f => some (Enc.join, f)
  | .exit f => some (Enc.exit, f)
  | .yield f => some (Enc.yield, f)
  | .brk f => some (Enc.brk, f)
  | .trap f => some (Enc.trap, f)
  | .mov f => some (Enc.mov, f)
  | .movw f => some (Enc.movw, f)
  | .bcastw f => some (Enc.bcastw, f)
  | .bcastwP f => some (Enc.bcastwP, f)
  | .sel f => some (Enc.sel, f)
  | .pand f => some (Enc.pand, f)
  | .pandAn f => some (Enc.pandAn, f)
  | .por f => some (Enc.por, f)
  | .porOn f => some (Enc.porOn, f)
  | .pxor f => some (Enc.pxor, f)
  | .pnot f => some (Enc.pnot, f)
  | .voteBallot f => some (Enc.voteBallot, f)
  | .voteAny f => some (Enc.voteAny, f)
  | .voteAll f => some (Enc.voteAll, f)
  | .voteUni f => some (Enc.voteUni, f)
  | .matchAny f => some (Enc.matchAny, f)
  | .matchAll f => some (Enc.matchAll, f)
  | .reduce f => some (Enc.reduce, f)
  | .scan f => some (Enc.scan, f)
  | .scanExclusive f => some (Enc.scanExclusive, f)
  | .perm f => some (Enc.perm, f)
  | .pack f => some (Enc.pack, f)
  | .unpk f => some (Enc.unpk, f)
  | .subx f => some (Enc.subx, f)
  | .subxTwo f => some (Enc.subxTwo, f)
  | .movs f => some (Enc.movs, f)
  | .movsClr f => some (Enc.movsClr, f)
  | .iadd f => some (Enc.iadd, f)
  | .isub f => some (Enc.isub, f)
  | .imul f => some (Enc.imul, f)
  | .imad f => some (Enc.imad, f)
  | .imulh f => some (Enc.imulh, f)
  | .imulhSu f => some (Enc.imulhSu, f)
  | .imadwLo f => some (Enc.imadwLo, f)
  | .imadwHi f => some (Enc.imadwHi, f)
  | .idiv f => some (Enc.idiv, f)
  | .irem f => some (Enc.irem, f)
  | .imin f => some (Enc.imin, f)
  | .imax f => some (Enc.imax, f)
  | .iabs f => some (Enc.iabs, f)
  | .shl f => some (Enc.shl, f)
  | .shr f => some (Enc.shr, f)
  | .sar f => some (Enc.sar, f)
  | .rotL f => some (Enc.rotL, f)
  | .rotR f => some (Enc.rotR, f)
  | .fshlL f => some (Enc.fshlL, f)
  | .fshlR f => some (Enc.fshlR, f)
  | .andB f => some (Enc.andB, f)
  | .orB f => some (Enc.orB, f)
  | .xor f => some (Enc.xor, f)
  | .andn f => some (Enc.andn, f)
  | .lop3 f => some (Enc.lop3, f)
  | .popc f => some (Enc.popc, f)
  | .clz f => some (Enc.clz, f)
  | .ctz f => some (Enc.ctz, f)
  | .brev f => some (Enc.brev, f)
  | .bfx f => some (Enc.bfx, f)
  | .bfi f => some (Enc.bfi, f)
  | .icmp f => some (Enc.icmp, f)
  | .iaddcC f => some (Enc.iaddcC, f)
  | .iaddcB f => some (Enc.iaddcB, f)
  | .lea f => some (Enc.lea, f)
  | .sad f => some (Enc.sad, f)
  | .acsPm f => some (Enc.acsPm, f)
  | .acsMp f => some (Enc.acsMp, f)
  | .fadd f => some (Enc.fadd, f)
  | .fsub f => some (Enc.fsub, f)
  | .fmul f => some (Enc.fmul, f)
  | .ffma f => some (Enc.ffma, f)
  | .fmin f => some (Enc.fmin, f)
  | .fmax f => some (Enc.fmax, f)
  | .fcmp f => some (Enc.fcmp, f)
  | .fclass f => some (Enc.fclass, f)
  | .fclassTest f => some (Enc.fclassTest, f)
  | .frnd f => some (Enc.frnd, f)
  | .frndX f => some (Enc.frndX, f)
  | .fcvt f => some (Enc.fcvt, f)
  | .fscale f => some (Enc.fscale, f)
  | .fdot2 f => some (Enc.fdot2, f)
  | .fdiv f => some (Enc.fdiv, f)
  | .fsqrt f => some (Enc.fsqrt, f)
  | .modesetAll f => some (Enc.modesetAll, f)
  | .modesetRm f => some (Enc.modesetRm, f)
  | .modesetFtz f => some (Enc.modesetFtz, f)
  | .modesetFclr f => some (Enc.modesetFclr, f)
  | .modeget f => some (Enc.modeget, f)
  | .modegetClr f => some (Enc.modegetClr, f)
  | .seed f => some (Enc.seed, f)
  | .seedLane f => some (Enc.seedLane, f)
  | .cmul f => some (Enc.cmul, f)
  | .cfma f => some (Enc.cfma, f)
  | .cmulj f => some (Enc.cmulj, f)
  | .cconj f => some (Enc.cconj, f)
  | .cabs2 f => some (Enc.cabs2, f)
  | .rcp f => some (Enc.rcp, f)
  | .rsq f => some (Enc.rsq, f)
  | .sqrta f => some (Enc.sqrta, f)
  | .ex2 f => some (Enc.ex2, f)
  | .lg2 f => some (Enc.lg2, f)
  | .sinpi f => some (Enc.sinpi, f)
  | .cospi f => some (Enc.cospi, f)
  | .cispi f => some (Enc.cispi, f)
  | .tanh f => some (Enc.tanh, f)
  | .sigm f => some (Enc.sigm, f)
  | .erf f => some (Enc.erf, f)
  | .lds f => some (Enc.lds, f)
  | .sts f => some (Enc.sts, f)
  | .copy f => some (Enc.copy, f)
  | .copyout f => some (Enc.copyout, f)
  | .spclr f => some (Enc.spclr, f)
  | .spmap f => some (Enc.spmap, f)
  | .spunmap f => some (Enc.spunmap, f)
  | .spwb f => some (Enc.spwb, f)
  | .qbindPop f => some (Enc.qbindPop, f)
  | .qbindPush f => some (Enc.qbindPush, f)
  | .qunbind f => some (Enc.qunbind, f)
  | .qinit f => some (Enc.qinit, f)
  | .qinitDrop f => some (Enc.qinitDrop, f)
  | .qtry f => some (Enc.qtry, f)
  | .qpeek f => some (Enc.qpeek, f)
  | .qlen f => some (Enc.qlen, f)
  | .qclose f => some (Enc.qclose, f)
  | .dqset f => some (Enc.dqset, f)
  | .dqsetClr f => some (Enc.dqsetClr, f)
  | .spawn f => some (Enc.spawn, f)
  | .poptask f => some (Enc.poptask, f)
  | .stealAny f => some (Enc.stealAny, f)
  | .stealAt f => some (Enc.stealAt, f)
  | .taskdone f => some (Enc.taskdone, f)
  | .phasebegin f => some (Enc.phasebegin, f)
  | .phasewait f => some (Enc.phasewait, f)
  | .phasewaitTry f => some (Enc.phasewaitTry, f)
  | .waitle f => some (Enc.waitle, f)
  | .barinit f => some (Enc.barinit, f)
  | .bararr f => some (Enc.bararr, f)
  | .barwait f => some (Enc.barwait, f)
  | .barsync f => some (Enc.barsync, f)
  | .tbarSync f => some (Enc.tbarSync, f)
  | .tbarArr f => some (Enc.tbarArr, f)
  | .tbarWait f => some (Enc.tbarWait, f)
  | .gang f => some (Enc.gang, f)
  | .arel f => some (Enc.arel, f)
  | .tdesc f => some (Enc.tdesc, f)
  | .mma f => some (Enc.mma, f)
  | .mmas f => some (Enc.mmas, f)
  | .aclr f => some (Enc.aclr, f)
  | .amovCopy f => some (Enc.amovCopy, f)
  | .amovTr f => some (Enc.amovTr, f)
  | .amovGet f => some (Enc.amovGet, f)
  | .amovPut f => some (Enc.amovPut, f)
  | .ald f => some (Enc.ald, f)
  | .ast f => some (Enc.ast, f)
  | .ared f => some (Enc.ared, f)
  | .aepi f => some (Enc.aepi, f)
  | .ld f => some (Enc.ld, f)
  | .st f => some (Enc.st, f)
  | .ldx f => some (Enc.ldx, f)
  | .stx f => some (Enc.stx, f)
  | .prefL2 f => some (Enc.prefL2, f)
  | .prefMsc f => some (Enc.prefMsc, f)
  | .prefCore f => some (Enc.prefCore, f)
  | .atom f => some (Enc.atom, f)
  | .atomrCas f => some (Enc.atomrCas, f)
  | .atomrSwap f => some (Enc.atomrSwap, f)
  | .red f => some (Enc.red, f)
  | .redfAdd f => some (Enc.redfAdd, f)
  | .redfFlush f => some (Enc.redfFlush, f)
  | .bulkCopy f => some (Enc.bulkCopy, f)
  | .bulkFill f => some (Enc.bulkFill, f)
  | .esyncBoth f => some (Enc.esyncBoth, f)
  | .esyncIn f => some (Enc.esyncIn, f)
  | .esyncOut f => some (Enc.esyncOut, f)
  | .probeR f => some (Enc.probeR, f)
  | .probeW f => some (Enc.probeW, f)
  | .probeX f => some (Enc.probeX, f)
  | .asbind f => some (Enc.asbind, f)
  | .asbindClose f => some (Enc.asbindClose, f)
  | .asbindClr f => some (Enc.asbindClr, f)
  | .trace f => some (Enc.trace, f)
  | .tracew f => some (Enc.tracew, f)
  | .hitacc f => some (Enc.hitacc, f)
  | .hitaccEnd f => some (Enc.hitaccEnd, f)
  | .hitign f => some (Enc.hitign, f)
  | .rayspawn f => some (Enc.rayspawn, f)
  | .rayterm f => some (Enc.rayterm, f)
  | .rload f => some (Enc.rload, f)
  | .rloadSlot f => some (Enc.rloadSlot, f)
  | .clemit f => some (Enc.clemit, f)
  | .build f => some (Enc.build, f)
  | .refit f => some (Enc.refit, f)
  | .refitInplace f => some (Enc.refitInplace, f)
  | .compact f => some (Enc.compact, f)
  | .sfwait f => some (Enc.sfwait, f)
  | .sfwaitTry f => some (Enc.sfwaitTry, f)
  | .genadv f => some (Enc.genadv, f)
  | .launch f => some (Enc.launch, f)
  | .notify f => some (Enc.notify, f)
  | .hret f => some (Enc.hret, f)
  | .srd f => some (Enc.srd, f)
  | .swr f => some (Enc.swr, f)
  | .swrT f => some (Enc.swrT, f)
  | .clockCyc f => some (Enc.clockCyc, f)
  | .clockNs f => some (Enc.clockNs, f)
  | .nxHalt _ => none
  | .nxLdc _ => none
  | .nxLdi _ => none
  | .nxAddi _ => none
  | .nxAdd _ => none
  | .nxAnd _ => none
  | .nxShr _ => none
  | .nxShl _ => none
  | .nxLdm _ => none
  | .nxStm _ => none
  | .nxBeq _ => none
  | .nxBne _ => none
  | .nxBltu _ => none
  | .nxDjnz _ => none
  | .nxNlaunch _ => none
  | .nxNcopy _ => none
  | .nxNbuild _ => none
  | .nxNwait _ => none
  | .nxNdone _ => none
  | .teamBarrierRelease => none
  | .gangGrant => none
  | .tileReturn => none
  | .mxeEntryStart => none
  | .mxeRetire => none
  | .slotWaitResume => none
  | .headerWaitPass => none
  | .sluiceAdmit => none
  | .sluiceRefill => none
  | .joinRelease => none
  | .warpDrainEnd => none
  | .teamPlacement => none
  | .dictionaryLoad => none
  | .allotmentClear => none
  | .allotmentFree => none
  | .lineDataArrival => none
  | .copyEngineComplete => none
  | .rayPop => none
  | .nodeVisit => none
  | .fencePass => none
  | .leafTest => none
  | .builderCommandStart => none
  | .builderWritePhase => none
  | .builderComplete => none
  | .leaseRenewal => none
  | .l2Evict => none
  | .l2Fill => none
  | .ptsAdvance => none
  | .timestampOverflow => none
  | .peerLinkRead => none
  | .peerLinkWrite => none
  | .correctedError => none
  | .memUncorrect => none
  | .unconsumedError => none
  | .tlbMissWalk => none
  | .walkComplete => none
  | .faultReplay => none
  | .faultFail => none
  | .supervisorContinue => none
  | .supervisorHalt => none
  | .haltSaveComplete => none
  | .evictionRequest => none
  | .victimSave => none
  | .evictionReleaseTimeout => none
  | .warpResume => none
  | .feuSlotExamine => none
  | .queueRestart => none
  | .ndoneStore => none
  | .nxStepBudget => none
  | .dispatchStarvation => none
  | .issueClassBoost => none
  | .ticket => none
  | .notifyRecord => none
  | .mbxClaim => none
  | .mbxSubmit => none
  | .mbxNext => none
  | .mbxRelease => none
  | .claimLapse => none
  | .reqCreate => none
  | .reqMap => none
  | .reqUnmap => none
  | .reqQueueCreate => none
  | .reqQueueDestroy => none
  | .reqHalt => none
  | .reqResume => none
  | .reqAttest => none
  | .reqDestroy => none
  | .registerSpaceError => none
  | .registerWrite => none
  | .setPointer => none
  | .privateRead => none
  | .entdaa => none
  | .powerLimitWrite => none
  | .eventFlagsClear => none
  | .moduleReset => none
  | .powerThrottleStep => none
  | .clockRaiseStep => none
  | .thermalThrottleStep => none
  | .thermalTrip => none
  | .powerOnBoot => none
  | .ptpSteer => none
  | .ptpFirstLock => none
  | .complexFailed => none
  | .fatalDump => none
  | .linkPortFailure => none
  | .packageRemoval => none
  | .heartbeat => none
  | .mscEviction => none
  | .pathReturns => none

/-- The op and fields of a Nibex instruction (17 Table 17.4). -/
def Instr.nibex : Instr → Option (Nat × NibexFields)
  | .nxHalt f => some (0, f)
  | .nxLdc f => some (1, f)
  | .nxLdi f => some (2, f)
  | .nxAddi f => some (3, f)
  | .nxAdd f => some (4, f)
  | .nxAnd f => some (5, f)
  | .nxShr f => some (6, f)
  | .nxShl f => some (7, f)
  | .nxLdm f => some (8, f)
  | .nxStm f => some (9, f)
  | .nxBeq f => some (10, f)
  | .nxBne f => some (11, f)
  | .nxBltu f => some (12, f)
  | .nxDjnz f => some (13, f)
  | .nxNlaunch f => some (14, f)
  | .nxNcopy f => some (15, f)
  | .nxNbuild f => some (16, f)
  | .nxNwait f => some (17, f)
  | .nxNdone f => some (18, f)
  | .nop _ => none
  | .bra _ => none
  | .brc _ => none
  | .brwAny _ => none
  | .brwAll _ => none
  | .brwNone _ => none
  | .brwWz _ => none
  | .brwWnz _ => none
  | .jmpi _ => none
  | .call _ => none
  | .calli _ => none
  | .ret _ => none
  | .join _ => none
  | .exit _ => none
  | .yield _ => none
  | .brk _ => none
  | .trap _ => none
  | .mov _ => none
  | .movw _ => none
  | .bcastw _ => none
  | .bcastwP _ => none
  | .sel _ => none
  | .pand _ => none
  | .pandAn _ => none
  | .por _ => none
  | .porOn _ => none
  | .pxor _ => none
  | .pnot _ => none
  | .voteBallot _ => none
  | .voteAny _ => none
  | .voteAll _ => none
  | .voteUni _ => none
  | .matchAny _ => none
  | .matchAll _ => none
  | .reduce _ => none
  | .scan _ => none
  | .scanExclusive _ => none
  | .perm _ => none
  | .pack _ => none
  | .unpk _ => none
  | .subx _ => none
  | .subxTwo _ => none
  | .movs _ => none
  | .movsClr _ => none
  | .iadd _ => none
  | .isub _ => none
  | .imul _ => none
  | .imad _ => none
  | .imulh _ => none
  | .imulhSu _ => none
  | .imadwLo _ => none
  | .imadwHi _ => none
  | .idiv _ => none
  | .irem _ => none
  | .imin _ => none
  | .imax _ => none
  | .iabs _ => none
  | .shl _ => none
  | .shr _ => none
  | .sar _ => none
  | .rotL _ => none
  | .rotR _ => none
  | .fshlL _ => none
  | .fshlR _ => none
  | .andB _ => none
  | .orB _ => none
  | .xor _ => none
  | .andn _ => none
  | .lop3 _ => none
  | .popc _ => none
  | .clz _ => none
  | .ctz _ => none
  | .brev _ => none
  | .bfx _ => none
  | .bfi _ => none
  | .icmp _ => none
  | .iaddcC _ => none
  | .iaddcB _ => none
  | .lea _ => none
  | .sad _ => none
  | .acsPm _ => none
  | .acsMp _ => none
  | .fadd _ => none
  | .fsub _ => none
  | .fmul _ => none
  | .ffma _ => none
  | .fmin _ => none
  | .fmax _ => none
  | .fcmp _ => none
  | .fclass _ => none
  | .fclassTest _ => none
  | .frnd _ => none
  | .frndX _ => none
  | .fcvt _ => none
  | .fscale _ => none
  | .fdot2 _ => none
  | .fdiv _ => none
  | .fsqrt _ => none
  | .modesetAll _ => none
  | .modesetRm _ => none
  | .modesetFtz _ => none
  | .modesetFclr _ => none
  | .modeget _ => none
  | .modegetClr _ => none
  | .seed _ => none
  | .seedLane _ => none
  | .cmul _ => none
  | .cfma _ => none
  | .cmulj _ => none
  | .cconj _ => none
  | .cabs2 _ => none
  | .rcp _ => none
  | .rsq _ => none
  | .sqrta _ => none
  | .ex2 _ => none
  | .lg2 _ => none
  | .sinpi _ => none
  | .cospi _ => none
  | .cispi _ => none
  | .tanh _ => none
  | .sigm _ => none
  | .erf _ => none
  | .lds _ => none
  | .sts _ => none
  | .copy _ => none
  | .copyout _ => none
  | .spclr _ => none
  | .spmap _ => none
  | .spunmap _ => none
  | .spwb _ => none
  | .qbindPop _ => none
  | .qbindPush _ => none
  | .qunbind _ => none
  | .qinit _ => none
  | .qinitDrop _ => none
  | .qtry _ => none
  | .qpeek _ => none
  | .qlen _ => none
  | .qclose _ => none
  | .dqset _ => none
  | .dqsetClr _ => none
  | .spawn _ => none
  | .poptask _ => none
  | .stealAny _ => none
  | .stealAt _ => none
  | .taskdone _ => none
  | .phasebegin _ => none
  | .phasewait _ => none
  | .phasewaitTry _ => none
  | .waitle _ => none
  | .barinit _ => none
  | .bararr _ => none
  | .barwait _ => none
  | .barsync _ => none
  | .tbarSync _ => none
  | .tbarArr _ => none
  | .tbarWait _ => none
  | .gang _ => none
  | .arel _ => none
  | .tdesc _ => none
  | .mma _ => none
  | .mmas _ => none
  | .aclr _ => none
  | .amovCopy _ => none
  | .amovTr _ => none
  | .amovGet _ => none
  | .amovPut _ => none
  | .ald _ => none
  | .ast _ => none
  | .ared _ => none
  | .aepi _ => none
  | .ld _ => none
  | .st _ => none
  | .ldx _ => none
  | .stx _ => none
  | .prefL2 _ => none
  | .prefMsc _ => none
  | .prefCore _ => none
  | .atom _ => none
  | .atomrCas _ => none
  | .atomrSwap _ => none
  | .red _ => none
  | .redfAdd _ => none
  | .redfFlush _ => none
  | .bulkCopy _ => none
  | .bulkFill _ => none
  | .esyncBoth _ => none
  | .esyncIn _ => none
  | .esyncOut _ => none
  | .probeR _ => none
  | .probeW _ => none
  | .probeX _ => none
  | .asbind _ => none
  | .asbindClose _ => none
  | .asbindClr _ => none
  | .trace _ => none
  | .tracew _ => none
  | .hitacc _ => none
  | .hitaccEnd _ => none
  | .hitign _ => none
  | .rayspawn _ => none
  | .rayterm _ => none
  | .rload _ => none
  | .rloadSlot _ => none
  | .clemit _ => none
  | .build _ => none
  | .refit _ => none
  | .refitInplace _ => none
  | .compact _ => none
  | .sfwait _ => none
  | .sfwaitTry _ => none
  | .genadv _ => none
  | .launch _ => none
  | .notify _ => none
  | .hret _ => none
  | .srd _ => none
  | .swr _ => none
  | .swrT _ => none
  | .clockCyc _ => none
  | .clockNs _ => none
  | .teamBarrierRelease => none
  | .gangGrant => none
  | .tileReturn => none
  | .mxeEntryStart => none
  | .mxeRetire => none
  | .slotWaitResume => none
  | .headerWaitPass => none
  | .sluiceAdmit => none
  | .sluiceRefill => none
  | .joinRelease => none
  | .warpDrainEnd => none
  | .teamPlacement => none
  | .dictionaryLoad => none
  | .allotmentClear => none
  | .allotmentFree => none
  | .lineDataArrival => none
  | .copyEngineComplete => none
  | .rayPop => none
  | .nodeVisit => none
  | .fencePass => none
  | .leafTest => none
  | .builderCommandStart => none
  | .builderWritePhase => none
  | .builderComplete => none
  | .leaseRenewal => none
  | .l2Evict => none
  | .l2Fill => none
  | .ptsAdvance => none
  | .timestampOverflow => none
  | .peerLinkRead => none
  | .peerLinkWrite => none
  | .correctedError => none
  | .memUncorrect => none
  | .unconsumedError => none
  | .tlbMissWalk => none
  | .walkComplete => none
  | .faultReplay => none
  | .faultFail => none
  | .supervisorContinue => none
  | .supervisorHalt => none
  | .haltSaveComplete => none
  | .evictionRequest => none
  | .victimSave => none
  | .evictionReleaseTimeout => none
  | .warpResume => none
  | .feuSlotExamine => none
  | .queueRestart => none
  | .ndoneStore => none
  | .nxStepBudget => none
  | .dispatchStarvation => none
  | .issueClassBoost => none
  | .ticket => none
  | .notifyRecord => none
  | .mbxClaim => none
  | .mbxSubmit => none
  | .mbxNext => none
  | .mbxRelease => none
  | .claimLapse => none
  | .reqCreate => none
  | .reqMap => none
  | .reqUnmap => none
  | .reqQueueCreate => none
  | .reqQueueDestroy => none
  | .reqHalt => none
  | .reqResume => none
  | .reqAttest => none
  | .reqDestroy => none
  | .registerSpaceError => none
  | .registerWrite => none
  | .setPointer => none
  | .privateRead => none
  | .entdaa => none
  | .powerLimitWrite => none
  | .eventFlagsClear => none
  | .moduleReset => none
  | .powerThrottleStep => none
  | .clockRaiseStep => none
  | .thermalThrottleStep => none
  | .thermalTrip => none
  | .powerOnBoot => none
  | .ptpSteer => none
  | .ptpFirstLock => none
  | .complexFailed => none
  | .fatalDump => none
  | .linkPortFailure => none
  | .packageRemoval => none
  | .heartbeat => none
  | .mscEviction => none
  | .pathReturns => none

/-- The fields a Nibex op uses and their limits (17 Table 17.4, R382): unused fields are 0. -/
def nibexOk (op : Nat) (f : NibexFields) : Bool :=
  let noB := f.b == 0
  let noImm := f.imm == 0
  let imm := f.imm.toNat
  match op with
  | 0 | 17 => f.a == 0 && noB && noImm
  | 1 => noB && imm ≤ 7
  | 2 => noB
  | 3 | 8 | 9 => true
  | 4 | 5 | 14 | 18 => noImm
  | 6 | 7 => noB && imm ≤ 63
  | 10 | 11 | 12 => 1 ≤ imm && imm < 2 ^ 20
  | 13 => noB && 1 ≤ imm && imm ≤ 63
  | 15 => imm ≤ 7
  | 16 => imm ≤ 3
  | _ => false

/-- Well-formed for a warp of width `w` with `nw` groups of uniform registers. An event has no encoding to be ill formed. -/
def Instr.wfAt (w nw : Nat) (i : Instr) : Bool :=
  match i.enc with
  | some (e, f) => Enc.legal w nw e f
  | none =>
    match i.nibex with
    | some (op, f) => nibexOk op f
    | none => true

/-- Well-formed in the widest warp with every uniform register allotted. -/
def Instr.wf (i : Instr) : Bool := i.wfAt 64 16

end Sys2Proof
end

