-- ==== Sys2Proof/Decode.lean ====
section
/-! DEFINITION. The decoder of the 160-bit word and of the 32-bit Nibex word, total and rejecting by name, and the encoder beside it (03 R55-R61, 17 R381). -/
namespace Sys2Proof

/-- Why a word is no instruction (03 Table 3.7 steps 2 and 5). -/
inductive WordError where
  | opcode | field
  deriving DecidableEq, Repr

/-- Bits `lo` to `lo + n - 1` of a word. -/
def bitsAt {m : Nat} (x : BitVec m) (lo n : Nat) : BitVec n := x.extractLsb' lo n

/-- The edge mode of two bits (Table 5.5). -/
def edgeOf (e : BitVec 2) : Option Edge :=
  match e.toNat with
  | 0 => some .z
  | 1 => some .c
  | 2 => some .w
  | _ => none

/-- A permute pattern and its parameter (Table 5.5). -/
def permOf (pat : BitVec 3) (par : BitVec 6) : Option Perm :=
  match pat.toNat with
  | 0 => if par == 0 then some .ident else none
  | 1 => some (.bc par)
  | 2 => some (.rot par)
  | 3 => some (.bf par)
  | 4 => some (.mir par)
  | 5 => (edgeOf (bitsAt par 0 2)).map (.lt (bitsAt par 2 4))
  | 6 => (edgeOf (bitsAt par 0 2)).map (.rt (bitsAt par 2 4))
  | _ =>
    if par.getLsbD 5 then some (.bcSub (bitsAt par 0 5))
    else if par.getLsbD 4 then none else some (.sub (bitsAt par 0 4))

/-- An operand field (03 R58, R59, Table 3.5). -/
def operandOf (x : BitVec 21) : Option Operand :=
  let num := bitsAt x 10 8
  let low := bitsAt x 0 10
  match (bitsAt x 18 3).toNat with
  | 0 => (permOf (bitsAt x 6 3) (bitsAt x 0 6)).map (.v num (x.getLsbD 9))
  | 1 => if low == 0 then some (.w num) else none
  | 2 => if low == 0 && num.toNat < 16 then some (.p (bitsAt x 10 4)) else none
  | 3 => if low == 0 && num.toNat < 32 then some (.t (bitsAt x 10 5)) else none
  | 4 => if low == 0 && num.toNat < 16 then some (.a (bitsAt x 10 4)) else none
  | 5 => if low == 0 && num.toNat < 16 then some (.q (bitsAt x 10 4)) else none
  | 6 => some (.imm (bitsAt x 0 18))
  | _ => if low == 0 then some (if num == 0 then .absent else .special num) else none

/-- The fields of a word whose data type, operands and reserved bits are possible ones (03 Table 3.4). -/
def fieldsOf (x : BitVec 160) : Option Fields := do
  let ty ← Ty.ofCode (bitsAt x 139 5)
  let o0 ← operandOf (bitsAt x 115 21)
  let o1 ← operandOf (bitsAt x 94 21)
  let o2 ← operandOf (bitsAt x 73 21)
  let o3 ← operandOf (bitsAt x 52 21)
  let o4 ← operandOf (bitsAt x 31 21)
  if bitsAt x 8 2 != (0 : BitVec 2) then none
  else some {
    variant := bitsAt x 144 6, ty := ty, rounding := bitsAt x 136 3
    op0 := o0, op1 := o1, op2 := o2, op3 := o3, op4 := o4
    guardA := ⟨x.getLsbD 30, bitsAt x 26 4⟩, guardB := ⟨x.getLsbD 25, bitsAt x 21 4⟩
    combineOr := x.getLsbD 20, hint := bitsAt x 16 4, counter := bitsAt x 12 4
    yield := x.getLsbD 11, sat := x.getLsbD 10, mods := bitsAt x 0 8 }

/-- Rows 0 to 23 of the table, in its order. -/
def irlekRows0 : List (Enc × (Fields → Instr)) :=
  [(Enc.nop, .nop),
   (Enc.bra, .bra),
   (Enc.brc, .brc),
   (Enc.brwAny, .brwAny),
   (Enc.brwAll, .brwAll),
   (Enc.brwNone, .brwNone),
   (Enc.brwWz, .brwWz),
   (Enc.brwWnz, .brwWnz),
   (Enc.jmpi, .jmpi),
   (Enc.call, .call),
   (Enc.calli, .calli),
   (Enc.ret, .ret),
   (Enc.join, .join),
   (Enc.exit, .exit),
   (Enc.yield, .yield),
   (Enc.brk, .brk),
   (Enc.trap, .trap),
   (Enc.mov, .mov),
   (Enc.movw, .movw),
   (Enc.bcastw, .bcastw),
   (Enc.bcastwP, .bcastwP),
   (Enc.sel, .sel),
   (Enc.pand, .pand),
   (Enc.pandAn, .pandAn)]

/-- Rows 24 to 47 of the table, in its order. -/
def irlekRows1 : List (Enc × (Fields → Instr)) :=
  [(Enc.por, .por),
   (Enc.porOn, .porOn),
   (Enc.pxor, .pxor),
   (Enc.pnot, .pnot),
   (Enc.voteBallot, .voteBallot),
   (Enc.voteAny, .voteAny),
   (Enc.voteAll, .voteAll),
   (Enc.voteUni, .voteUni),
   (Enc.matchAny, .matchAny),
   (Enc.matchAll, .matchAll),
   (Enc.reduce, .reduce),
   (Enc.scan, .scan),
   (Enc.scanExclusive, .scanExclusive),
   (Enc.perm, .perm),
   (Enc.pack, .pack),
   (Enc.unpk, .unpk),
   (Enc.subx, .subx),
   (Enc.subxTwo, .subxTwo),
   (Enc.movs, .movs),
   (Enc.movsClr, .movsClr),
   (Enc.iadd, .iadd),
   (Enc.isub, .isub),
   (Enc.imul, .imul),
   (Enc.imad, .imad)]

/-- Rows 48 to 71 of the table, in its order. -/
def irlekRows2 : List (Enc × (Fields → Instr)) :=
  [(Enc.imulh, .imulh),
   (Enc.imulhSu, .imulhSu),
   (Enc.imadwLo, .imadwLo),
   (Enc.imadwHi, .imadwHi),
   (Enc.idiv, .idiv),
   (Enc.irem, .irem),
   (Enc.imin, .imin),
   (Enc.imax, .imax),
   (Enc.iabs, .iabs),
   (Enc.shl, .shl),
   (Enc.shr, .shr),
   (Enc.sar, .sar),
   (Enc.rotL, .rotL),
   (Enc.rotR, .rotR),
   (Enc.fshlL, .fshlL),
   (Enc.fshlR, .fshlR),
   (Enc.andB, .andB),
   (Enc.orB, .orB),
   (Enc.xor, .xor),
   (Enc.andn, .andn),
   (Enc.lop3, .lop3),
   (Enc.popc, .popc),
   (Enc.clz, .clz),
   (Enc.ctz, .ctz)]

/-- Rows 72 to 95 of the table, in its order. -/
def irlekRows3 : List (Enc × (Fields → Instr)) :=
  [(Enc.brev, .brev),
   (Enc.bfx, .bfx),
   (Enc.bfi, .bfi),
   (Enc.icmp, .icmp),
   (Enc.iaddcC, .iaddcC),
   (Enc.iaddcB, .iaddcB),
   (Enc.lea, .lea),
   (Enc.sad, .sad),
   (Enc.acsPm, .acsPm),
   (Enc.acsMp, .acsMp),
   (Enc.fadd, .fadd),
   (Enc.fsub, .fsub),
   (Enc.fmul, .fmul),
   (Enc.ffma, .ffma),
   (Enc.fmin, .fmin),
   (Enc.fmax, .fmax),
   (Enc.fcmp, .fcmp),
   (Enc.fclass, .fclass),
   (Enc.fclassTest, .fclassTest),
   (Enc.frnd, .frnd),
   (Enc.frndX, .frndX),
   (Enc.fcvt, .fcvt),
   (Enc.fscale, .fscale),
   (Enc.fdot2, .fdot2)]

/-- Rows 96 to 119 of the table, in its order. -/
def irlekRows4 : List (Enc × (Fields → Instr)) :=
  [(Enc.fdiv, .fdiv),
   (Enc.fsqrt, .fsqrt),
   (Enc.modesetAll, .modesetAll),
   (Enc.modesetRm, .modesetRm),
   (Enc.modesetFtz, .modesetFtz),
   (Enc.modesetFclr, .modesetFclr),
   (Enc.modeget, .modeget),
   (Enc.modegetClr, .modegetClr),
   (Enc.seed, .seed),
   (Enc.seedLane, .seedLane),
   (Enc.cmul, .cmul),
   (Enc.cfma, .cfma),
   (Enc.cmulj, .cmulj),
   (Enc.cconj, .cconj),
   (Enc.cabs2, .cabs2),
   (Enc.rcp, .rcp),
   (Enc.rsq, .rsq),
   (Enc.sqrta, .sqrta),
   (Enc.ex2, .ex2),
   (Enc.lg2, .lg2),
   (Enc.sinpi, .sinpi),
   (Enc.cospi, .cospi),
   (Enc.cispi, .cispi),
   (Enc.tanh, .tanh)]

/-- Rows 120 to 143 of the table, in its order. -/
def irlekRows5 : List (Enc × (Fields → Instr)) :=
  [(Enc.sigm, .sigm),
   (Enc.erf, .erf),
   (Enc.lds, .lds),
   (Enc.sts, .sts),
   (Enc.copy, .copy),
   (Enc.copyout, .copyout),
   (Enc.spclr, .spclr),
   (Enc.spmap, .spmap),
   (Enc.spunmap, .spunmap),
   (Enc.spwb, .spwb),
   (Enc.qbindPop, .qbindPop),
   (Enc.qbindPush, .qbindPush),
   (Enc.qunbind, .qunbind),
   (Enc.qinit, .qinit),
   (Enc.qinitDrop, .qinitDrop),
   (Enc.qtry, .qtry),
   (Enc.qpeek, .qpeek),
   (Enc.qlen, .qlen),
   (Enc.qclose, .qclose),
   (Enc.dqset, .dqset),
   (Enc.dqsetClr, .dqsetClr),
   (Enc.spawn, .spawn),
   (Enc.poptask, .poptask),
   (Enc.stealAny, .stealAny)]

/-- Rows 144 to 167 of the table, in its order. -/
def irlekRows6 : List (Enc × (Fields → Instr)) :=
  [(Enc.stealAt, .stealAt),
   (Enc.taskdone, .taskdone),
   (Enc.phasebegin, .phasebegin),
   (Enc.phasewait, .phasewait),
   (Enc.phasewaitTry, .phasewaitTry),
   (Enc.waitle, .waitle),
   (Enc.barinit, .barinit),
   (Enc.bararr, .bararr),
   (Enc.barwait, .barwait),
   (Enc.barsync, .barsync),
   (Enc.tbarSync, .tbarSync),
   (Enc.tbarArr, .tbarArr),
   (Enc.tbarWait, .tbarWait),
   (Enc.gang, .gang),
   (Enc.arel, .arel),
   (Enc.tdesc, .tdesc),
   (Enc.mma, .mma),
   (Enc.mmas, .mmas),
   (Enc.aclr, .aclr),
   (Enc.amovCopy, .amovCopy),
   (Enc.amovTr, .amovTr),
   (Enc.amovGet, .amovGet),
   (Enc.amovPut, .amovPut),
   (Enc.ald, .ald)]

/-- Rows 168 to 191 of the table, in its order. -/
def irlekRows7 : List (Enc × (Fields → Instr)) :=
  [(Enc.ast, .ast),
   (Enc.ared, .ared),
   (Enc.aepi, .aepi),
   (Enc.ld, .ld),
   (Enc.st, .st),
   (Enc.ldx, .ldx),
   (Enc.stx, .stx),
   (Enc.prefL2, .prefL2),
   (Enc.prefMsc, .prefMsc),
   (Enc.prefCore, .prefCore),
   (Enc.atom, .atom),
   (Enc.atomrCas, .atomrCas),
   (Enc.atomrSwap, .atomrSwap),
   (Enc.red, .red),
   (Enc.redfAdd, .redfAdd),
   (Enc.redfFlush, .redfFlush),
   (Enc.bulkCopy, .bulkCopy),
   (Enc.bulkFill, .bulkFill),
   (Enc.esyncBoth, .esyncBoth),
   (Enc.esyncIn, .esyncIn),
   (Enc.esyncOut, .esyncOut),
   (Enc.probeR, .probeR),
   (Enc.probeW, .probeW),
   (Enc.probeX, .probeX)]

/-- Rows 192 to 215 of the table, in its order. -/
def irlekRows8 : List (Enc × (Fields → Instr)) :=
  [(Enc.asbind, .asbind),
   (Enc.asbindClose, .asbindClose),
   (Enc.asbindClr, .asbindClr),
   (Enc.trace, .trace),
   (Enc.tracew, .tracew),
   (Enc.hitacc, .hitacc),
   (Enc.hitaccEnd, .hitaccEnd),
   (Enc.hitign, .hitign),
   (Enc.rayspawn, .rayspawn),
   (Enc.rayterm, .rayterm),
   (Enc.rload, .rload),
   (Enc.rloadSlot, .rloadSlot),
   (Enc.clemit, .clemit),
   (Enc.build, .build),
   (Enc.refit, .refit),
   (Enc.refitInplace, .refitInplace),
   (Enc.compact, .compact),
   (Enc.sfwait, .sfwait),
   (Enc.sfwaitTry, .sfwaitTry),
   (Enc.genadv, .genadv),
   (Enc.launch, .launch),
   (Enc.notify, .notify),
   (Enc.hret, .hret),
   (Enc.srd, .srd)]

/-- Rows 216 to 219 of the table, in its order. -/
def irlekRows9 : List (Enc × (Fields → Instr)) :=
  [(Enc.swr, .swr),
   (Enc.swrT, .swrT),
   (Enc.clockCyc, .clockCyc),
   (Enc.clockNs, .clockNs)]

/-- Every row of Irlek. -/
def irlekRows : List (Enc × (Fields → Instr)) :=
  irlekRows0 ++ irlekRows1 ++ irlekRows2 ++ irlekRows3 ++ irlekRows4 ++ irlekRows5 ++ irlekRows6 ++ irlekRows7 ++ irlekRows8 ++ irlekRows9

/-- The instruction of a word, for a warp of width `w` with `nw` uniform groups (03 Table 3.7 steps 2 and 5). -/
def decodeIrlek (w nw : Nat) (x : BitVec 160) : Except WordError Instr :=
  let op := (bitsAt x 150 10).toNat
  if irlekRows.all (fun r => r.1.opcode != op) then .error .opcode
  else match fieldsOf x with
    | none => .error .field
    | some f =>
      match irlekRows.find? (fun r => r.1.opcode == op && r.1.variants.contains f.variant.toNat) with
      | none => .error .field
      | some r => if Enc.legal w nw r.1 f then .ok (r.2 f) else .error .field

/-- The word read as an Irlek instruction whatever its position, or nothing. -/
def decodeWord (w nw : Nat) (x : BitVec 160) : Option Instr :=
  match decodeIrlek w nw x with
  | .ok i => some i
  | .error _ => none

/-- The Nibex instruction of an op; ops 19 to 31 are none (17 Table 17.4). -/
def nibexOf (op : Nat) (f : NibexFields) : Option Instr :=
  match op with
  | 0 => some (.nxHalt f)
  | 1 => some (.nxLdc f)
  | 2 => some (.nxLdi f)
  | 3 => some (.nxAddi f)
  | 4 => some (.nxAdd f)
  | 5 => some (.nxAnd f)
  | 6 => some (.nxShr f)
  | 7 => some (.nxShl f)
  | 8 => some (.nxLdm f)
  | 9 => some (.nxStm f)
  | 10 => some (.nxBeq f)
  | 11 => some (.nxBne f)
  | 12 => some (.nxBltu f)
  | 13 => some (.nxDjnz f)
  | 14 => some (.nxNlaunch f)
  | 15 => some (.nxNcopy f)
  | 16 => some (.nxNbuild f)
  | 17 => some (.nxNwait f)
  | 18 => some (.nxNdone f)
  | _ => none

/-- A Nibex word (17 R381, R382). -/
def decodeNibex (x : BitVec 32) : Option Instr :=
  let op := (bitsAt x 27 5).toNat
  let f : NibexFields := ⟨bitsAt x 24 3, bitsAt x 21 3, bitsAt x 0 21⟩
  if nibexOk op f then nibexOf op f else none

/-- The row's instruction from bits numbered from the least significant bit of the first parcel: 160 bits of Irlek, read
in the widest warp, or 32 bits of Nibex. -/
def decodeTableWord (nbits w : Nat) : Option Instr :=
  if nbits ≤ 32 then decodeNibex (BitVec.ofNat 32 w) else decodeWord 64 16 (BitVec.ofNat 160 w)

/-! ### The encoder, from the same tables -/

/-- The two bits of an edge mode. -/
def Edge.code : Edge → BitVec 2
  | .z => 0
  | .c => 1
  | .w => 2

/-- The pattern and parameter bits of a permute (Table 5.5). -/
def Perm.code : Perm → BitVec 9
  | .ident => 0
  | .bc n => 1#3 ++ n
  | .rot k => 2#3 ++ k
  | .bf k => 3#3 ++ k
  | .mir k => 4#3 ++ k
  | .lt d e => 5#3 ++ d ++ e.code
  | .rt d e => 6#3 ++ d ++ e.code
  | .sub s => 7#3 ++ 0#2 ++ s
  | .bcSub x => 7#3 ++ 1#1 ++ x

/-- The 21 bits of an operand (Table 3.5). -/
def Operand.code : Operand → BitVec 21
  | .v n last perm => 0#3 ++ n ++ BitVec.ofBool last ++ perm.code
  | .w n => 1#3 ++ n ++ 0#10
  | .p n => 2#3 ++ 0#4 ++ n ++ 0#10
  | .t n => 3#3 ++ 0#3 ++ n ++ 0#10
  | .a n => 4#3 ++ 0#4 ++ n ++ 0#10
  | .q n => 5#3 ++ 0#4 ++ n ++ 0#10
  | .imm i => 6#3 ++ i
  | .special n => 7#3 ++ n ++ 0#10
  | .absent => 7#3 ++ 0#18

/-- The five bits of a guard. -/
def Guard.code (g : Guard) : BitVec 5 := BitVec.ofBool g.neg ++ g.pred

/-- The word of an opcode and fields (Table 3.4). -/
def encodeFields (op : Nat) (f : Fields) : BitVec 160 :=
  BitVec.ofNat 10 op ++ f.variant ++ f.ty.code ++ f.rounding ++ f.op0.code ++ f.op1.code ++ f.op2.code ++ f.op3.code
  ++ f.op4.code ++ f.guardA.code ++ f.guardB.code ++ BitVec.ofBool f.combineOr ++ f.hint ++ f.counter
  ++ BitVec.ofBool f.yield ++ BitVec.ofBool f.sat ++ 0#2 ++ f.mods

/-- The word of a Nibex op and fields. -/
def encodeNibex (op : Nat) (f : NibexFields) : BitVec 32 := BitVec.ofNat 5 op ++ f.a ++ f.b ++ f.imm

/-- The bits of an instruction and how many they are: 160 for Irlek, 32 for Nibex; an event has none. -/
def encode (i : Instr) : Option (Nat × Nat) :=
  match i.enc with
  | some (e, f) => some (160, (encodeFields e.opcode f).toNat)
  | none =>
    match i.nibex with
    | some (op, f) => some (32, (encodeNibex op f).toNat)
    | none => none

end Sys2Proof
end

