-- ==== Sys2Proof/Config.lean ====
section
/-! DEFINITION. What the spec leaves to the part: free values with no body, so that no proof can see what they are. -/
namespace Sys2Proof.Config

/-- The encoding a special function's tables give, by function, format and argument encoding (07 R174): it is taken only where it
lies within the stated error. A format is named by its exponent and fraction widths. -/
opaque sfuValue : Nat → Nat × Nat → Nat → Nat

/-- A choice the spec leaves open, by the count of choices taken so far (`State.free`). -/
opaque pick : Nat → Nat

/-- What a pop operand gives a lane that is not active, by the count of choices taken so far and the lane: the spec states the value
for active lanes only (09 R202). -/
opaque idlePop : Nat → Nat → Nat

/-- Cycles of a die's clock that pass, and nanoseconds of global time, by the count of choices taken so far. -/
opaque cyclesPass : Nat → Nat
opaque nanosPass : Nat → Nat

/-- HINFO of a MEM_UNCORRECT, by physical address and unit: the spec states none (18 Table 18.1). -/
opaque uncorrectInfo : Nat → Nat → Nat

/-- Where the supervisor keeps the fault queue of a die (14 R324), by die. -/
opaque faultQueueBase : Nat → Nat

/-- Bytes of a node that describe an absent child, by the node's address and offset: the spec states none (16 R361). -/
opaque nodeFill : Nat → Nat → Nat

/-- A refitted node's quality where a decoded bound has no finite area, by node index (16 R364). -/
opaque qualityBeyond : Nat → Nat

/-- The bytes beyond 16 of the KMAC256 output whose first 128 bits are a tag: its length enters the function, and the spec does not
give it (17 R379, 19 R423). -/
opaque kmacBytesMore : Nat

/-- Draws of a die's SP 800-90A generator, by the count of choices taken so far (19 R420). -/
opaque drbg : Nat → Nat

/-- ML-KEM-1024 encapsulation against a key with a random draw: the ciphertext and the shared secret (19 R424). -/
opaque kemCiphertext : Nat → Nat → Nat
opaque kemSecret : Nat → Nat → Nat

/-- The SHA3-512 digest of the vendor's public key, fused into each die, and whether ML-DSA-87 verifies under a key, a digest and a
signature (19 R417). -/
opaque vendorKey : Nat
opaque mldsaVerifies : Nat → Nat → Nat → Bool

/-- Bytes of the dump region whose contents the spec names without a layout: the harts' registers and the units' state (19 Table
19.5), by the count of choices taken and the offset. -/
opaque dumpFill : Nat → Nat → Nat

/-- A die's ML-DSA-87 signature of a report, by the die, the digest of its accepted image and the report (19 R418). -/
opaque mldsaSign : Nat → Nat → Nat → Nat

end Sys2Proof.Config
end

