-- ==== Sys2Proof/Machine/Map.lean ====
section
/-! DEFINITION. Sparse maps from numbers as sorted lists, and byte memory in its canonical form (State is plain data). -/
namespace Sys2Proof

/-- A sparse map: pairs with strictly rising keys. -/
abbrev AMap (α : Type) := List (Nat × α)

/-- The entry of a key. -/
def AMap.get {α : Type} : AMap α → Nat → Option α
  | [], _ => none
  | (k, v) :: m, n => if n = k then some v else AMap.get m n

/-- The entry of a key, or a given value. -/
def AMap.getD {α : Type} (m : AMap α) (n : Nat) (d : α) : α := (AMap.get m n).getD d

/-- The map with one entry written, keys kept rising. -/
def AMap.set {α : Type} : AMap α → Nat → α → AMap α
  | [], n, x => [(n, x)]
  | (k, v) :: m, n, x =>
    if n < k then (n, x) :: (k, v) :: m
    else if n = k then (n, x) :: m
    else (k, v) :: AMap.set m n x

/-- The map without a key. -/
def AMap.erase {α : Type} : AMap α → Nat → AMap α
  | [], _ => []
  | (k, v) :: m, n => if n = k then AMap.erase m n else (k, v) :: AMap.erase m n

/-- The map with an entry changed where it exists. -/
def AMap.modify {α : Type} (m : AMap α) (n : Nat) (f : α → α) : AMap α :=
  match AMap.get m n with
  | some v => AMap.set m n (f v)
  | none => m

/-- The map with an entry changed, starting from a given value where it does not exist. -/
def AMap.upd {α : Type} (m : AMap α) (n : Nat) (d : α) (f : α → α) : AMap α := AMap.set m n (f (AMap.getD m n d))

/-- An element put into a sorted list, before those it is not above. -/
def insertBy {α : Type} (le : α → α → Bool) (x : α) : List α → List α
  | [] => [x]
  | y :: ys => if le x y then x :: y :: ys else y :: insertBy le x ys

/-- A list sorted, equal elements in their order. -/
def sortBy {α : Type} (le : α → α → Bool) (l : List α) : List α := l.foldr (insertBy le) []

/-- The lowest key not in use, from a bound up. -/
def AMap.freeKey {α : Type} (m : AMap α) (bound : Nat) : Option Nat :=
  (List.range bound).find? (fun k => (AMap.get m k).isNone)

/-- Byte memory: strictly rising addresses, and no entry equal to 0, which an unlisted address reads as. -/
abbrev Memory := List Host.Cell

/-- What an unlisted byte reads as. DESIGN CHOICE: the spec gives memory no contents at reset (assumption 1). -/
def Memory.empty : Byte := 0#8

/-- One byte of memory. -/
def Memory.read (m : Memory) (a : Nat) : Byte := (AMap.get m a).getD Memory.empty

/-- Memory with one byte written; writing what an unlisted byte reads as removes the entry. -/
def Memory.write (m : Memory) (a : Nat) (b : Byte) : Memory :=
  if b = Memory.empty then AMap.erase m a else AMap.set m a b

/-- `n` bytes from an address. -/
def Memory.readN (m : Memory) (a : Nat) : Nat → List Byte
  | 0 => []
  | n + 1 => Memory.read m a :: Memory.readN m (a + 1) n

/-- Bytes written from an address. -/
def Memory.writeN (m : Memory) (a : Nat) : List Byte → Memory
  | [] => m
  | b :: bs => Memory.writeN (Memory.write m a b) (a + 1) bs

/-- The canonical form: addresses strictly rising, no entry that an unlisted address would read as. -/
def Memory.wf : Memory → Bool
  | [] => true
  | [(_, v)] => v != Memory.empty
  | (k, v) :: (k', v') :: m => v != Memory.empty && decide (k < k') && Memory.wf ((k', v') :: m)

end Sys2Proof
end

