-- ==== Sys2Proof/Machine/State.lean ====
section
/-! DEFINITION. Everything the spec gives the machine, as plain data, and the machine right after reset. -/
namespace Sys2Proof.Machine

/-- Trap and halt causes (18 R397, Table 18.6). -/
inductive Cause where
  | illegalParcel | illegalOpcode | illegalField | badTarget | demandOver | regReleased | level | break_ | trap
  | spAlign | spRange | spQueue | qUnbound | qDir | qClosed | qFit | qNone | taskNone | taskHeld | phaseBad
  | barCount | barRange | gangCount | mxNoGang | mxNoTile | mxRange | mxDesc | memAlign | memRange
  | trQueue | trHandle | trState | trSlot | trFit
  | pageFault | memUncorrect | double | owner | supervisor
  deriving DecidableEq, Repr

/-- How a bundle comes to a header, which decides the kinds that may be entered (03 R41). -/
inductive Way where
  | launch | transfer | fallThrough | trapEntry | resumed
  deriving DecidableEq, Repr

/-- Where a lane stands in the steps of 03 R42: arrived at a header and waiting for its counters, waiting at the
sluice, or inside a body. -/
inductive Stage where
  | arrived | queued | inBody
  deriving DecidableEq, Repr

/-- One lane of a warp: its PC table entry (04 R76), where it is in its block, its handler marks (18 Table 18.3) and its
stochastic-rounding state (02 R31). `hdr` is the header of the block it is in or at; `bundle` names the bundle whose
sluice reservation it draws on (05 R111); `homeHdr` and
`homeBundle` are those of the block it left for a handler; `changed` marks a PC a debugger moved into a body (04 R87). -/
structure Lane where
  pc : Word
  live : Bool
  held : Bool
  bypass : Nat
  hdr : Word
  stage : Stage
  way : Way
  bundle : Nat
  homeHdr : Word
  homeBundle : Nat
  changed : Bool
  sr : BitVec 32
  hlane : Bool
  tret : Bool
  deriving DecidableEq, Repr

/-- A mapped vector register: one word a lane, and whether its release is pending (05 R104). -/
structure VReg where
  lanes : List Word
  pending : Bool
  deriving DecidableEq, Repr

/-- A queue binding (09 R200). -/
structure Binding where
  push : Bool
  endPred : BitVec 4
  line : Nat
  deriving DecidableEq, Repr

/-- The task a warp holds (09 R212). -/
structure TaskState where
  valid : Bool
  tw : Nat
  root : Word
  deriving DecidableEq, Repr

/-- What barrier a warp waits on after BARSYNC or TBAR.sync (10 R238, 18 Table 18.3). -/
inductive BarWait where
  | named (b token : Nat)
  | team (id token : Nat)
  deriving DecidableEq, Repr

/-- The greatest times of writes by home scope: homes on the warp's die, in its package, in the domain (13 Table 13.2). -/
structure ScopeTimes where
  team : Nat
  package : Nat
  domain : Nat
  deriving DecidableEq, Repr

/-- A bundle that has arrived at a barrier and waits there: its PC, its lanes, and what it waits on (10 R232, R238). -/
structure BarHold where
  pc : Word
  lanes : Mask
  wait : BarWait
  deriving DecidableEq, Repr

/-- What tells that a lane's write has taken its place: nothing but later accesses, the read of an ATOM's result, or the decrement
of the update that made it (13 R308). -/
inductive Until where
  | later | read (v : Nat) | settled (stamp : Nat)
  deriving DecidableEq, Repr

/-- A lane's write that may still be in flight: the quadword's number and its value before, and its place in the order in which
homes take writes. -/
structure Flight where
  quad : Nat
  old : Word
  until_ : Until
  at_ : Nat
  deriving DecidableEq, Repr

/-- The bundle an instruction runs for: warp slot, lanes, block header and its word, its address and the next
parcel's, and whether a decode check failed before it (03 R60). -/
structure Cur where
  wid : Nat
  lanes : Mask
  hdr : Word
  hword : BitVec 64
  pc : Word
  next : Word
  deriving DecidableEq, Repr

/-- One access of lanes: its physical address, or its offset in the allotment `al`, and the lanes that make it with the values they
bring. -/
structure Access where
  pa : Nat
  lanes : List (Nat × List Nat)
  al : Option Nat := none
  deriving DecidableEq, Repr

/-- A bundle whose accesses to global memory have been made in part (12 R275, 13 R300): the bundle, its instruction's word, its
active lanes, its time at issue, the accesses still to be made, what lanes have got, and the stamp of its instruction. -/
structure Sending where
  cur : Cur
  word : BitVec 160
  act : Mask
  pts : Nat
  left : List Access
  got : AMap Nat
  stamp : Nat
  deriving DecidableEq, Repr

/-- Why a warp issues nothing: it has stopped for a trap that halts its context, or its stop is asked for by an eviction. -/
inductive StopAsk where
  | none | halt | evict
  deriving DecidableEq, Repr

/-- A warp in a slot. -/
structure Warp where
  ctx : Nat
  launch : Nat
  team : Nat
  teamWarp : Nat
  /-- Which of its team's cores it stands on (04 R69). -/
  teamCore : Nat
  role : Nat
  roleWarp : Nat
  gang : Option Nat
  gangNumber : Option Nat
  width : Nat
  nw : Nat
  strict : Bool
  saveIdx : Nat
  lanes : List Lane
  v : AMap VReg
  w : AMap Word
  p : AMap Mask
  t : AMap (BitVec 128)
  q : AMap Binding
  counters : AMap Nat
  relTimes : AMap Nat
  mode : Word
  zlane : Bool
  pts : Nat
  ptsSince : Nat
  handler : Bool
  stop : Bool
  pend : Bool
  hvec : Word
  tcause : Word
  tinfo : Word
  tepc : Word
  tmask : Word
  task : TaskState
  /-- Bundles that wait after BARSYNC or TBAR.sync, in order of arrival (10 R232, R238). -/
  barWaits : List BarHold
  /-- A STEAL.any under way: its PC and how many cores it has tried (09 R220). -/
  search : Option (Word × Nat)
  floor : Nat
  peak : Nat
  res : AMap Nat
  nextBundle : Nat
  spilled : List Nat
  refillRes : AMap Nat
  placed : Nat
  issuedAt : Nat
  /-- The cycle from which a YIELD no longer holds the warp back (04 R95). -/
  yieldUntil : Option Nat
  /-- The next pick of its quarter passes it by: YIELD 0 or the yield bit (04 R81, R95). -/
  yieldNext : Bool
  draining : Bool
  asked : StopAsk
  askedAt : Nat
  /-- Vector and uniform registers whose engine result is still to come: a read waits (04 R78). -/
  awaitV : List Nat
  awaitW : List Nat
  /-- Finished updates whose decrement is still to come (10 R224, 12 R293, R296): their counter, or 15 for none, and the stamp
  of their instruction. -/
  owed : List (Nat × Nat)
  /-- Lane writes that may still be in flight (13 R308). -/
  flight : List Flight
  /-- A bundle at LD, ST, ATOM, ATOMR, RED or REDF.add some of whose accesses are still to be made (12 R275, 13 R300). -/
  sending : Option Sending
  /-- Times of the writes of its finished engine commands (13 R312). -/
  cmdTimes : ScopeTimes
  /-- Bundles held by an unanswered translation fault, by PC (14 R325). -/
  faultPcs : List Word
  /-- An arrival at a gang rendezvous not yet answered, or a loan, or a team-barrier answer: the group waits. -/
  gangWait : Bool
  deriving DecidableEq, Repr

/-- A dictionary bank (03 R50-R53); `loaded` is when its image was read, in the order of acceptances, and `serial` the launch it
was loaded for. -/
structure Bank where
  ctx : Nat
  base : Word
  n : Nat
  words : List (BitVec 160)
  ready : Bool
  faulted : Bool
  loaded : Nat
  serial : Nat
  deriving DecidableEq, Repr

/-- A request at the sluice: a bundle at a header with its demand, a single register for a lane a debugger moved, or a
spilled warp's refill (05 R112, R113, 04 R87). -/
inductive SluiceReq where
  | bundle (wid : Nat) (hdr : Word) (demand : Nat)
  | refill (wid : Nat)
  deriving DecidableEq, Repr

/-- A blocked queue operation: allotment, descriptor line, direction, warp and the bundle's PC (09 R203). -/
structure Blocked where
  allot : Nat
  line : Nat
  push : Bool
  wid : Nat
  pc : Word
  deriving DecidableEq, Repr

/-- A TLB entry (14 R322): context, page base and size, permissions and physical base. `size` is as PROBE reports it. -/
structure TlbEntry where
  ctx : Nat
  vbase : Nat
  size : Nat
  pbase : Nat
  r : Bool
  w : Bool
  x : Bool
  a : Bool
  d : Bool
  deriving DecidableEq, Repr

/-- A leased copy in a core cache: times, and the sectors it holds (12 R270, 13 R301). -/
structure Copy where
  wts : Nat
  rts : Nat
  lo : Option (List Byte)
  hi : Option (List Byte)
  deriving DecidableEq, Repr

/-- What a level holds of one sector of a line (12 R270): whether it is valid and whether it is dirty. `ahead` marks a clean
sector whose newer bytes a level behind has lost (12 R288). -/
structure Sector where
  valid : Bool
  dirty : Bool
  ahead : Bool
  deriving DecidableEq, Repr

/-- A line at its home slice (12 R270, 13 R301), with the marks of hints (12 R273, R274): persistent, next victim of its set, and
past the MSC. `used` is when a KEEP or STREAM line was last used. -/
structure L2Line where
  wts : Nat
  rts : Nat
  lo : Sector
  hi : Sector
  persistent : Bool
  next : Bool
  nomsc : Bool
  used : Nat
  deriving DecidableEq, Repr

/-- A line in the memory-side cache (12 R270). -/
structure MscLine where
  lo : Sector
  hi : Sector
  deriving DecidableEq, Repr

/-- Where a ray is (15 R338-R342): at its header with the quadwords read of it, at a node, at a fence before an internal child or a leaf, at
a triangle of a leaf with the units read of it, or with its candidate at the warps. `depth` is that of the node or
child. -/
inductive RayAt where
  | fetch (got : List Nat)
  | node (index depth : Nat)
  | fence (leaf : Bool) (target id depth : Nat)
  | leaf (addr : Word) (tri : Nat) (data : List Byte)
  | held (addr : Word) (tri : Nat) (data : List Byte)
  deriving DecidableEq, Repr

/-- A pending child on a ray's stack: an internal node's index or a leaf's number, its fence, the depth of the node above,
and its rank there (15 R339). -/
structure Pending where
  leaf : Bool
  target : Nat
  fence : Nat
  depth : Nat
  rank : Nat
  deriving DecidableEq, Repr

/-- A ray in the TVU, or with its candidate at the warps (15 R338, R346), with the bases of the header it read, and whether it
has one of the 64 places. Its trail, hits and counts stand in its record. -/
structure Ray where
  slot : Nat
  index : Nat
  at_ : RayAt
  nodes : Word
  leaves : Word
  fences : Word
  stack : List Pending
  trailing : Bool
  time : Nat
  placed : Bool
  faulted : Bool
  deriving DecidableEq, Repr

/-- A TRACE or TRACEW whose rays have not all ended: who sent it, rays left, and for TRACEW the pair's register with the
lanes' results (15 R352, R353). -/
structure TraceJob where
  wid : Nat
  counter : Option Nat
  left : Nat
  dest : Option Nat
  results : List (Nat × Word × Word)
  deriving DecidableEq, Repr

/-- A trace slot (15 R329, R331). -/
structure TraceSlot where
  allot : Nat
  header : Word
  gen : Nat
  pool : Nat
  records : Nat
  rayQueue : Nat
  hitQueue : Nat
  closed : Bool
  stats : List Nat
  deriving DecidableEq, Repr

/-- A traversal unit: rays, the resume list of slot and index, and the slot served last. Keyed by slot × 4096 + index:
`times` are those of rays not in the unit, `jobOf` the job and lane of a record. -/
structure Tvu where
  rays : AMap Ray
  resume : List (Nat × Nat)
  lastSlot : Nat
  times : AMap Nat
  jobs : AMap TraceJob
  jobOf : AMap (Nat × Nat)
  deriving DecidableEq, Repr

/-- A core: dictionary banks, sluice queue by cycle and order of arrival, blocked queue operations, quarters' busy bounds,
the cycle and quarter of the last issue (08 R183), trace unit, trace slots, cached copies and TLB. -/
structure Core where
  banks : List (Option Bank)
  sluice : List (Nat × SluiceReq)
  blocked : List Blocked
  busy : List Nat
  turn : Option (Nat × Nat)
  tvu : Tvu
  slots : AMap TraceSlot
  copies : AMap Copy
  tlb : List TlbEntry
  deriving DecidableEq, Repr

/-- Acquire, release and scope of a command (08 R187). -/
structure Ord where
  acquire : Bool
  release : Bool
  scope : Nat
  deriving DecidableEq, Repr

/-- Who counts a command's completion: a warp's counter, a Nibex command of a queue, or nobody. -/
inductive Owner where
  | warp (wid : Nat) (counter : Option Nat)
  | nibex (queue : Nat) (serial : Nat)
  deriving DecidableEq, Repr

/-- What a copy-engine command does (08 R193-R196, 12 R297). Addresses are virtual; scratchpad offsets are of the
allotment. -/
inductive CmdKind where
  | copy (off : Nat) (addr : Word) (rowBytes rows : Nat) (stride : Int)
  | copyOut (addr : Word) (off rowBytes rows : Nat) (stride : Int)
  | spclr (off bytes : Nat)
  | spmap (dst : Nat) (entry off : Nat) (addr : Word) (g : Nat)
  | spunmap (entry : Nat)
  | spwb (entry : Nat)
  | bulkCopy (dst src : Word) (bytes : Nat)
  | bulkFill (dst : Word) (bytes : Nat) (pattern : Word)
  deriving DecidableEq, Repr

/-- A copy-engine command (08 R185): `todo` are the ranges of its aligned 8-byte units not yet moved, `got` units read
and still to be written, `old` the quadwords behind lane stores in flight at issue, `times` the times of its writes, `stamp` its
place in the order of issue. -/
structure Cmd where
  kind : CmdKind
  owner : Owner
  ctx : Nat
  launch : Option Nat
  die : Nat
  allot : Option Nat
  ord : Ord
  hint : BitVec 4
  time : Nat
  stamp : Nat
  todo : List (Nat × Nat)
  got : AMap Word := []
  old : List (Nat × Word)
  times : ScopeTimes
  faulted : Bool
  stopped : Bool
  deriving DecidableEq, Repr

/-- A reservation entry of the matrix engine (11 R247): the opcode and fields of its word, descriptors and source values (of ALD
and AST the address and the stride), its place `issued` in gang order, the next unit of its work, operand quadwords already
fetched, and of a row that AST has begun the places still to be written. -/
structure Entry where
  opcode : Nat
  f : Fields
  wid : Nat
  /-- The slot it was issued from, or that its warp has come back to: it counts for that core (11 R247, Table 11.6). -/
  seat : Nat
  gang : Nat
  launch : Nat
  active : Mask
  descs : List (BitVec 128)
  src1 : List Word
  src2 : List Word
  rm : BitVec 3
  counter : Option Nat
  issued : Nat
  /-- The turn of its issue: cycle, then core, then quarter (11 R243, R249). -/
  turn : Nat
  time : Nat
  old : List (Nat × Word)
  times : ScopeTimes
  running : Bool
  unit : Nat
  got : AMap Word
  rowLeft : List Nat
  faulted : Bool
  stopped : Bool
  deriving DecidableEq, Repr

/-- A gang: rendezvous state and tiles (11 R241, R242). `members`, `arrived` and `relArrived` are team warps, `waiters` the
bundles at GANG by team warp and PC, `age` when the rendezvous completed. Tiles are sparse, element i × 128 + j. -/
structure Gang where
  ctx : Nat
  launch : Nat
  team : Nat
  role : Nat
  number : Nat
  cluster : Nat
  members : List Nat
  saveIdx : Nat
  latch : Option Nat
  arrived : List Nat
  relArrived : List Nat
  waiters : List (Nat × Word)
  /-- Waiters whose gang has been granted its tiles, until they are told (11 R241, R260). -/
  granted : List (Nat × Word) := []
  waiting : Bool
  age : Nat
  /-- The turn of the issue that completed its rendezvous (11 R241). -/
  turn : Nat
  tiles : Option (List (AMap (BitVec 32)))
  released : Bool
  /-- Tiles to be restored on the grant instead of cleared (11 R255). -/
  restore : Bool
  deriving DecidableEq, Repr

/-- A cluster: copy-engine commands, reservation entries by number in gang order, and TLBs. -/
structure Cluster where
  cpe : AMap Cmd
  entries : AMap Entry
  tlb : List TlbEntry
  mxeTlb : List TlbEntry
  deriving DecidableEq, Repr

/-- A named or team barrier (10 R229, R233): `arrived` holds the team warps that arrived in this phase, `cur` the greatest
time they arrived at, `time` that of the phases completed, and `told` the phase whose start a team barrier's waiting
warps have been told of. -/
structure Barrier where
  phase : Nat
  latched : Option Nat
  arrived : List Nat
  cur : Nat
  time : Nat
  told : Nat
  deriving DecidableEq, Repr

/-- A mapping-table entry (08 R188): offset, address and units; `registered` granules by physical granule number, and
the dirty sectors by offset ÷ 128. -/
structure MapEntry where
  off : Nat
  addr : Word
  g : Nat
  granules : List Nat
  dirty : List Nat
  deriving DecidableEq, Repr

/-- A team's allotment on one core (08 R178): bytes, absent lines with the stamp of the last command that cleared
them, tables, and barriers. -/
structure Allot where
  ctx : Nat
  launch : Nat
  team : Nat
  core : Nat
  teamCore : Nat
  units : Nat
  /-- The team's warps on this core, exited ones included (10 R229). -/
  warps : Nat
  /-- The slots that those warps have or had last, by team warp (18 Table 18.5). -/
  seats : AMap Nat
  saveIdx : Nat
  cleared : Bool
  saved : Bool
  mem : Memory
  lines : AMap Nat
  maps : AMap MapEntry
  spTimes : AMap (Nat × Nat)
  queues : List Nat
  deques : AMap (Nat × Nat)
  /-- Times that pushes and hand-overs carry to their takers, by line × 8,192 + place (09 R204, R209). -/
  edges : AMap Nat
  /-- The cycle of a deque's last steal (09 R208). -/
  stolenAt : AMap Nat := []
  /-- The stopped commands whose entries its save area holds, in order, by their place in the order of issue (18 Table 18.5). -/
  listed : List Nat := []
  barriers : AMap Barrier
  nBarriers : Nat
  /-- What stood in a quadword of a ray record since its ray was sent, by scratchpad offset; only of quadwords that the
  traversal unit has written (15 R356). -/
  written : AMap (List Nat)
  deriving DecidableEq, Repr

/-- Where a team stands. -/
inductive TeamStatus where
  | waiting | placed | evicted
  deriving DecidableEq, Repr

/-- A team of a launch (04 R68, R69), with its team barriers and how many warps it has. -/
structure Team where
  launch : Nat
  index : Nat
  status : TeamStatus
  cores : List Nat
  since : Nat
  tbars : AMap Barrier
  warps : Nat
  deriving DecidableEq, Repr

/-- A role of a launch (17 Table 17.6). -/
structure Role where
  entry : Word
  warps : Nat
  floor : Nat
  gang : Nat
  deriving DecidableEq, Repr

/-- A launch (17 R384-R386). `owner` is told of its completion; `next` teams have been placed, in order, and `teamsDone` have
ended; `serial` orders acceptance, `started` is its global time, `time` the front-end time at dispatch, and `doneTime` the
greatest time of its finished work. -/
structure Launch where
  ctx : Nat
  die : Nat
  entry : Word
  dictBase : Word
  dictN : Nat
  width : Nat
  gang : Nat
  teamLanes : Nat
  teams : Nat
  units : Nat
  nw : Nat
  barriers : Nat
  peak : Nat
  maxDemand : Nat
  roles : List Role
  strict : Bool
  args : List Word
  dc : Nat
  deadline : Nat
  window : Nat
  queue : Option Nat
  boosted : Bool
  owner : Owner
  serial : Nat
  started : Nat
  next : Nat
  teamsDone : Nat
  time : Nat
  doneTime : Nat
  placedAt : Nat
  deriving DecidableEq, Repr

/-- A builder command's variant (16). -/
inductive BuildKind where
  | build | refit | inplace | compact
  deriving DecidableEq, Repr

/-- One write of a builder's plan, in order (16 R362): virtual address and bytes, single-copy atomic. One that completes a cluster
`names` its key and unit; one of the cluster map has, instead of bytes, the key count and which 128 bytes of the map it is. -/
structure BWrite where
  addr : Word
  data : List Byte
  names : Option (Nat × Nat) := none
  map : Option (Nat × Nat) := none
  deriving DecidableEq, Repr

/-- What one side of a split command has found (16 R366): the nodes and units it needs and the bounds of its clusters, or the code and
count of the status that it ends with. -/
structure BLaid where
  nodes : Nat
  units : Nat
  lo : Int × Int × Int
  hi : Int × Int × Int
  failed : Option (Nat × Nat)
  deriving DecidableEq, Repr

/-- The side that a command of a split one builds (16 R366): die 0's, or die 1's; its stream entries, or the node of L that it
copies; where the two sides stand in the root; how many sorted entries stand before its own; and what it has found. -/
structure BSide where
  first : Bool
  items : List Nat
  places : Nat × Nat
  before : Nat
  laid : Option BLaid
  deriving DecidableEq, Repr

/-- A builder command (16 R367): its word and parameters, where its status goes (a uniform register or, for Nibex, an address),
the quadwords it has read so far, its space in the engine save region (18 R396), and its writes still to be made. A command split
across both dies (16 R366) stands on a builder of each with its `side`: that of die 1 is its `half`, which names the `id` of the
other; of the other's writes the first `own` are its side's. `map` are the units of the keys whose clusters are written. -/
structure BCmd where
  id : Nat
  half : Option Nat
  kind : BuildKind
  word : BitVec 160
  params : List Word
  owner : Owner
  statusReg : Option Nat
  statusAddr : Option Word
  ctx : Nat
  launch : Option Nat
  die : Nat
  ord : Ord
  time : Nat
  old : List (Nat × Word)
  reads : List Word
  area : Option (Nat × Nat)
  started : Bool
  plan : List BWrite
  status : Word
  times : ScopeTimes
  faulted : Bool
  stopped : Bool
  side : Option BSide := none
  own : Nat := 0
  map : AMap Nat := []
  deriving DecidableEq, Repr

/-- A builder: its command queue and TLB. -/
structure Builder where
  queue : List BCmd
  tlb : List TlbEntry
  deriving DecidableEq, Repr

/-- What a fault record holds (14 R325). A save or restore is named by what it moves: 0 a warp, 1 a gang, 2 an allotment,
3 an engine command, 4 a spill, 5 a refill. `control` is a stop record being written, `reply` one being read back. -/
inductive Held where
  | lanes (wid : Nat) (pc : Word)
  | entry (wid : Nat) (hdr : Word)
  | dictionary (core bank : Nat)
  | cpe (cluster cmd : Nat)
  | mxe (cluster entry : Nat)
  | ray (core ray : Nat)
  | builder (cmd : Nat)
  | frontEnd (queue : Nat)
  | done (queue key : Nat)
  | save (what id : Nat)
  | drain (wid : Nat)
  | control (wid : Nat)
  | reply (wid : Nat)
  deriving DecidableEq, Repr

/-- A fault record and the work it holds (14 R324, R325). -/
structure FaultRec where
  word : BitVec 128
  held : Held
  answered : Option Bool
  deriving DecidableEq, Repr

/-- A walk in progress or waiting in the walk queue (14 R323): the TLBs that missed, context and page address. -/
structure Walk where
  tlbs : List Nat
  ctx : Nat
  va : Word
  busy : Bool
  deriving DecidableEq, Repr

/-- A record of the supervisor trap queue (18 R400). -/
structure TrapRec where
  ctx : Nat
  wid : Nat
  saveIdx : Nat
  tcause : Word
  tinfo : Word
  deriving DecidableEq, Repr

/-- A die: builders, front-end time and TLB, walks, fault and trap queues, error count, and common-clock cycles. -/
structure Die where
  builders : List Builder
  feuTime : Nat
  feuTlb : List TlbEntry
  walks : List Walk
  faults : AMap FaultRec
  traps : List TrapRec
  corrected : Nat
  cycles : Nat
  clockMHz : Nat
  starving : Option Nat
  deriving DecidableEq, Repr

/-- An exact reduction slot (12 R280, 02 R37). `fmt` is 0 binary32, 1 binary16, 2 BF16. -/
structure Slot where
  fmt : Nat
  a : Int
  nan : Bool
  pinf : Bool
  ninf : Bool
  ctx : Nat
  launch : Nat
  last : Nat
  spilled : Bool
  deriving DecidableEq, Repr

/-- A lane's contribution waiting at a full spill region (12 R285); `stamp` joins those of one instruction. -/
structure SlotWait where
  wid : Nat
  lane : Nat
  stamp : Nat
  time : Nat
  ctx : Nat
  launch : Nat
  pa : Nat
  fmt : Nat
  bits : Nat
  hint : BitVec 4
  counter : Option Nat
  deriving DecidableEq, Repr

/-- Context states (18 Table 18.2). -/
inductive CtxState where
  | free | running | halting | halted | frozen | destroying
  deriving DecidableEq, Repr

/-- A context record (18 R391) with what the supervisor keeps beside it: session key, mapped ranges (virtual address, length,
physical address, page size code, plus 8 for a save pool), page-table pages, and the halt walk. -/
structure Ctx where
  state : CtxState
  owner : Nat
  root : Word
  deleg : Word
  supv : Word
  wsb : Word
  wsn : Nat
  gsb : Word
  gsn : Nat
  asb : Word
  asn : Nat
  esb : Word
  esz : Nat
  hcause : Nat
  hinfo : Word
  hwho : Word
  key : Nat
  pages : List (Nat × Nat × Nat × Nat)
  tables : List Nat
  haltStep : Nat
  freezing : Bool
  /-- Physical ranges that an UNMAP under way has taken out of the page tables (14 R326). -/
  dropping : List (Nat × Nat) := []
  /-- The names of what its last halt saved: from the first up to the second (18 R413). -/
  haltFrom : Nat := 0
  haltTo : Nat := 0
  deriving DecidableEq, Repr

/-- An access window of a queue (17 R374). -/
structure Window where
  base : Nat
  len : Nat
  deriving DecidableEq, Repr

/-- A pending completion store of NDONE: after the work of the command serial, store (17 Table 17.4, R383). -/
structure NDone where
  serial : Nat
  addr : Word
  value : Word
  faulted : Bool
  deriving DecidableEq, Repr

/-- The Nibex command in progress (17 R381, R383). -/
structure Running where
  slot : Nat
  serial : Nat
  x : List Word
  pc : Nat
  steps : Nat
  deadline : Nat
  quad0 : Word
  deriving DecidableEq, Repr

/-- A work queue (17 R374-R379). `notified` says that the slot at RD is to be examined, `faulted` that a translation fault
holds its step; `work` counts unfinished work by command serial, and `workTime` is the greatest time of finished work. -/
structure Queue where
  ctx : Nat
  classL : Bool
  ring : Word
  k : Nat
  dc : Nat
  window : Nat
  program : List (BitVec 32)
  windows : List Window
  key : Nat
  control : Word
  peers : List Nat
  rd : Nat
  tk : Nat
  commits : List Nat
  nonce : Nat
  status : Nat
  stopped : Bool
  missed : Nat
  late : Nat
  badNotify : Nat
  notified : Bool
  faulted : Bool
  running : Option Running
  serial : Nat
  work : AMap Nat
  workTime : Nat
  dones : AMap NDone
  destroying : Bool
  deriving DecidableEq, Repr

/-- Mailbox states (19 Table 19.8). -/
inductive MbxState where
  | idle | claimed | running | answered
  deriving DecidableEq, Repr

/-- The supervisor mailbox (19 R422). -/
structure Mailbox where
  state : MbxState
  token : Nat
  claimant : Nat
  at_ : Nat
  buffer : List Byte
  answer : List Byte
  segment : Nat
  dropped : Nat
  deriving DecidableEq, Repr

/-- A journal entry: owner, request id, the session key it was made under, and its answer (19 R419). -/
structure Journal where
  owner : Nat
  id : Nat
  key : Nat
  code : Nat
  result : Nat
  body : List Byte
  deriving DecidableEq, Repr

/-- A supervisor complex (19 R415-R417), with its 4 MiB of private SRAM, byte by byte where they are not 0. -/
structure Complex where
  booted : Bool
  failed : Bool
  status : Nat
  securityVersion : BitVec 32
  fuse : BitVec 32
  digest : Nat
  version : BitVec 64
  sram : Memory
  deriving DecidableEq, Repr

/-- The dump region as FATAL_DUMP writes it (19 Table 19.5): the cause, the incarnation and the time of its first quadwords, the
complexes' SRAM, and the count of choices that names the bytes for which the spec gives no layout. -/
structure Dump where
  cause : Nat
  incarnation : Nat
  time : Nat
  srams : List Memory
  free : Nat
  deriving DecidableEq, Repr

/-- What the supervisor is told of: a die's spill region is full (12 R285), a fill dropped for an error (12 R288), data that cannot
be corrected with their physical address and unit (12 R287), and a die that draws too much at the least clock (01 R18). -/
inductive Notice where
  | slotsFull (die : Nat) | dropped (pa : Nat) | uncorrectable (pa unit : Nat) | atFloor (die : Nat)
  deriving DecidableEq, Repr

/-- The supervisor's module-wide state: complexes, primary, heartbeat, incarnation, takeover step and when it began, mailbox,
journal, fatal cause and whether a thermal trip has gated the clocks, the dump (19 Table 19.5), and what it has been told of. -/
structure Supervisor where
  complexes : List Complex
  primary : Nat
  standby : Bool
  heartbeat : Nat
  bootCount : Nat
  takeovers : Nat
  takeover : Nat
  takeoverAt : Nat
  mailbox : Mailbox
  journal : List Journal
  locked : Bool
  firstLock : Bool
  ptpHold : Option Nat
  fatal : Nat
  tripped : Bool
  dumpWritten : Bool
  dumpStreamed : Bool
  dump : Option Dump
  heldInReset : Bool
  notices : List Notice
  deriving DecidableEq, Repr

/-- The I3C sideband (01 R21). -/
structure Sideband where
  pointer : BitVec 8
  dynamic : Option (BitVec 7)
  temp0 : BitVec 16
  temp1 : BitVec 16
  coolant : BitVec 16
  draw : BitVec 32
  limit : BitVec 16
  limitResult : BitVec 16
  powerSteps : BitVec 16
  thermalSteps : BitVec 16
  enables : BitVec 4
  events : BitVec 4
  ibis : List Nat
  lastStep : Option Nat
  reply : List Byte
  deriving DecidableEq, Repr

/-- Links (19 R431-R433): this package's number, its domains, failed ports, unreachable packages, and the outstanding
accesses held for them, by warp and PC. -/
structure Links where
  package : Nat
  coherence : List Nat
  domain : List Nat
  deadPorts : List Nat
  unreachable : List Nat
  removed : List Nat
  waiting : List (Nat × Nat × Word)
  dumpPeer : Option Nat
  /-- The greatest time of a peer's write, which a notify published with it carries (17 R388). -/
  time : Nat
  deriving DecidableEq, Repr

/-- A message that leaves the part: to a peer, with a kind, and words. Kinds: 0 read data, 1 error completion, 2 write
done, 3 halt notice, 4 queue stopped, 5 dump stream. -/
structure Message where
  peer : Nat
  kind : Nat
  words : List Nat
  deriving DecidableEq, Repr

/-- A warp, or a gang with its entries, or an engine command saved off the part (18 R393-R396). The register contents
of a warp stand in its save area in memory; what the save area does not hold is the placement kept here; `place` is the slot
that a warp had on its core, and `was` the warp as it was saved, so that what its engines gave it since can be told (10 R227). -/
inductive Saved where
  | warp (w : Warp) (core place : Nat) (was : Warp)
  | gang (id : Nat) (entries : List Entry)
  | cmd (cluster : Nat) (c : Cmd)
  | build (builder : Nat) (c : BCmd)
  | allot (id : Nat) (slots : AMap TraceSlot) (tvu : Tvu)
  deriving DecidableEq, Repr

/-- An eviction request (18 R410-R412): the launch whose team waits, its cores, victims still to be saved, and warps released. One
that has ended with no victim left stands until a warp of its cores drains or is saved. -/
structure Evict where
  team : Nat
  cores : List Nat
  victims : List Nat
  released : List Nat
  since : Nat
  ended : Bool := false
  deriving DecidableEq, Repr

/-- A transfer to or from a save area that met a translation fault, as far as it has come (18 R392): what it moves (as `Held.save`
names it, 4 for a spill, 5 for a refill, 6 for a stop record and 7 for one read back), the pieces still to be written with their addresses, the
pieces read so far, the latest first, and the registers a spill takes. -/
structure Move where
  what : Nat
  id : Nat
  left : List (Word × List Byte)
  got : List (List Byte)
  regs : List Nat
  deriving DecidableEq, Repr

/-- What the machine does next: a warp's bundle is picked and issues, or its header steps run; a queue's Nibex step
runs; a unit of a matrix entry runs, or an operand quadword of it is fetched; a warp's finished update counts down; a
takeover goes on; a peer's access that waits is tried again; or an event of the opcode table happens. -/
inductive Action where
  | issue (wid : Nat)
  | nibex (queue : Nat)
  | mxeUnit (cluster entry : Nat)
  | mxeFetch (cluster entry chunk : Nat)
  | settle (wid : Nat)
  | takeover
  | peer (place : Nat)
  | event (i : Instr) (args : EventArgs)
  deriving DecidableEq, Repr

/-- The whole machine. `free` counts the free values taken and `uid` the identities given: both are the model's own. -/
structure State where
  mem : Memory
  l2Behind : AMap Byte
  mscBehind : AMap Byte
  l2 : AMap L2Line
  msc : AMap MscLine
  summary : AMap Nat
  slots : AMap Slot
  slotWaits : List SlotWait
  ranges : AMap (Nat × Nat)
  /-- Sectors as they stood before writes since launches began: sector, identity count at the write, bytes (03 R54). -/
  codeOld : List (Nat × Nat × List Byte)
  warps : AMap Warp
  cores : AMap Core
  clusters : AMap Cluster
  dies : List Die
  gangs : AMap Gang
  allots : AMap Allot
  teams : AMap Team
  launches : AMap Launch
  ctxs : AMap Ctx
  queues : AMap Queue
  saved : AMap Saved
  moving : List Move
  evicts : List Evict
  sup : Supervisor
  side : Sideband
  links : Links
  out : List Message
  /-- Global time in ns, by die 0's counter, and die 1's counter, which follows it (17 R387). -/
  ns : Nat
  ns1 : Nat
  /-- Nanoseconds that have passed, by which waits are measured: global time may step and be steered (17 R387). -/
  elapsed : Nat
  cur : Option Cur
  nib : Option Nat
  /-- What the event under way happens to. -/
  ev : EventArgs
  agenda : List Action
  /-- Peers' accesses that wait for an absent line, or behind another of their peer, in the order they came (13 R318). -/
  deferred : List Action
  /-- The bundle just tried did not issue: it waits (04 R77). -/
  waited : Bool
  /-- How many accesses a bundle makes before another step may fall between; 0 for all of them (13 R300). -/
  burst : Nat
  free : Nat
  uid : Nat
  stamp : Nat
  deriving DecidableEq, Repr

/-- Why the machine stops. -/
inductive Fault where
  /-- Raised by a meaning of an Irlek instruction when State names no bundle for it to run in. Safe: step always names one. -/
  | noBundle
  /-- Raised by a meaning of a Nibex instruction when State names no running command. Safe: step always names one. -/
  | noCommand
  deriving DecidableEq, Repr

/-- Why an instruction has no meaning in the model. -/
inductive Refusal where
  /-- Raised by exec's arm of an instruction that has no meaning yet. Safe. -/
  | notModelled (mnemonic : String)
  deriving DecidableEq, Repr

/-- An empty core. -/
def Core.fresh : Core where
  banks := [none, none]
  sluice := []
  blocked := []
  busy := [0, 0, 0, 0]
  turn := none
  tvu := ⟨[], [], 7, [], [], []⟩
  slots := []
  copies := []
  tlb := []

/-- An empty cluster. -/
def Cluster.fresh : Cluster := ⟨[], [], [], []⟩

/-- A die at reset: nothing queued, times 0 (13 R301), the nominal clock (01 R14). -/
def Die.fresh : Die where
  builders := List.replicate 4 ⟨[], []⟩
  feuTime := 0
  feuTlb := []
  walks := []
  faults := []
  traps := []
  corrected := 0
  cycles := 0
  clockMHz := 1600
  starving := none

/-- A complex at reset: nothing booted; fuse and versions are the model's choice (assumption 3). -/
def Complex.fresh : Complex := ⟨false, false, 0, 0, 0, 0, 0, []⟩

/-- The mailbox at reset: idle and zero (19 R422). -/
def Mailbox.fresh : Mailbox := ⟨.idle, 0, 0, 0, [], [], 0, 0⟩

/-- The machine right after reset: every value the spec gives, and those of assumptions 1 to 3 where it gives none. -/
def State.reset : State where
  mem := []
  l2Behind := []
  mscBehind := []
  l2 := []
  msc := []
  summary := []
  slots := []
  slotWaits := []
  ranges := []
  codeOld := []
  warps := []
  cores := []
  clusters := []
  dies := [Die.fresh, Die.fresh]
  gangs := []
  allots := []
  teams := []
  launches := []
  ctxs := []
  queues := []
  saved := []
  moving := []
  evicts := []
  sup := ⟨[Complex.fresh, Complex.fresh], 0, false, 0, 0, 0, 0, 0, Mailbox.fresh, [], false, false, none, 0, false, false,
    false, none, false, []⟩
  side := ⟨0, none, 0, 0, 0, 0, 2100, 0, 0, 0, 0, 0, [], none, []⟩
  links := ⟨0, [0], [0], [], [], [], [], none, 0⟩
  out := []
  ns := 0
  ns1 := 0
  elapsed := 0
  cur := none
  nib := none
  ev := {}
  agenda := []
  deferred := []
  waited := false
  burst := 0
  free := 0
  uid := 1
  stamp := 0

end Sys2Proof.Machine
end

