-- ==== Sys2Proof/Machine/Access.lean ====
section
/-! DEFINITION. Where units stand on the part, and reading and changing the pieces of State (01 R14, R15, 04 R98). -/
namespace Sys2Proof.Machine

/-! ### Places: a warp slot is numbered core × 64 + quarter × 16 + slot -/

/-- The core of a warp slot, 0 to 319. -/
def coreOf (wid : Nat) : Nat := wid / 64
/-- The quarter of a warp slot in its core. -/
def quarterOf (wid : Nat) : Nat := wid / 16 % 4
/-- The slot in its quarter. -/
def slotOf (wid : Nat) : Nat := wid % 16
/-- The cluster of a core, 0 to 79. -/
def clusterOfCore (core : Nat) : Nat := core / 4
/-- The die of a core. -/
def dieOfCore (core : Nat) : Nat := core / 160
/-- The die of a warp slot. -/
def dieOf (wid : Nat) : Nat := dieOfCore (coreOf wid)
/-- The cluster of a warp slot. -/
def clusterOf (wid : Nat) : Nat := clusterOfCore (coreOf wid)
/-- The die of a cluster. -/
def dieOfCluster (c : Nat) : Nat := c / 40
/-- PLACE of Table 4.5. -/
def placeOf (wid : Nat) : Nat :=
  coreOf wid % 4 + 4 * (clusterOf wid % 40) + 256 * dieOf wid + 512 * quarterOf wid

/-! ### Pieces of the state -/

def State.warp? (s : State) (wid : Nat) : Option Warp := AMap.get s.warps wid
def State.setWarp (s : State) (wid : Nat) (w : Warp) : State := { s with warps := AMap.set s.warps wid w }
/-- Identities of saved warps start here: they stand where a slot's number would. -/
def savedWid : Nat := 0x100000
/-- A name that no warp has: what is left of a drained warp's commands belongs to it. -/
def nobody : Nat := savedWid + 2 ^ 40
/-- A warp changed, in its slot or saved. -/
def State.modWarp (s : State) (wid : Nat) (f : Warp → Warp) : State :=
  if wid < savedWid then { s with warps := AMap.modify s.warps wid f }
  else
    let g (x : Saved) : Saved := match x with
      | .warp w c q was => .warp (f w) c q was
      | x => x
    { s with saved := AMap.modify s.saved (wid - savedWid) g }
def State.core (s : State) (c : Nat) : Core := AMap.getD s.cores c Core.fresh
def State.modCore (s : State) (c : Nat) (f : Core → Core) : State := { s with cores := AMap.upd s.cores c Core.fresh f }
def State.cluster (s : State) (c : Nat) : Cluster := AMap.getD s.clusters c Cluster.fresh
def State.modCluster (s : State) (c : Nat) (f : Cluster → Cluster) : State :=
  { s with clusters := AMap.upd s.clusters c Cluster.fresh f }
def State.die (s : State) (d : Nat) : Die := (s.dies[d]?).getD Die.fresh
def State.modDie (s : State) (d : Nat) (f : Die → Die) : State := { s with dies := s.dies.modify d f }
def State.modAllot (s : State) (a : Nat) (f : Allot → Allot) : State := { s with allots := AMap.modify s.allots a f }
def State.modGang (s : State) (g : Nat) (f : Gang → Gang) : State := { s with gangs := AMap.modify s.gangs g f }
def State.modTeam (s : State) (t : Nat) (f : Team → Team) : State := { s with teams := AMap.modify s.teams t f }
def State.modLaunch (s : State) (l : Nat) (f : Launch → Launch) : State :=
  { s with launches := AMap.modify s.launches l f }
def State.modCtx (s : State) (c : Nat) (f : Ctx → Ctx) : State := { s with ctxs := AMap.modify s.ctxs c f }
def State.modQueue (s : State) (q : Nat) (f : Queue → Queue) : State := { s with queues := AMap.modify s.queues q f }
def State.post (s : State) (m : Message) : State := { s with out := s.out ++ [m] }

/-- How far the halt walk of a context has come: 0 where it runs, more than 7 where it is not there or does not run
(18 R407). -/
def State.haltStepOf (s : State) (c : Nat) : Nat :=
  match AMap.get s.ctxs c with
  | some k => if k.state == .running then 0 else if k.state == .halting then k.haltStep else 8
  | none => 8

/-- A context's engines may take steps: it runs, or the halt walk has not come to them (18 R407 step 3). -/
def State.ctxRuns (s : State) (c : Nat) : Bool := s.haltStepOf c < 3

/-- A context is RUNNING, whether or not something of it is still to be restored. -/
def State.ctxRunning (s : State) (c : Nat) : Bool := ((AMap.get s.ctxs c).map fun k => k.state == .running).getD false

/-- A context's queues and launches may start work: it runs, and nothing of it is still to be restored (18 R407, R413). -/
def State.ctxStarts (s : State) (c : Nat) : Bool :=
  match AMap.get s.ctxs c with
  | some k => k.state == .running && k.haltStep == 0
  | none => false

/-- Global time as a die's counter has it (17 R387). -/
def State.nsAt (s : State) (die : Nat) : Nat := if die = 1 then s.ns1 else s.ns

/-- The issue class of a launch: 2 dc + 1, and 2 dc from its deadline less the boost window on (04 R80, 17 R386). -/
def State.launchClass (s : State) (l : Launch) : Nat :=
  if l.boosted || (l.deadline != 0 && l.deadline ≤ s.nsAt l.die + l.window) then 2 * l.dc else 2 * l.dc + 1

/-- A builder of the package, 0 to 7: four a die. -/
def State.builder (s : State) (b : Nat) : Builder := ((s.die (b / 4)).builders[b % 4]?).getD ⟨[], []⟩
def State.modBuilder (s : State) (b : Nat) (f : Builder → Builder) : State :=
  s.modDie (b / 4) fun d => { d with builders := d.builders.modify (b % 4) f }

/-- Builder commands changed by a test of them, on their builders or saved. -/
def State.modBuilds (s : State) (p : BCmd → Bool) (f : BCmd → BCmd) : State :=
  let g (c : BCmd) : BCmd := if p c then f c else c
  let h (x : Saved) : Saved := match x with
    | .build b c => .build b (g c)
    | x => x
  { s with
    dies := s.dies.map fun d => { d with builders := d.builders.map fun b => { b with queue := b.queue.map g } }
    saved := s.saved.map fun (k, x) => (k, h x) }

/-- A builder command changed by its number. -/
def State.modBuildId (s : State) (id : Nat) (f : BCmd → BCmd) : State := s.modBuilds (·.id == id) f

/-- Saved engine commands and matrix entries are known under a cluster of this number. -/
def savedCluster : Nat := 0x100000

/-! ### Choices the spec leaves open -/

/-- A choice below `n`, and the state with the choice taken. -/
def State.choose (s : State) (n : Nat) : Nat × State :=
  (Config.pick s.free % (if n = 0 then 1 else n), { s with free := s.free + 1 })

/-- One element of a list, freely. -/
def State.chooseFrom {α : Type} (s : State) (l : List α) : Option α × State :=
  let (k, s) := s.choose l.length
  (l[k]?, s)

/-- A new identity. -/
def State.fresh (s : State) : Nat × State := (s.uid, { s with uid := s.uid + 1 })

/-! ### A warp's lanes and registers -/

/-- Lane `l` of a warp. -/
def Warp.lane? (w : Warp) (l : Nat) : Option Lane := w.lanes[l]?

/-- Change the lanes of a mask. -/
def Warp.modLanes (w : Warp) (m : Mask) (f : Lane → Lane) : Warp :=
  { w with lanes := w.lanes.zipIdx.map fun (x, l) => if m.has l then f x else x }

/-- The lanes for which a test holds. -/
def Warp.where (w : Warp) (p : Lane → Bool) : Mask :=
  Mask.of w.lanes.length fun l => match w.lanes[l]? with
    | some x => p x
    | none => false

/-- The live lanes (04 R67). -/
def Warp.live (w : Warp) : Mask := w.where Lane.live

/-- A lane takes part in issue: live, not held, and at handler level only a lane that runs there (04 R77, 18 R399). -/
def Warp.issuable (w : Warp) (x : Lane) : Bool := x.live && !x.held && (!w.handler || x.hlane)

/-- Slices of a physical register: W ÷ 16 (05 R100). -/
def Warp.slices (w : Warp) : Nat := w.width / 16

/-- A vector register of a lane: zero if unmapped (05 R109). -/
def Warp.vreg (w : Warp) (n l : Nat) : Word :=
  match AMap.get w.v n with
  | some r => (r.lanes[l]?).getD 0
  | none => 0

/-- Whether a vector register is mapped. -/
def Warp.mapped (w : Warp) (n : Nat) : Bool := (AMap.get w.v n).isSome

/-- A uniform register. -/
def Warp.wreg (w : Warp) (n : Nat) : Word := AMap.getD w.w n 0

/-- A uniform register written; zero is not listed. -/
def Warp.setW (w : Warp) (n : Nat) (x : Word) : Warp :=
  { w with w := if x = 0 then AMap.erase w.w n else AMap.set w.w n x }

/-- A predicate of every lane; p15 is all true (05 Table 5.1). -/
def Warp.preg (w : Warp) (n : Nat) : Mask := if n = 15 then ~~~0#64 else AMap.getD w.p n 0

/-- A predicate written in the lanes of a mask; a write to p15 is discarded (03 R59). -/
def Warp.setP (w : Warp) (n : Nat) (m x : Mask) : Warp :=
  if n = 15 then w
  else
    let y := (w.preg n &&& ~~~m) ||| (x &&& m)
    { w with p := if y = 0 then AMap.erase w.p n else AMap.set w.p n y }

/-- A tile descriptor. -/
def Warp.treg (w : Warp) (n : Nat) : BitVec 128 := AMap.getD w.t n 0

/-- A tile descriptor written. -/
def Warp.setT (w : Warp) (n : Nat) (x : BitVec 128) : Warp :=
  { w with t := if x = 0 then AMap.erase w.t n else AMap.set w.t n x }

/-- A completion counter. -/
def Warp.counter (w : Warp) (k : Nat) : Nat := AMap.getD w.counters k 0

/-- A completion counter written. -/
def Warp.setCounter (w : Warp) (k n : Nat) : Warp :=
  { w with counters := if n = 0 then AMap.erase w.counters k else AMap.set w.counters k n }

/-- Every counter reads 0. -/
def Warp.idle (w : Warp) : Bool := w.counters.all fun (_, n) => n == 0

/-- The counters as CNTA and CNTB show them (04 Table 4.5). -/
def Warp.cnta (w : Warp) : Word :=
  BitVec.ofNat 64 ((List.range 10).foldl (fun a k => a + w.counter k * 2 ^ (6 * k)) 0)
def Warp.cntb (w : Warp) : Word := BitVec.ofNat 64 (w.counter 10 + 64 * w.counter 11)

/-- The claim of a warp in registers: mapped ones and unused reservations (05 R110). -/
def Warp.claim (w : Warp) : Nat := w.v.length + (w.res.map (·.2)).sum

/-- The claim of a warp with what it has given up at the sluice (05 R113). -/
def Warp.fullClaim (w : Warp) : Nat := w.claim + w.spilled.length + (w.refillRes.map (·.2)).sum

/-- Raise a warp's program timestamp (13 R301: it never decreases). -/
def State.raisePts (s : State) (wid t : Nat) : State := s.modWarp wid fun w => { w with pts := max w.pts t }

/-- The allotment of a warp: its team's on its core (08 R178); one that is saved stands on no core. -/
def State.allotOf (s : State) (wid : Nat) (w : Warp) : Option (Nat × Allot) :=
  (s.allots.find? fun (_, a) => a.team == w.team && a.core == coreOf wid && !a.saved)

/-- The turn of an issue that a warp makes now: the cycle, then the core, then the quarter (11 R241, R243). -/
def State.turnNow (s : State) (wid : Nat) : Nat :=
  (s.die (dieOf wid)).cycles * 2048 + coreOf wid * 4 + quarterOf wid

/-- A reduction contribution of lanes of a warp has no place yet: it waits for a slot, so what program order puts after it waits
too (12 R285, 13 R298, R303). -/
def State.contributes (s : State) (wid : Nat) (lanes : Mask := ~~~0#64) : Bool :=
  s.slotWaits.any fun x => x.wid == wid && lanes.has x.lane

/-- The launch of a warp. -/
def State.launchOf (s : State) (w : Warp) : Option Launch := AMap.get s.launches w.launch

/-- The team of a warp. -/
def State.teamOf (s : State) (w : Warp) : Option Team := AMap.get s.teams w.team

end Sys2Proof.Machine
end

