-- ==== Sys2Proof/Machine/Float.lean ====
section
/-! DEFINITION. Floating-point formats, exact values, one rounding, and the element operations of chapters 02 and 07 (R26-R38, R160-R173). -/
namespace Sys2Proof

/-- How a format spells infinities and NaNs (Table 2.3): as IEEE 754, as IEEE with every NaN quiet (E5M2), with NaN
but no infinity (E4M3), or with neither (E2M1). -/
inductive FmtKind where
  | ieee | ieeeQuiet | nanOnly | finite
  deriving DecidableEq, Repr

/-- A floating-point format with a sign bit (02 R26, Table 2.3). -/
structure Fmt where
  ebits : Nat
  mbits : Nat
  bias : Nat
  kind : FmtKind
  deriving DecidableEq, Repr

def fmtF32 : Fmt := ⟨8, 23, 127, .ieee⟩
def fmtF16 : Fmt := ⟨5, 10, 15, .ieee⟩
def fmtBF16 : Fmt := ⟨8, 7, 127, .ieee⟩
def fmtE4M3 : Fmt := ⟨4, 3, 7, .nanOnly⟩
def fmtE5M2 : Fmt := ⟨5, 2, 15, .ieeeQuiet⟩
def fmtE2M1 : Fmt := ⟨2, 1, 1, .finite⟩

/-- The format of a type's elements; the parts of .c32 are binary32 (02 R23). -/
def Ty.fmt : Ty → Option Fmt
  | .f32 | .f32x2 | .c32 => some fmtF32
  | .f16 | .f16x4 => some fmtF16
  | .bf16 | .bf16x4 => some fmtBF16
  | .e4m3 | .e4m3x8 => some fmtE4M3
  | .e5m2 | .e5m2x8 => some fmtE5M2
  | .e2m1 | .e2m1x16 => some fmtE2M1
  | _ => none

/-- Bits of the whole encoding. -/
def Fmt.width (F : Fmt) : Nat := 1 + F.ebits + F.mbits

/-- Whether flush control applies to the format: binary32, binary16 and BF16 only (02 R32). -/
def Fmt.flushable (F : Fmt) : Bool := F.kind == .ieee

/-- The greatest finite magnitude as significand and exponent (Table 2.3). -/
def Fmt.maxFin (F : Fmt) : Nat × Int :=
  match F.kind with
  | .ieee | .ieeeQuiet => (2 ^ (F.mbits + 1) - 1, (2 ^ F.ebits - 2 : Nat) - (F.bias : Int) - F.mbits)
  | .nanOnly => (2 ^ (F.mbits + 1) - 2, (2 ^ F.ebits - 1 : Nat) - (F.bias : Int) - F.mbits)
  | .finite => (2 ^ (F.mbits + 1) - 1, (2 ^ F.ebits - 1 : Nat) - (F.bias : Int) - F.mbits)

/-- The exponent of the least subnormal. -/
def Fmt.qmin (F : Fmt) : Int := 1 - (F.bias : Int) - F.mbits

/-- The bits of the greatest finite magnitude, without sign. -/
def Fmt.maxBits (F : Fmt) : Nat :=
  match F.kind with
  | .ieee | .ieeeQuiet => (2 ^ F.ebits - 1) * 2 ^ F.mbits - 1
  | .nanOnly => 2 ^ (F.ebits + F.mbits) - 2
  | .finite => 2 ^ (F.ebits + F.mbits) - 1

/-- The bits of infinity, without sign, of a format that has one. -/
def Fmt.infBits (F : Fmt) : Nat := (2 ^ F.ebits - 1) * 2 ^ F.mbits

/-- The canonical NaN, sign 0 (Table 2.3); E2M1 has none and reads +0 (02 R28). -/
def Fmt.canonNaN (F : Fmt) : Nat :=
  match F.kind with
  | .ieee | .ieeeQuiet => F.infBits + 2 ^ (F.mbits - 1)
  | .nanOnly => 2 ^ (F.ebits + F.mbits) - 1
  | .finite => 0

/-- A sign put on a magnitude's bits. -/
def Fmt.signed (F : Fmt) (neg : Bool) (mag : Nat) : Nat := (if neg then 2 ^ (F.ebits + F.mbits) else 0) + mag

/-- The value of an encoding: a NaN (signalling or not), an infinity, or exactly ± m × 2^e. -/
inductive FVal where
  | nan (signalling : Bool)
  | inf (neg : Bool)
  | fin (neg : Bool) (m : Nat) (e : Int)
  deriving DecidableEq, Repr

/-- The accrued flags, in the order of mode register bits [12:8]: bit 0 NV, 1 DZ, 2 OF, 3 UF, 4 NX (Table 7.2). -/
abbrev FFlags := BitVec 5

def flagNV : FFlags := 1#5
def flagDZ : FFlags := 2#5
def flagOF : FFlags := 4#5
def flagUF : FFlags := 8#5
def flagNX : FFlags := 16#5

/-- The value of an encoding (02 R26, R28). -/
def Fmt.unpack (F : Fmt) (x : Nat) : FVal :=
  let neg := (x >>> (F.ebits + F.mbits)) % 2 == 1
  let ex := (x >>> F.mbits) % 2 ^ F.ebits
  let fr := x % 2 ^ F.mbits
  let top := ex == 2 ^ F.ebits - 1
  let isSpecial := match F.kind with
    | .ieee | .ieeeQuiet => top
    | .nanOnly => top && fr == 2 ^ F.mbits - 1
    | .finite => false
  if isSpecial then
    if F.kind == .nanOnly then .nan false
    else if fr == 0 then .inf neg
    else .nan (F.kind == .ieee && fr < 2 ^ (F.mbits - 1))
  else if ex == 0 then .fin neg fr F.qmin
  else .fin neg (2 ^ F.mbits + fr) ((ex : Int) - F.bias - F.mbits)

/-- A rounding direction (Table 2.4). -/
inductive Rnd where
  | rne | rz | ru | rd | rna
  deriving DecidableEq, Repr

/-- The direction of a rounding code, DYN taking the mode register's RM (02 R29); codes 0b101 and 0b111 do not
reach it and read as RNE. -/
def rndOf (code : BitVec 3) (rm : BitVec 3) : Rnd :=
  let c := if code == 6#3 then rm else code
  if c == 1#3 then .rz else if c == 2#3 then .ru else if c == 3#3 then .rd else if c == 4#3 then .rna else .rne

/-- The magnitude m × 2^e (plus a positive excess below one unit of it when `sticky`) rounded to a multiple of 2^q:
the multiple, and whether it is inexact. -/
def roundMag (rm : Rnd) (neg : Bool) (m : Nat) (e : Int) (sticky : Bool) (q : Int) : Nat × Bool :=
  if q ≤ e then (m * 2 ^ (e - q).toNat, sticky)
  else
    let sh := (q - e).toNat
    let keep := m >>> sh
    let r := m % 2 ^ sh
    let half := 2 ^ (sh - 1)
    let inexact := r != 0 || sticky
    let up := match rm with
      | .rne => half < r || (r == half && (sticky || keep % 2 == 1))
      | .rna => half ≤ r
      | .rz => false
      | .ru => inexact && !neg
      | .rd => inexact && neg
    (if up then keep + 1 else keep, inexact)

/-- Whether k × 2^q lies beyond the greatest finite magnitude. -/
def Fmt.beyond (F : Fmt) (k : Nat) (q : Int) : Bool :=
  let (mm, me) := F.maxFin
  if me ≤ q then mm < k * 2 ^ (q - me).toNat else mm * 2 ^ (me - q).toNat < k

/-- What an overflow gives (02 R30), with its flags. -/
def Fmt.overflow (F : Fmt) (rm : Rnd) (sat neg : Bool) : Nat × FFlags :=
  let mag := match F.kind with
    | .finite => F.maxBits
    | .nanOnly => if sat then F.maxBits else F.canonNaN
    | .ieee | .ieeeQuiet =>
      let toInf := match rm with
        | .rne | .rna => true
        | .rz => false
        | .ru => !neg
        | .rd => neg
      if toInf && !sat then F.infBits else F.maxBits
  (if F.kind == .nanOnly && !sat then F.canonNaN else F.signed neg mag, flagOF ||| flagNX)

/-- Whether a non-zero exact magnitude is tiny after rounding: rounded with an unbounded exponent it lies below the
least normal (02 R33). -/
def Fmt.tiny (F : Fmt) (rm : Rnd) (neg : Bool) (m : Nat) (e : Int) (sticky : Bool) : Bool :=
  let q' := e + bitLen m - (F.mbits + 1 : Nat)
  if F.qmin ≤ q' then false
  else
    let (k, _) := roundMag rm neg m e sticky q'
    decide ((bitLen k : Int) + q' < F.qmin + (F.mbits + 1 : Nat))

/-- An exact non-zero magnitude rounded once into the format, with overflow, saturation and flags (02 R29, R30, R33). -/
def Fmt.round (F : Fmt) (rm : Rnd) (sat neg : Bool) (m : Nat) (e : Int) (sticky : Bool) : Nat × FFlags :=
  if m == 0 then (F.signed neg 0, 0#5)
  else
    let q := max (e + bitLen m - (F.mbits + 1 : Nat)) F.qmin
    let (k, inexact) := roundMag rm neg m e sticky q
    if F.beyond k q then F.overflow rm sat neg
    else
      let bits := F.signed neg ((q - F.qmin).toNat * 2 ^ F.mbits + k)
      let fl := if inexact then (if F.tiny rm neg m e sticky then flagUF ||| flagNX else flagNX) else 0#5
      (bits, fl)

/-- Whether an encoding is a subnormal. -/
def Fmt.isSub (F : Fmt) (x : Nat) : Bool :=
  let mag := x % 2 ^ (F.ebits + F.mbits)
  mag != 0 && mag < 2 ^ F.mbits

/-- Whether an encoding is a zero. -/
def Fmt.isZero (F : Fmt) (x : Nat) : Bool := x % 2 ^ (F.ebits + F.mbits) == 0

/-- The sign bit of an encoding. -/
def Fmt.negBit (F : Fmt) (x : Nat) : Bool := (x >>> (F.ebits + F.mbits)) % 2 == 1

/-- A subnormal input replaced by a zero of its sign when flushing (02 R32). -/
def Fmt.flushIn (F : Fmt) (ftz : Bool) (x : Nat) : Nat :=
  if ftz && F.flushable && F.isSub x then F.signed (F.negBit x) 0 else x

/-- A subnormal result replaced by a zero of its sign, raising UF and NX, when flushing (02 R32). -/
def Fmt.flushOut (F : Fmt) (ftz : Bool) (r : Nat × FFlags) : Nat × FFlags :=
  if ftz && F.flushable && F.isSub r.1 then (F.signed (F.negBit r.1) 0, flagUF ||| flagNX) else r

/-- The environment of an arithmetic instruction: direction, flush control and saturate, as read at issue (07 R157). -/
structure FEnv where
  rm : Rnd
  ftz : Bool
  sat : Bool
  deriving DecidableEq, Repr

/-- Whether a value is a NaN. -/
def FVal.isNaN : FVal → Bool
  | .nan _ => true
  | _ => false

/-- Whether a value is a signalling NaN. -/
def FVal.isSNaN : FVal → Bool
  | .nan s => s
  | _ => false

/-- The negation of a value. -/
def FVal.negate : FVal → FVal
  | .nan s => .nan s
  | .inf n => .inf (!n)
  | .fin n m e => .fin (!n) m e

/-- The exact product of two values, and the invalid flag it raises (02 R34). -/
def FVal.mul : FVal → FVal → FVal × FFlags
  | .nan a, .nan b => (.nan false, if a || b then flagNV else 0)
  | .nan a, _ => (.nan false, if a then flagNV else 0)
  | _, .nan b => (.nan false, if b then flagNV else 0)
  | .inf a, .inf b => (.inf (a != b), 0)
  | .inf a, .fin b m _ => if m == 0 then (.nan false, flagNV) else (.inf (a != b), 0)
  | .fin a m _, .inf b => if m == 0 then (.nan false, flagNV) else (.inf (a != b), 0)
  | .fin a m e, .fin b m' e' => (.fin (a != b) (m * m') (e + e'), 0)

/-- The integer of a finite value in units of 2^q, for a q no greater than its exponent. -/
def FVal.scaled (q : Int) : FVal → Int
  | .fin n m e => let v : Int := (m * 2 ^ (e - q).toNat : Nat); if n then -v else v
  | _ => 0

/-- The exponent of a finite value; 0 for others. -/
def FVal.expo : FVal → Int
  | .fin _ _ e => e
  | _ => 0

/-- The exact sum of terms: NaN, an infinity, or a finite value whose zero has the sign R34 gives. -/
def sumTerms (rm : Rnd) (ts : List FVal) : FVal × FFlags :=
  let pos := ts.any (· == .inf false)
  let neg := ts.any (· == .inf true)
  let nv := if ts.any FVal.isSNaN || (pos && neg) then flagNV else 0#5
  if ts.any FVal.isNaN then (.nan false, nv)
  else
    if pos && neg then (.nan false, flagNV)
    else if pos then (.inf false, 0)
    else if neg then (.inf true, 0)
    else
      let q := ts.foldl (fun q t => min q t.expo) (match ts with | [] => 0 | t :: _ => t.expo)
      let s := ts.foldl (fun acc t => acc + t.scaled q) (0 : Int)
      if s == 0 then
        let allNeg := !ts.isEmpty && ts.all (fun t => match t with | .fin n m _ => n && m == 0 | _ => false)
        (.fin (allNeg || rm == .rd) 0 q, 0)
      else (.fin (s < 0) s.natAbs q, 0)

/-- A value rounded once into the format; a NaN is canonical, an infinite value stays infinite where the format has one
and is an overflow where it has none (02 R28, R30). -/
def Fmt.ofVal (F : Fmt) (env : FEnv) (v : FVal) : Nat × FFlags :=
  match v with
  | .nan s => (F.canonNaN, if s || F.kind == .finite then flagNV else 0#5)
  | .inf n =>
    match F.kind with
    | .ieee | .ieeeQuiet => (F.signed n F.infBits, 0#5)
    | .nanOnly | .finite => F.overflow env.rm env.sat n
  | .fin n m e => F.flushOut env.ftz (F.round env.rm env.sat n m e false)

/-- Terms summed exactly and rounded once (02 R34); `fl` are flags the terms raised themselves. -/
def Fmt.sumRound (F : Fmt) (env : FEnv) (ts : List FVal) (fl : FFlags) : Nat × FFlags :=
  let (v, f1) := sumTerms env.rm ts
  let (r, f2) := F.ofVal env v
  (r, fl ||| f1 ||| f2)

/-- An input read as a value, flushed first when the mode says so (02 R32). -/
def Fmt.read (F : Fmt) (ftz : Bool) (x : Nat) : FVal := F.unpack (F.flushIn ftz x)

def Fmt.add (F : Fmt) (env : FEnv) (a b : Nat) : Nat × FFlags :=
  F.sumRound env [F.read env.ftz a, F.read env.ftz b] 0

def Fmt.sub (F : Fmt) (env : FEnv) (a b : Nat) : Nat × FFlags :=
  F.sumRound env [F.read env.ftz a, (F.read env.ftz b).negate] 0

/-- FMUL: the exact product rounded once; a zero product has the XOR of the signs (07 R160). -/
def Fmt.mul (F : Fmt) (env : FEnv) (a b : Nat) : Nat × FFlags :=
  let (v, f1) := (F.read env.ftz a).mul (F.read env.ftz b)
  let (r, f2) := F.ofVal env v
  (r, f1 ||| f2)

/-- Σ a_i × b_i + c rounded once: FFMA, FDOT2 and the parts of the complex instructions (02 R34, Table 2.6). `F` is
the sources' format and `D` the destination's and the addend's. -/
def Fmt.dot (F D : Fmt) (env : FEnv) (ps : List (Nat × Nat × Bool)) (cs : List Nat) : Nat × FFlags :=
  let prods := ps.map (fun x =>
    let (v, fl) := (F.read env.ftz x.1).mul (F.read env.ftz x.2.1)
    (if x.2.2 then v.negate else v, fl))
  let fl := prods.foldl (fun acc x => acc ||| x.2) (0#5)
  D.sumRound env (prods.map (·.1) ++ cs.map (D.read env.ftz)) fl

def Fmt.fma (F : Fmt) (env : FEnv) (a b c : Nat) : Nat × FFlags := F.dot F env [(a, b, false)] [c]

/-- The greatest r with r × r ≤ n, built from bit `i` downward. -/
def isqrtFrom (n : Nat) : Nat → Nat → Nat
  | 0, r => r
  | i + 1, r =>
    let r' := r + 2 ^ i
    isqrtFrom n i (if r' * r' ≤ n then r' else r)

/-- The integer square root. -/
def isqrt (n : Nat) : Nat := isqrtFrom n (bitLen n / 2 + 1) 0

/-- FDIV, correctly rounded, with the special cases of 07 R171. -/
def Fmt.div (F : Fmt) (env : FEnv) (a b : Nat) : Nat × FFlags :=
  let x := F.read env.ftz a
  let y := F.read env.ftz b
  let nv := if x.isSNaN || y.isSNaN then flagNV else 0#5
  match x, y with
  | .nan _, _ => (F.canonNaN, nv)
  | _, .nan _ => (F.canonNaN, nv)
  | .inf _, .inf _ => (F.canonNaN, flagNV)
  | .inf s, .fin s' _ _ => (F.signed (s != s') F.infBits, 0#5)
  | .fin s _ _, .inf s' => (F.signed (s != s') 0, 0#5)
  | .fin s m e, .fin s' m' e' =>
    if m' == 0 then
      if m == 0 then (F.canonNaN, flagNV) else (F.signed (s != s') F.infBits, flagDZ)
    else if m == 0 then (F.signed (s != s') 0, 0#5)
    else
      let k := F.mbits + 4 + bitLen m'
      let n := m <<< k
      F.flushOut env.ftz (F.round env.rm env.sat (s != s') (n / m') (e - e' - k) (n % m' != 0))

/-- FSQRT, correctly rounded, with the special cases of 07 R171. -/
def Fmt.sqrt (F : Fmt) (env : FEnv) (a : Nat) : Nat × FFlags :=
  match F.read env.ftz a with
  | .nan s => (F.canonNaN, if s then flagNV else 0#5)
  | .inf s => if s then (F.canonNaN, flagNV) else (F.infBits, 0#5)
  | .fin s m e =>
    if m == 0 then (F.signed s 0, 0#5)
    else if s then (F.canonNaN, flagNV)
    else
      let k := 2 * (F.mbits + 4) + (e % 2).toNat
      let n := m <<< k
      let r := isqrt n
      F.flushOut env.ftz (F.round env.rm env.sat false r ((e - k) / 2) (r * r != n))

/-- `a` compared with `b` as finite or infinite numbers: negative, zero or positive difference. -/
def FVal.cmp : FVal → FVal → Int
  | .inf a, .inf b => if a == b then 0 else if a then -1 else 1
  | .inf a, _ => if a then -1 else 1
  | _, .inf b => if b then 1 else -1
  | .fin n m e, .fin n' m' e' =>
    let q := min e e'
    (FVal.fin n m e).scaled q - (FVal.fin n' m' e').scaled q
  | _, _ => 0

/-- Whether `a` orders below `b`, −0 below +0 (05 R127). -/
def Fmt.below (F : Fmt) (a b : Nat) : Bool :=
  let c := (F.unpack a).cmp (F.unpack b)
  if c == 0 then F.negBit a && !F.negBit b else c < 0

/-- The smaller or the larger of two encodings (05 R127, 07 R161), inputs flushed first. -/
def Fmt.minMax (F : Fmt) (isMax ftz : Bool) (a b : Nat) : Nat × FFlags :=
  let x := F.flushIn ftz a
  let y := F.flushIn ftz b
  let nv := if (F.unpack x).isSNaN || (F.unpack y).isSNaN then flagNV else 0#5
  if (F.unpack x).isNaN then
    (if (F.unpack y).isNaN then F.canonNaN else y, nv)
  else if (F.unpack y).isNaN then (x, nv)
  else if isMax then (if F.below x y then y else x, nv)
  else (if F.below y x then y else x, nv)

/-- FCMP's condition by variant: 0 eq, 1 ne, 2 lt, 3 le, 4 gt, 5 ge, 6 un, 7 ord (07 R162). -/
def Fmt.compare (F : Fmt) (variant : Nat) (ftz : Bool) (a b : Nat) : Bool × FFlags :=
  let x := F.read ftz a
  let y := F.read ftz b
  let un := x.isNaN || y.isNaN
  let c := x.cmp y
  let quiet := variant < 2 || 5 < variant
  let fl := if (if quiet then x.isSNaN || y.isSNaN else un) then flagNV else 0#5
  let r := match variant with
    | 0 => !un && c == 0
    | 1 => un || c != 0
    | 2 => !un && c < 0
    | 3 => !un && c ≤ 0
    | 4 => !un && 0 < c
    | 5 => !un && 0 ≤ c
    | 6 => un
    | _ => !un
  (r, fl)

/-- The class bit number of an encoding (07 R163). -/
def Fmt.classBit (F : Fmt) (x : Nat) : Nat :=
  match F.unpack x with
  | .nan s => if s then 8 else 9
  | .inf n => if n then 0 else 7
  | .fin n m _ =>
    if m == 0 then (if n then 3 else 4)
    else if F.isSub x then (if n then 2 else 5)
    else (if n then 1 else 6)

/-- FRND and FRND.x (07 R164). -/
def Fmt.frnd (F : Fmt) (flagX : Bool) (env : FEnv) (a : Nat) : Nat × FFlags :=
  let x := F.flushIn env.ftz a
  match F.unpack x with
  | .nan s => (F.canonNaN, if s then flagNV else 0#5)
  | .inf n => (F.signed n F.infBits, 0#5)
  | .fin n m e =>
    let r := if 0 ≤ e then x
      else
        let (k, _) := roundMag env.rm n m e false 0
        if k == 0 then F.signed n 0 else (F.round env.rm false n k 0 false).1
    (r, if flagX && r != a then flagNX else 0#5)

/-- A value scaled by 2^n and rounded once (07 R169). The shift is limited to a reach beyond every exponent of the
format, past which the result no longer depends on it. -/
def Fmt.scale (F : Fmt) (env : FEnv) (a : Nat) (n : Int) : Nat × FFlags :=
  match F.read env.ftz a with
  | .nan s => (F.canonNaN, if s then flagNV else 0#5)
  | .inf s => (F.signed s F.infBits, 0#5)
  | .fin s m e =>
    if m == 0 then (F.signed s 0, 0#5)
    else F.flushOut env.ftz (F.round env.rm env.sat s m (e + clampInt (-1024) 1024 n) false)

/-- One step of the stochastic-rounding state (02 R31). -/
def srStep (s : BitVec 32) : BitVec 32 :=
  let s := s ^^^ (s <<< 13)
  let s := s ^^^ (s >>> 17)
  s ^^^ (s <<< 5)

/-- A stored stochastic-rounding state: zero is stored as 1 (02 R31). -/
def srStore (s : BitVec 32) : BitVec 32 := if s == 0#32 then 1#32 else s

/-- A finite magnitude rounded by a draw: toward zero, or to the next value beyond when the draw falls below the
fraction (02 R31). An `hi` beyond max finite is the overflow directed away from zero (02 R30). Tininess after a rounding by
a draw is the model's choice (assumption 99): the delivered value is below the least normal. -/
def Fmt.roundSR (F : Fmt) (sat neg : Bool) (m : Nat) (e : Int) (s : BitVec 32) : Nat × FFlags :=
  if m == 0 then (F.signed neg 0, 0#5)
  else
    let q0 := max (e + bitLen m - (F.mbits + 1 : Nat)) F.qmin
    let far := F.beyond 1 (e + bitLen m - 1)
    let q := if far then F.maxFin.2 else q0
    let lo := if far || F.beyond (roundMag .rz neg m e false q0).1 q0 then F.maxFin.1 else (roundMag .rz neg m e false q).1
    let q := if F.beyond (roundMag .rz neg m e false q0).1 q0 then F.maxFin.2 else q
    let qq := min e q
    let x := m * 2 ^ (e - qq).toNat
    let unit := 2 ^ (q - qq).toNat
    let d := x - lo * unit
    if d == 0 then (F.signed neg ((q - F.qmin).toNat * 2 ^ F.mbits + lo), 0#5)
    else if s.toNat * unit < d * 2 ^ 32 then
      if F.beyond (lo + 1) q then F.overflow (if neg then .rd else .ru) sat neg
      else
        let bits := (q - F.qmin).toNat * 2 ^ F.mbits + lo + 1
        (F.signed neg bits, if bits < 2 ^ F.mbits then flagUF ||| flagNX else flagNX)
    else
      let bits := (q - F.qmin).toNat * 2 ^ F.mbits + lo
      (F.signed neg bits, if bits < 2 ^ F.mbits then flagUF ||| flagNX else flagNX)

/-- A value converted with a draw (02 R31, 07 R167): NaNs and infinities as in any conversion. -/
def Fmt.ofValSR (F : Fmt) (env : FEnv) (s : BitVec 32) (v : FVal) : Nat × FFlags :=
  match v with
  | .fin n m e => F.flushOut env.ftz (F.roundSR env.sat n m e s)
  | .inf n => match F.kind with
    | .ieee | .ieeeQuiet => (F.signed n F.infBits, 0#5)
    | .nanOnly | .finite => F.overflow .rne env.sat n
  | .nan sg => (F.canonNaN, if sg || F.kind == .finite then flagNV else 0#5)

/-- A value converted to an integer of width `w` (07 R167). -/
def floatToInt (env : FEnv) (signed : Bool) (w : Nat) (v : FVal) : Nat × FFlags :=
  match v with
  | .nan _ => (0, flagNV)
  | .inf n => (wrapTo w (if n then rangeLo signed w else rangeHi signed w), flagNV)
  | .fin n m e =>
    let (k, inexact) := roundMag env.rm n m e false 0
    let k := if 0 ≤ e then m * 2 ^ (min e 1024).toNat else k
    let x : Int := if n then -(k : Int) else k
    if x < rangeLo signed w then (wrapTo w (rangeLo signed w), flagNV)
    else if rangeHi signed w < x then (wrapTo w (rangeHi signed w), flagNV)
    else (wrapTo w x, if inexact && e < 0 then flagNX else 0#5)

/-- An exact integer as a value. -/
def intVal (x : Int) : FVal := .fin (x < 0) x.natAbs 0

/-- The floating immediate of an operand: its 18 bits are bits [31:14] of a binary32, converted RNE to the element
format without flags (07 R152). -/
def Fmt.immBits (F : Fmt) (i : BitVec 18) : Nat :=
  (F.ofVal ⟨.rne, false, false⟩ (fmtF32.unpack (i.toNat * 2 ^ 14))).1

end Sys2Proof
end

