-- ==== Sys2Proof/Machine/Kerrum.lean ====
section
/-! DEFINITION. Global memory by physical address: homes, levels, exact slots, and the logical times of accesses (12 R268-R288, 13 R298-R318). -/
namespace Sys2Proof.Machine

/-! ### Homes (12 R268) -/

/-- The package of a physical address, bits [55:46]. -/
def packageOf (pa : Nat) : Nat := pa / 2 ^ 46
/-- The local address in its package. -/
def localOf (pa : Nat) : Nat := pa % 2 ^ 46
/-- The home die of a physical address. -/
def homeDie (pa : Nat) : Nat := (natBits pa 12 12 + natBits pa 21 21 + natBits pa 30 30 + natBits pa 39 39) % 2
/-- The number of a line among those its die homes. -/
def dieLine (pa : Nat) : Nat := natBits pa 45 13 * 16 + natBits pa 11 8
/-- The home slice in its die. -/
def homeSlice (pa : Nat) : Nat := dieLine pa % 48
/-- The GDDR 7 channel of the home, in its die. -/
def homeChannel (pa : Nat) : Nat := dieLine pa % 48 % 24
/-- A die of the domain. -/
def dieId (pa : Nat) : Nat := packageOf pa * 2 + homeDie pa
/-- The slice that homes an address, across the domain. -/
def sliceId (pa : Nat) : Nat := dieId pa * 48 + homeSlice pa
/-- The 256-byte line of a physical address (12 R270). -/
def lineOf (pa : Nat) : Nat := pa / 256
/-- Inside some package's memory and this load-store domain (12 R269, 13 R316). -/
def State.inMemory (s : State) (pa : Nat) : Bool :=
  localOf pa < 0x3000000000 && s.links.domain.contains (packageOf pa)
/-- Inside the coherence domain, so that a core may keep a copy (13 R316, R317). -/
def State.coherent (s : State) (pa : Nat) : Bool := s.links.coherence.contains (packageOf pa)

/-- Whether the home of a physical address lies within a scope (13 R307). -/
def State.inScope (s : State) (die scope pa : Nat) : Bool :=
  match scope with
  | 0 => packageOf pa == s.links.package && homeDie pa == die
  | 1 => packageOf pa == s.links.package
  | _ => true

/-! ### Exact slots (02 R37, 12 R280-R284) -/

/-- The format of a slot. -/
def Slot.format (x : Slot) : Fmt := if x.fmt = 0 then fmtF32 else if x.fmt = 1 then fmtF16 else fmtBF16
/-- The bytes of its element. -/
def Slot.size (x : Slot) : Nat := if x.fmt = 0 then 4 else 2
/-- The encoding that the tailrace writes (02 R37). -/
def Slot.result (x : Slot) : Nat :=
  let F := x.format
  if x.nan || (x.pinf && x.ninf) then F.canonNaN
  else if x.pinf then F.infBits
  else if x.ninf then F.signed true F.infBits
  else if x.a = 0 then 0
  else (F.ofVal ⟨.rne, false, false⟩ (.fin (x.a < 0) x.a.natAbs (-149))).1
/-- One value added exactly (02 R37). -/
def Slot.add (x : Slot) (bits : Nat) : Slot :=
  match x.format.unpack bits with
  | .fin neg m e => { x with a := x.a + (if neg then -1 else 1) * (m * 2 ^ (e + 149).toNat : Nat) }
  | .inf neg => if neg then { x with ninf := true } else { x with pinf := true }
  | .nan _ => { x with nan := true }
/-- The slot that covers a byte, with its element's address. -/
def State.slotAt (s : State) (pa : Nat) : Option (Nat × Slot) :=
  [0, 1, 2, 3].findSome? fun d =>
    if d ≤ pa then match AMap.get s.slots (pa - d) with
      | some x => if d < x.size then some (pa - d, x) else none
      | none => none
    else none

/-! ### Values -/

/-- The scratchpad byte that serves a physical address of a registered granule (08 R188). -/
def State.mappedAt (s : State) (pa : Nat) : Option (Nat × Nat) :=
  (AMap.get s.ranges (pa / 4096)).map fun (al, off) => (al, off + pa % 4096)
/-- The stored byte of a physical address, at its home. -/
def State.rawByte (s : State) (pa : Nat) : Byte :=
  match s.mappedAt pa with
  | some (al, off) =>
    match AMap.get s.allots al with
    | some a => Memory.read a.mem off
    | none => Memory.read s.mem pa
  | none => Memory.read s.mem pa
/-- The byte a read returns: that of the tailrace while a slot is open (12 R282). -/
def State.peekByte (s : State) (pa : Nat) : Byte :=
  match s.slotAt pa with
  | some (k, x) => BitVec.ofNat 8 (x.result >>> (8 * (pa - k)))
  | none => s.rawByte pa
/-- `n` bytes as a read at the home returns them. -/
def State.peek (s : State) (pa n : Nat) : List Byte := (List.range n).map fun i => s.peekByte (pa + i)

/-- The dirty sectors of a mapping after a write of `n` bytes at `off` (08 R189). -/
def MapEntry.touch (e : MapEntry) (off n : Nat) : MapEntry :=
  let sectors := (List.range n).map fun i => (off + i) / 128
  let add (ds : List Nat) (x : Nat) : List Nat :=
    if e.off ≤ x * 128 && x * 128 < e.off + e.g * 4096 && !ds.contains x then ds ++ [x] else ds
  { e with dirty := sectors.foldl add e.dirty }

/-- Bytes of an allotment written; the sectors of a mapping that they touch become dirty. -/
def Allot.poke (a : Allot) (off : Nat) (bs : List Byte) : Allot :=
  { a with mem := Memory.writeN a.mem off bs, maps := a.maps.map fun (k, e) => (k, e.touch off bs.length) }

/-- Whether every line of a byte range is present (08 R181). -/
def Allot.present (a : Allot) (off n : Nat) : Bool :=
  (List.range (ceilDiv (off % 128 + n) 128)).all fun i => (AMap.get a.lines (off / 128 + i)).isNone

/-- A global access waits while its home package is unreachable (19 R433), and at an absent mapped line (08 R182). -/
def State.absentAt (s : State) (pa n : Nat) : Bool :=
  s.links.unreachable.contains (packageOf pa) || match s.mappedAt pa with
  | some (al, off) => match AMap.get s.allots al with
    | some a => !a.present off n
    | none => false
  | none => false

/-! ### Lines, sets and times (12 R270-R274, 13 R301, R305) -/

/-- The region of its die's memory that an address lies in, 1 MiB each: 98,304 of them in a die (13 Table 13.1). -/
def regionOf (pa : Nat) : Nat := dieId pa * 131072 + dieLine pa / 4096

/-- The sets of the levels: which one a line goes to is the model's choice (assumption 107), by the low bits of its number. -/
def coreSet (line : Nat) : Nat := line % 64
def l2Set (line : Nat) : Nat := sliceId (line * 256) * 512 + dieLine (line * 256) / 48 % 512
def mscSet (line : Nat) : Nat := dieId (line * 256) * 524288 + dieLine (line * 256) % 524288

/-- A sector that a level does not hold, and one it has filled. -/
def Sector.none_ : Sector := ⟨false, false, false⟩
def Sector.fill (x : Sector) : Sector := { x with valid := true }
/-- A sector whose bytes are written back. -/
def Sector.clean (x : Sector) : Sector := { x with dirty := false, ahead := false }

/-- The sector of an address in a line. -/
def L2Line.half (l : L2Line) (pa : Nat) : Sector := if pa % 256 ≥ 128 then l.hi else l.lo
def L2Line.modHalf (l : L2Line) (pa : Nat) (f : Sector → Sector) : L2Line :=
  if pa % 256 ≥ 128 then { l with hi := f l.hi } else { l with lo := f l.lo }
def MscLine.half (l : MscLine) (pa : Nat) : Sector := if pa % 256 ≥ 128 then l.hi else l.lo
def MscLine.modHalf (l : MscLine) (pa : Nat) (f : Sector → Sector) : MscLine :=
  if pa % 256 ≥ 128 then { l with hi := f l.hi } else { l with lo := f l.lo }

/-- The upper bound of the times that a region's lines have left L2 with (13 R301). -/
def State.summaryAt (s : State) (pa : Nat) : Nat := AMap.getD s.summary (regionOf pa) 0

/-- wts and rts of the line of an address; a line that is absent would be filled with its region's summary (13 R305). -/
def State.lineTimes (s : State) (pa : Nat) : Nat × Nat :=
  match s.mappedAt pa with
  | some (al, off) =>
    match AMap.get s.allots al with
    | some a => AMap.getD a.spTimes (off / 256) (0, 0)
    | none => (0, 0)
  | none =>
    match AMap.get s.l2 (lineOf pa) with
    | some l => (l.wts, l.rts)
    | none => (s.summaryAt pa, s.summaryAt pa)

/-- A line as it stands in L2, or as L2 takes it in (13 R305). -/
def State.filled (s : State) (pa : Nat) : L2Line :=
  (AMap.get s.l2 (lineOf pa)).getD ⟨s.summaryAt pa, s.summaryAt pa, Sector.none_, Sector.none_, false, false, false, 0⟩

/-- The byte that stands behind L2. -/
def State.behindL2 (s : State) (pa : Nat) : Byte := AMap.getD s.l2Behind pa 0

/-- Drop the bytes kept behind a sector. -/
def dropBehind (m : AMap Byte) (base : Nat) : AMap Byte :=
  (List.range 128).foldl (fun m i => AMap.erase m (base + i)) m

/-- Bytes of a sector put back to what stood behind them. -/
def restoreBehind (m behind : AMap Byte) (base : Nat) : Memory :=
  (List.range 128).foldl (fun m j => Memory.write m (base + j) (AMap.getD behind (base + j) 0)) m

/-- One sector leaves the MSC: where dirty it goes to the GDDR 7 (12 R271). One that was ahead of it is lost with it (12 R288). -/
def State.dropMscSector (s : State) (base : Nat) (x : Sector) : State :=
  { s with
    mem := if x.ahead && !x.dirty then restoreBehind s.mem s.mscBehind base else s.mem
    mscBehind := dropBehind s.mscBehind base }

/-- The MSC evicts a line: dirty sectors to the GDDR 7 (12 R271). -/
def State.evictMsc (s : State) (line : Nat) : State :=
  match AMap.get s.msc line with
  | none => s
  | some m =>
    let s := (s.dropMscSector (line * 256) m.lo).dropMscSector (line * 256 + 128) m.hi
    { s with msc := AMap.erase s.msc line }

/-- A victim among the lines of a set that is full: the preferred ones first, and of those any. -/
def State.victim (s : State) (ways : Nat) (set : List Nat) (prefer : List Nat) : Option Nat × State :=
  if set.length < ways then (none, s) else s.chooseFrom (if prefer.isEmpty then set else prefer)

/-- A sector allocated in the MSC, after another line of its set has left where the set is full. -/
def State.fillMsc (s : State) (pa : Nat) (f : Sector → Sector) : State :=
  let line := lineOf pa
  let s := if (AMap.get s.msc line).isSome then s
    else match s.victim 16 ((s.msc.filter fun (l, _) => mscSet l == mscSet line).map (·.1)) [] with
      | (some v, s) => s.evictMsc v
      | (none, s) => s
  { s with msc := AMap.upd s.msc line ⟨Sector.none_, Sector.none_⟩ fun m => m.modHalf pa f }

/-- One sector of a line that leaves L2. A dirty one is written back: to the MSC, or past it, where what the MSC held of it is
replaced (12 R271, R273). One ahead of the levels behind is lost with it (12 R288). -/
def State.dropL2Sector (s : State) (base : Nat) (x : Sector) (bypass : Bool) : State :=
  if !x.dirty then
    if x.ahead then { s with mem := restoreBehind s.mem s.l2Behind base, l2Behind := dropBehind s.l2Behind base } else s
  else if bypass then
    let msc := match AMap.get s.msc (lineOf base) with
      | some m => AMap.set s.msc (lineOf base) (m.modHalf base fun _ => Sector.none_)
      | none => s.msc
    { s with msc := msc, mscBehind := dropBehind s.mscBehind base, l2Behind := dropBehind s.l2Behind base }
  else
    let s := s.fillMsc base Sector.fill
    let was := ((AMap.get s.msc (lineOf base)).map fun m => (m.half base).dirty || (m.half base).ahead).getD false
    -- what stood behind L2 stands behind the MSC from now on, unless an older value already does
    let mb := if was then s.mscBehind else
      (List.range 128).foldl (fun mb i =>
        let b := s.behindL2 (base + i)
        if b = 0 then AMap.erase mb (base + i) else AMap.set mb (base + i) b) s.mscBehind
    let s := { s with mscBehind := mb, l2Behind := dropBehind s.l2Behind base }
    s.fillMsc base fun _ => ⟨true, true, false⟩

/-- L2 evicts a line: dirty sectors written back, and the region's summary raised (12 R271, 13 R305). -/
def State.evictL2 (s : State) (line : Nat) : State :=
  match AMap.get s.l2 line with
  | none => s
  | some l =>
    let s := (s.dropL2Sector (line * 256) l.lo l.nomsc).dropL2Sector (line * 256 + 128) l.hi l.nomsc
    let r := regionOf (line * 256)
    { s with l2 := AMap.erase s.l2 line, summary := AMap.set s.summary r (max (AMap.getD s.summary r 0) l.rts) }

/-- Room for a line in its L2 set of 16: the line that STREAM made the next victim leaves, or any that is not persistent (12 R273,
R274; which of those is not laid down). -/
def State.roomInL2 (s : State) (line : Nat) : State :=
  let set := s.l2.filter fun (l, _) => l2Set l == l2Set line
  let last := (set.filter fun (_, x) => x.next).foldl (fun (b : Option (Nat × L2Line)) x => match b with
    | none => some x
    | some y => if y.2.used < x.2.used then some x else some y) none
  let prefer := match last with
    | some x => [x.1]
    | none => (set.filter fun (_, x) => !x.persistent).map (·.1)
  match s.victim 16 (set.map (·.1)) prefer with
  | (some v, s) => s.evictL2 v
  | (none, s) => s

/-- The persistent line of a set that was used longest ago becomes an ordinary one, where the set has its 12 (12 R274). -/
def State.demote (s : State) (line : Nat) : State :=
  let kept := s.l2.filter fun (l, x) => l2Set l == l2Set line && x.persistent
  let oldest := kept.foldl (fun (b : Option (Nat × L2Line)) x => match b with
    | none => some x
    | some y => if x.2.used < y.2.used then some x else some y) none
  match oldest with
  | some (l, x) => if kept.length < 12 then s else { s with l2 := AMap.set s.l2 l { x with persistent := false } }
  | none => s

/-- The marks that an access leaves on its line by its hint (12 R273, R274). -/
def L2Line.hinted (l : L2Line) (hint now : Nat) : L2Line :=
  let l := { l with persistent := l.persistent || hint == 2, nomsc := l.nomsc || hint == 4 }
  let next := hint == 1 && !l.persistent
  { l with next := next, used := if next || l.persistent then now else l.used }

/-- The sector of an address brought into L2, with its line, and into the MSC behind it unless the hint says otherwise (12 R271,
R273, R274). A sector that L2 holds goes no further. -/
def State.fillLine (s : State) (pa : Nat) (hint : Nat) : State :=
  match s.mappedAt pa with
  | some _ => s
  | none =>
    let line := lineOf pa
    let s := if (AMap.get s.l2 line).isSome then s else s.roomInL2 line
    let l := s.filled pa
    let s := if (l.half pa).valid || hint == 1 || hint == 4 then s else s.fillMsc pa Sector.fill
    let s := if hint == 2 && !l.persistent then s.demote line else s
    let marked := hint == 1 || hint == 2 || l.persistent
    let l := ((s.filled pa).modHalf pa Sector.fill).hinted hint s.stamp
    { s with l2 := AMap.set s.l2 line l, stamp := if marked then s.stamp + 1 else s.stamp }

/-- The times of a line set at its home. -/
def State.setTimes (s : State) (pa wts rts : Nat) : State :=
  match s.mappedAt pa with
  | some (al, off) => s.modAllot al fun a => { a with spTimes := AMap.set a.spTimes (off / 256) (wts, rts) }
  | none => { s with l2 := AMap.set s.l2 (lineOf pa) { s.filled pa with wts := wts, rts := rts } }

/-- A time past the width of a timestamp is a fatal error (13 R306): the event follows. -/
def State.checkTime (s : State) (t : Nat) : State :=
  if t < 2 ^ 64 then s else { s with agenda := .event .timestampOverflow {} :: s.agenda }

/-- Older bytes kept behind a sector that becomes dirty (12 R271, R288). -/
def behind (m : AMap Byte) (s : State) (base : Nat) : AMap Byte :=
  (List.range 128).foldl (fun m i =>
    let b := s.rawByte (base + i)
    if b = 0 then AMap.erase m (base + i) else AMap.set m (base + i) b) m

/-- The sector of an address made dirty in L2, before it is written. Behind one ahead of the levels behind stands what stood there. -/
def State.dirtySector (s : State) (pa : Nat) : State :=
  match s.mappedAt pa with
  | some _ => s
  | none =>
    let l := s.filled pa
    if (l.half pa).dirty then s
    else
      { s with
        l2Behind := if (l.half pa).ahead then s.l2Behind else behind s.l2Behind s (pa / 128 * 128)
        l2 := AMap.set s.l2 (lineOf pa) (l.modHalf pa fun _ => ⟨true, true, false⟩) }

/-- The bytes of a sector at its home, as a read returns them. -/
def State.sector (s : State) (pa : Nat) : List Byte := s.peek (pa / 128 * 128) 128

/-- While launches run, what a read of a sector returned before a write stays open to code fetch (03 R54). -/
def State.noteCode (s : State) (pa : Nat) : State :=
  if s.launches.isEmpty then s else { s with codeOld := (pa / 128, s.uid, s.sector pa) :: s.codeOld }

/-- Bytes written at their home, within one sector. -/
def State.pokeBytes (s : State) (pa : Nat) (bs : List Byte) : State :=
  let s := s.noteCode pa
  match s.mappedAt pa with
  | some (al, off) => s.modAllot al fun a => a.poke off bs
  | none =>
    let s := s.dirtySector pa
    { s with mem := Memory.writeN s.mem pa bs }

/-- The lease length (13 R302). -/
def lease : Nat := 16

/-- A store at its home at program timestamp `p`, slots aside: the state and the store's time (13 R302). -/
def State.rawStore (s : State) (p pa : Nat) (bs : List Byte) : State × Nat :=
  let (_, rts) := s.lineTimes pa
  let t := max p (rts + 1)
  (((s.setTimes pa t t).pokeBytes pa bs).checkTime t, t)

/-- The keys of the slots that overlap a range. -/
def State.slotsOver (s : State) (pa n : Nat) : List Nat :=
  (s.slots.filter fun (k, x) => k < pa + n && pa < k + x.size).map (·.1)

/-- Slots a slice holds itself, and records its die has spilled (12 R280, R284). -/
def State.residentSlots (s : State) (pa : Nat) : AMap Slot :=
  s.slots.filter fun (k, x) => sliceId k == sliceId pa && !x.spilled
def State.spilledSlots (s : State) (pa : Nat) : Nat :=
  (s.slots.filter fun (k, x) => dieId k == dieId pa && x.spilled).length

/-- Room for one more slot in a slice: the one whose last contribution is oldest is spilled where all 512 are open; none
where the spill region, less the record that a returning slot leaves, is full (12 R284, R285). -/
def State.roomForSlot (s : State) (pa : Nat) (returning : Bool) : Option State :=
  let here := s.residentSlots pa
  if here.length < 512 then some s
  else if 1048576 ≤ s.spilledSlots pa - (if returning then 1 else 0) then none
  else
    let oldest := here.foldl (fun (best : Option (Nat × Slot)) x => match best with
      | none => some x
      | some b => if x.2.last < b.2.last then some x else some b) none
    some (match oldest with
      | some (k, x) => { s with slots := AMap.set s.slots k { x with spilled := true } }
      | none => s)

/-- A spilled slot comes back from its record (12 R284). -/
def State.recall (s : State) (key : Nat) : State :=
  match AMap.get s.slots key with
  | some x =>
    if !x.spilled then s
    else match s.roomForSlot key true with
      | some s => { s with slots := AMap.set s.slots key { x with spilled := false } }
      | none => s
  | none => s

/-- The spilled slots that a read names come back (12 R284). -/
def State.recallOver (s : State) (pa n : Nat) : State := (s.slotsOver pa n).foldl State.recall s

/-- The tailrace of a slot, spilled or not: it comes back to its slice, its result is written as one write, and the slot is closed
(12 R283, R284). A flush brings its own hint; one that falls before another access leaves the line's marks as they are (12 R273). -/
def State.tailrace (s : State) (p key : Nat) (hint : Option Nat) : State × Nat :=
  match AMap.get s.slots key with
  | some x =>
    let s := s.recall key
    let s := match hint with
      | some h => s.fillLine key h
      | none => if ((s.filled key).half key).valid then s else s.fillLine key 0
    let (s, t) := s.rawStore p key (bytesOf x.size x.result)
    ({ s with slots := AMap.erase s.slots key }, t)
  | none => (s, p)

/-- The tailraces that fall before an overlapping write (12 R283). -/
def State.closeOver (s : State) (p pa n : Nat) : State :=
  (s.slotsOver pa n).foldl (fun s k => (s.tailrace p k none).1) s

/-- A store at its home. -/
def State.homeStore (s : State) (p pa : Nat) (bs : List Byte) : State × Nat :=
  (s.closeOver p pa bs.length).rawStore p pa bs

/-- A load at its home at program timestamp `p` (13 R302): the state, the bytes and the load's time. -/
def State.homeLoad (s : State) (p pa n : Nat) (cached : Bool) : State × List Byte × Nat :=
  let s := s.recallOver pa n
  let (wts, rts) := s.lineTimes pa
  let t := max p wts
  ((s.setTimes pa wts (max rts (if cached then t + lease else t))).checkTime t, s.peek pa n, t)

/-- A bank ALU operation at its home: one read and one write with nothing between (12 R278, 13 R313). -/
def State.homeAtomic (s : State) (p pa n : Nat) (f : Nat → Nat) : State × Nat × Nat :=
  let s := s.closeOver p pa n
  let old := ofBytes (s.peek pa n)
  let (s, t) := s.rawStore p pa (bytesOf n (f old))
  (s, old, t)

/-! ### Copies in core caches (12 R270, R271, 13 R302) -/

/-- The part of a copy that holds an address's sector. -/
def Copy.half (c : Copy) (pa : Nat) : Option (List Byte) := if pa % 256 ≥ 128 then c.hi else c.lo

/-- A copy as granted by the home, holding this sector, and the other where the copy is of the same version. -/
def grantedCopy (old : Option Copy) (wts rts pa : Nat) (bs : List Byte) : Copy :=
  let keep : Copy := match old with
    | some c => if c.wts = wts then c else ⟨wts, rts, none, none⟩
    | none => ⟨wts, rts, none, none⟩
  if pa % 256 ≥ 128 then { keep with wts := wts, rts := rts, hi := some bs }
  else { keep with wts := wts, rts := rts, lo := some bs }

/-- Room for a line in its core-cache set of 8; which copy leaves a full set is not laid down. -/
def State.roomInCore (s : State) (core line : Nat) : State :=
  let set := (s.core core).copies.filter fun (l, _) => coreSet l == coreSet line
  if (AMap.get set line).isSome then s
  else match s.victim 8 (set.map (·.1)) [] with
    | (some v, s) => s.modCore core fun c => { c with copies := AMap.erase c.copies v }
    | (none, s) => s

/-- The copy of a sector that a load leaves in its core's cache. -/
def State.leaveCopy (s : State) (core pa : Nat) : State :=
  let s := s.roomInCore core (lineOf pa)
  let (wts, rts) := s.lineTimes pa
  let c := grantedCopy (AMap.get (s.core core).copies (lineOf pa)) wts rts pa (s.sector pa)
  s.modCore core fun k => { k with copies := AMap.set k.copies (lineOf pa) c }

/-- A load is given a cached lease unless it is NOCORE or its home lies beyond the coherence domain (13 R302, R317). -/
def State.leased (s : State) (pa hint : Nat) : Bool := hint != 3 && s.coherent pa

/-- A load by a lane: from a copy whose lease permits, or from the home, which may leave a copy (13 R302). No core holds a copy of
a line of a registered granule (12 R271). -/
def State.laneLoad (s : State) (core p pa n hint : Nat) : State × List Byte × Nat :=
  let mapped := (s.mappedAt pa).isSome
  let fromHome (s : State) : State × List Byte × Nat :=
    let (s, bs, t) := (s.fillLine pa hint).homeLoad p pa n (s.leased pa hint)
    (if s.leased pa hint && !mapped && hint != 1 then s.leaveCopy core pa else s, bs, t)
  match AMap.get (s.core core).copies (lineOf pa) with
  | some c =>
    let t := max p c.wts
    match c.half pa with
    | some bs =>
      if hint != 3 && !mapped && t ≤ c.rts && c.rts ≤ t + lease then (s, (bs.drop (pa % 128)).take n, t)
      else fromHome s
    | none => fromHome s
  | none => fromHome s

/-- The copy a core holds after its own store (12 R271, 13 R302): the sectors it has, as the home now has them, at the store's time.
Where the copy was of an older version, that brings its other bytes up to date too: beside the store's time they would show
what an earlier write has replaced, against R298 (DEDUCED, assumption 10). -/
def State.updateCopy (s : State) (core pa t : Nat) : State :=
  match AMap.get (s.core core).copies (lineOf pa) with
  | none => s
  | some c =>
    let base := pa / 256 * 256
    let c := { c with wts := t, rts := t, lo := c.lo.map fun _ => s.sector base, hi := c.hi.map fun _ => s.sector (base + 128) }
    s.modCore core fun k => { k with copies := AMap.set k.copies (lineOf pa) c }

/-- A store by a lane (12 R271): placed at the home, and the copy of the issuing core brought up to date. -/
def State.laneStore (s : State) (core p pa hint : Nat) (bs : List Byte) : State × Nat :=
  let (s, t) := (s.fillLine pa hint).homeStore p pa bs
  (s.updateCopy core pa t, t)

/-- A bank ALU operation by a lane. -/
def State.laneAtomic (s : State) (core p pa hint n : Nat) (f : Nat → Nat) : State × Nat × Nat :=
  let (s, old, t) := (s.fillLine pa hint).homeAtomic p pa n f
  (s.updateCopy core pa t, old, t)

/-! ### Accesses of engines (13 R307-R310) -/

/-- Times of writes by the scope their homes lie in. -/
def ScopeTimes.zero : ScopeTimes := ⟨0, 0, 0⟩
/-- A write at time `t` counted in. -/
def State.addTime (s : State) (ts : ScopeTimes) (die pa t : Nat) : ScopeTimes where
  team := if s.inScope die 0 pa then max ts.team t else ts.team
  package := if s.inScope die 1 pa then max ts.package t else ts.package
  domain := max ts.domain t
/-- The times a scope covers. -/
def ScopeTimes.at_ (ts : ScopeTimes) (scope : Nat) : Nat :=
  match scope with
  | 0 => ts.team
  | 1 => ts.package
  | _ => ts.domain
/-- The greater times. -/
def ScopeTimes.max_ (a b : ScopeTimes) : ScopeTimes :=
  ⟨max a.team b.team, max a.package b.package, max a.domain b.domain⟩

/-- The quadword of a physical address at its home. -/
def State.quad (s : State) (pa : Nat) : Word := BitVec.ofNat 64 (ofBytes (s.peek (pa / 8 * 8) 8))

/-- Every write that the home has of some bytes has taken its place: a read has shown it (13 R308). -/
def State.seen (s : State) (pa n : Nat) : State :=
  let shown (x : Flight) : Bool := x.quad * 8 < pa + n && pa < x.quad * 8 + 8
  if s.warps.any fun (_, w) => w.flight.any shown then
    { s with warps := s.warps.map fun (k, w) => (k, { w with flight := w.flight.filter fun x => !shown x }) }
  else s

/-- An engine reads part of an aligned quadword: where lane stores were in flight at its command's issue, a free choice
says which of them it follows (13 R308). From a package that has been removed nothing comes (19 R433). -/
def State.engineRead (s : State) (p pa n : Nat) (old : List (Nat × Word)) (hint : Nat) : State × Nat × Nat :=
  if s.links.removed.contains (packageOf pa) then (s, 0, p) else
  let (s, _, t) := (s.fillLine pa hint).homeLoad p pa n (s.leased pa hint)
  let now := s.quad pa
  let before := (old.filter (fun (q, _) => q == pa / 8)).map (·.2)
  let (k, s) := if before.isEmpty then (0, s) else s.choose (before.length + 1)
  let (s, x) := if k = 0 then (s.seen pa n, now) else (s, (before[k - 1]?).getD now)
  (s, (x.toNat >>> (8 * (pa % 8))) % 2 ^ (8 * n), t)

/-- An engine writes bytes within an aligned quadword; to a package that has been removed, nothing (19 R433). -/
def State.engineWrite (s : State) (p pa : Nat) (bs : List Byte) (hint : Nat) : State × Nat :=
  if s.links.removed.contains (packageOf pa) then (s, p) else (s.fillLine pa hint).homeStore p pa bs

/-- What an engine command may still see behind the lane writes in flight: those that acquire covers are settled
(13 R308). -/
def State.unsettled (s : State) (w : Warp) (wid : Nat) (acquire : Bool) (scope : Nat) : List (Nat × Word) :=
  (w.flight.filter fun x => !acquire || !s.inScope (dieOf wid) scope (x.quad * 8)).map fun x => (x.quad, x.old)

/-- The quadword behind a lane's write is kept while the write may be in flight (13 R308). -/
def State.noteFlight (s : State) (wid pa : Nat) (u : Until) : State :=
  let x : Flight := ⟨pa / 8, s.quad pa, u, s.stamp⟩
  { s with stamp := s.stamp + 1 }.modWarp wid fun w => { w with flight := x :: w.flight }

/-- Writes of a warp are known to have taken their places, and with them every write that their homes took before them in the same
quadwords, whichever warp's it is (13 R303, R308). -/
def State.landed (s : State) (wid : Nat) (p : Flight → Bool) : State :=
  let hits := ((s.warp? wid).map fun w => w.flight.filter p).getD []
  if hits.isEmpty then s
  else
    let gone (x : Flight) : Bool := hits.any fun h => x.quad == h.quad && x.at_ ≤ h.at_
    { s with warps := s.warps.map fun (k, w) => (k, { w with flight := w.flight.filter fun x => !gone x }) }

/-- A load of a quadword by lanes at a time shows that the warp's stores there have taken their places, and every store there where
what it reads is what the home has (13 R302, R303). -/
def State.seenAt (s : State) (wid pa n t : Nat) : State :=
  if (s.lineTimes pa).1 ≤ t then s.seen pa n else s.landed wid fun x => x.quad == pa / 8

/-- Lane accesses of a warp in a scope have taken their places (13 R308, R312). -/
def State.settled (s : State) (wid die scope : Nat) : State :=
  s.landed wid fun x => s.inScope die scope (x.quad * 8)

/-- A contribution of lanes of a warp to an element in a scope has no place yet. -/
def State.contributesIn (s : State) (wid scope : Nat) (lanes : Mask := ~~~0#64) : Bool :=
  s.slotWaits.any fun x => x.wid == wid && lanes.has x.lane && s.inScope (dieOf wid) scope x.pa

/-! ### Accesses that carry no time (13 R318) and evictions (12 R271, 13 R305) -/

/-- A read without a time. -/
def State.untimedRead (s : State) (pa n : Nat) : State × List Byte :=
  let s := s.recallOver pa n
  let (wts, rts) := s.lineTimes pa
  ((s.fillLine pa 0).setTimes pa wts rts, s.peek pa n)

/-- A write without a time, bytes within one line. -/
def State.untimedWrite (s : State) (pa : Nat) (bs : List Byte) : State :=
  let s := (s.fillLine pa 0).closeOver 0 pa bs.length
  (s.rawStore 0 pa bs).1

end Sys2Proof.Machine
end

