-- ==== Sys2Proof/Machine/Translate.lean ====
section
/-! DEFINITION. Virtual addresses: the Sv57 walk, the TLBs, and the fault queue (14 R319-R325). -/
namespace Sys2Proof.Machine

/-- The kinds of access a translation is made for, as Table 14.3 codes them. -/
inductive Acc where
  | read | write | readWrite | execute
  deriving DecidableEq, Repr

/-- ACC of Table 14.3. -/
def Acc.code : Acc → Nat
  | .read => 0
  | .write => 1
  | .readWrite => 2
  | .execute => 3

/-- Fault kinds (14 Table 14.2); and `waits`, no fault: the access finds its mapped line absent or its home package unreachable,
so that its unit waits and nothing is recorded (08 R182, 19 R433). -/
inductive FaultKind where
  | invalid | perm | accessed | noncanon | access | waits
  deriving DecidableEq, Repr

/-- KIND of Table 14.3. -/
def FaultKind.code : FaultKind → Nat
  | .invalid => 0
  | .perm => 1
  | .accessed => 2
  | .noncanon => 3
  | .access => 4
  | .waits => 7

/-- Bytes of a leaf by its SIZE code (14 Table 14.6). -/
def leafBytes (size : Nat) : Nat :=
  match size with
  | 0 => 2 ^ 12
  | 1 => 2 ^ 16
  | 2 => 2 ^ 21
  | 3 => 2 ^ 30
  | _ => 2 ^ 39

/-- Whether a PTE breaks the encoding rules: V clear, W without R, or a reserved field or PBMT not 0 (14 R319). -/
def pteBad (pte : Nat) : Bool :=
  natBits pte 0 0 == 0 || (natBits pte 2 1 == 2) || natBits pte 62 54 != 0

/-- A leaf PTE met at a level, as a TLB entry, or INVALID: none at the top level, no misaligned page, NAPOT only as a
64 KiB page (14 R319). -/
def leafOf (ctx : Nat) (va : Nat) (level : Nat) (pte : Nat) : Except FaultKind TlbEntry :=
  let ppn := natBits pte 53 10
  let n := natBits pte 63 63 == 1
  let size := if level = 0 then (if n then 1 else 0) else level + 1
  let ok := level < 4
    && (if n then level == 0 && ppn % 16 == 8 else ppn % 2 ^ (9 * level) == 0)
  if !ok then .error .invalid
  else
    let bytes := leafBytes size
    let page := if n then ppn / 16 * 16 else ppn
    .ok { ctx := ctx, vbase := va / bytes * bytes, size := size, pbase := page * 4096
          r := natBits pte 1 1 == 1, w := natBits pte 2 2 == 1, x := natBits pte 3 3 == 1
          a := natBits pte 6 6 == 1, d := natBits pte 7 7 == 1 }

/-- The levels of a walk from a table at `base` down; `level` counts the levels below (14 R319, R321). -/
def walkFrom (s : State) (ctx va : Nat) : Nat → Nat → Except FaultKind TlbEntry
  | level, base =>
    let a := base + natBits va (12 + 9 * level + 8) (12 + 9 * level) * 8
    if !s.inMemory a then .error .access
    else
      let pte := (s.quad a).toNat
      if pteBad pte then .error .invalid
      else if natBits pte 3 1 != 0 then leafOf ctx va level pte
      else if natBits pte 7 6 != 0 || natBits pte 4 4 != 0 || natBits pte 63 63 != 0 then .error .invalid
      else match level with
        | 0 => .error .invalid
        | k + 1 => walkFrom s ctx va k (natBits pte 53 10 * 4096)

/-- A walk of a context's tables for a canonical address (14 R319; the root word is that of Table 18.1). -/
def State.walk (s : State) (ctx : Nat) (va : Word) : Except FaultKind TlbEntry :=
  match AMap.get s.ctxs ctx with
  | none => .error .invalid
  | some c =>
    if natBits c.root.toNat 63 60 != 0xA || natBits c.root.toNat 59 44 != 0 then .error .invalid
    else walkFrom s ctx (va.toNat % 2 ^ 57) 4 (natBits c.root.toNat 43 0 * 4096)

/-- The permissions of an access against a leaf, then A and D (14 R320). -/
def TlbEntry.permits (e : TlbEntry) (acc : Acc) : Option FaultKind :=
  let ok := match acc with
    | .read => e.r
    | .write => e.w
    | .readWrite => e.r && e.w
    | .execute => e.x
  if !ok then some .perm
  else if !e.a then some .accessed
  else if !e.d && (acc == .write || acc == .readWrite) then some .accessed
  else none

/-- The physical address of an address in a leaf. -/
def TlbEntry.pa (e : TlbEntry) (va : Nat) : Nat := e.pbase + va % leafBytes e.size

/-- TLBs: a core's, a cluster's, a matrix engine's, a builder's, a front end's (14 Table 14.1). -/
def tlbCore (core : Nat) : Nat := core
def tlbCluster (c : Nat) : Nat := 1000 + c
def tlbMxe (c : Nat) : Nat := 2000 + c
def tlbBuilder (b : Nat) : Nat := 3000 + b
def tlbFront (die : Nat) : Nat := 4000 + die

/-- How many entries a TLB holds (14 Table 14.1). -/
def tlbSize (t : Nat) : Nat :=
  if t < 1000 then 64 else if t < 2000 then 2048 else if t < 3000 then 128 else if t < 4000 then 256 else 64

/-- The entries of a TLB, the most recently used first. -/
def State.tlb (s : State) (t : Nat) : List TlbEntry :=
  if t < 1000 then (s.core t).tlb
  else if t < 2000 then (s.cluster (t - 1000)).tlb
  else if t < 3000 then (s.cluster (t - 2000)).mxeTlb
  else if t < 4000 then (s.builder (t - 3000)).tlb
  else (s.die (t - 4000)).feuTlb

/-- A TLB changed. -/
def State.setTlb (s : State) (t : Nat) (es : List TlbEntry) : State :=
  if t < 1000 then s.modCore t fun c => { c with tlb := es }
  else if t < 2000 then s.modCluster (t - 1000) fun c => { c with tlb := es }
  else if t < 3000 then s.modCluster (t - 2000) fun c => { c with mxeTlb := es }
  else if t < 4000 then s.modBuilder (t - 3000) fun b => { b with tlb := es }
  else s.modDie (t - 4000) fun d => { d with feuTlb := es }

/-- Whether an entry translates an address of a context. -/
def TlbEntry.covers (e : TlbEntry) (ctx va : Nat) : Bool :=
  e.ctx == ctx && e.vbase ≤ va && va < e.vbase + leafBytes e.size

/-- An entry put first, the least recently used one leaving a full TLB (14 R322). -/
def State.fillTlb (s : State) (e : TlbEntry) (t : Nat) : State :=
  s.setTlb t ((e :: (s.tlb t).filter (· != e)).take (tlbSize t))

/-- The leaf for an address: from the first TLB of the chain that holds one, or by a walk; the chain is filled. -/
def State.leaf (s : State) (chain : List Nat) (ctx : Nat) (va : Word) : State × Except FaultKind TlbEntry :=
  if !canonical va then (s, .error .noncanon)
  else
    let v := va.toNat % 2 ^ 57
    match chain.findSome? (fun t => (s.tlb t).find? (fun e => e.covers ctx v)) with
    | some e => (chain.foldl (fun s t => s.fillTlb e t) s, .ok e)
    | none =>
      match s.walk ctx va with
      | .ok e => (chain.foldl (fun s t => s.fillTlb e t) s, .ok e)
      | .error k => (s, .error k)

/-- A translation: the physical address, or the kind of its fault. The order of the kinds is canonical, valid,
permission, A and D, and then the physical address (DEDUCED, assumption 11). -/
def State.translate (s : State) (chain : List Nat) (ctx : Nat) (va : Word) (acc : Acc) :
    State × Except FaultKind Nat :=
  match s.leaf chain ctx va with
  | (s, .error k) => (s, .error k)
  | (s, .ok e) =>
    match e.permits acc with
    | some k => (s, .error k)
    | none =>
      let pa := e.pa (va.toNat % 2 ^ 57)
      if s.inMemory pa then (s, .ok pa) else (s, .error .access)

/-- An engine's translation. An access that is outstanding for a package since removed, whose context is halting for it, goes there
still: it completes with no effect (19 R433, assumption 87). -/
def State.engineTranslate (s : State) (chain : List Nat) (ctx : Nat) (va : Word) (acc : Acc) : State × Except FaultKind Nat :=
  match s.translate chain ctx va acc with
  | (s, .error .access) => match s.walk ctx va with
    | .ok e =>
      let pa := e.pa (va.toNat % 2 ^ 57)
      let step := s.haltStepOf ctx
      if s.links.removed.contains (packageOf pa) && 1 ≤ step && step < 8 then (s, .ok pa) else (s, .error .access)
    | .error _ => (s, .error .access)
  | r => r

/-- A translation for an access of `n` bytes that a unit then makes at once: an absent line makes it wait (08 R182). -/
def State.reach (s : State) (chain : List Nat) (ctx : Nat) (va : Word) (n : Nat) (acc : Acc) : State × Except FaultKind Nat :=
  match s.translate chain ctx va acc with
  | (s, .error k) => (s, .error k)
  | (s, .ok pa) => if s.absentAt pa n then (s, .error .waits) else (s, .ok pa)

/-- Translate a list of addresses in order; the first fault stops. -/
def State.translateAll (s : State) (chain : List Nat) (ctx : Nat) (acc : Acc) :
    List Word → State × Except (Word × FaultKind) (List Nat)
  | [] => (s, .ok [])
  | va :: vas =>
    match s.translate chain ctx va acc with
    | (s, .error k) => (s, .error (va, k))
    | (s, .ok pa) =>
      match State.translateAll s chain ctx acc vas with
      | (s, .ok pas) => (s, .ok (pa :: pas))
      | (s, .error e) => (s, .error e)

/-- An engine's translations of a list of addresses in order; the first fault stops. -/
def State.engineTranslateAll (s : State) (chain : List Nat) (ctx : Nat) (acc : Acc) :
    List Word → State × Except (Word × FaultKind) (List Nat)
  | [] => (s, .ok [])
  | va :: vas =>
    match s.engineTranslate chain ctx va acc with
    | (s, .error k) => (s, .error (va, k))
    | (s, .ok pa) =>
      match State.engineTranslateAll s chain ctx acc vas with
      | (s, .ok pas) => (s, .ok (pa :: pas))
      | (s, .error e) => (s, .error e)

/-- The TLBs that lanes and code fetch of a core use. -/
def laneChain (core : Nat) : List Nat := [tlbCore core, tlbCluster (clusterOfCore core)]

/-- A fault record (14 Table 14.3). -/
def faultWord (ctx unit : Nat) (acc : Acc) (k : FaultKind) (va : Word) : BitVec 128 :=
  BitVec.ofNat 128 (ctx * 2 ^ 114 + unit * 2 ^ 110 + acc.code * 2 ^ 108 + k.code * 2 ^ 105 + va.toNat % 2 ^ 57)

/-- An unanswered record holds some work. -/
def State.heldBy (s : State) (h : Held) : Bool :=
  s.dies.any fun d => d.faults.any fun (_, r) => r.held == h && r.answered.isNone

/-- A fault recorded in the die's queue with the work it holds, once; none where the queue of 4,096 is full, and the unit
waits (14 R324); none for what is no fault. The record's bytes stand here, not in memory (assumption 108). -/
def State.recordFault (s : State) (die ctx unit : Nat) (acc : Acc) (k : FaultKind) (va : Word) (held : Held) :
    Option State :=
  if k == .waits then none
  else if (s.die die).faults.any fun (_, r) => r.held == held && r.word == faultWord ctx unit acc k va && r.answered.isNone then
    some s
  else match AMap.freeKey (s.die die).faults 4096 with
  | some n =>
    some (s.modDie die fun d => { d with faults := AMap.set d.faults n ⟨faultWord ctx unit acc k va, held, none⟩ })
  | none => none

/-- An invalidation of a range of a context in every TLB of the package; every access is settled at once (14 R326). -/
def State.invalidate (s : State) (ctx base len : Nat) : State :=
  let keep (e : TlbEntry) : Bool := e.ctx != ctx || e.vbase + leafBytes e.size ≤ base || base + len ≤ e.vbase
  { s with
    cores := s.cores.map fun (k, c) => (k, { c with tlb := c.tlb.filter keep })
    clusters := s.clusters.map fun (k, c) => (k, { c with tlb := c.tlb.filter keep, mxeTlb := c.mxeTlb.filter keep })
    dies := s.dies.map fun d =>
      { d with feuTlb := d.feuTlb.filter keep
               builders := d.builders.map fun b => { b with tlb := b.tlb.filter keep } } }

end Sys2Proof.Machine
end

