-- ==== Sys2Proof/Machine/Fetch.lean ====
section
/-! DEFINITION. Code: block headers, parcels, the dictionary, and the decode of the parcel at a PC (03 R39-R60). -/
namespace Sys2Proof.Machine

/-- A block header (03 Table 3.1). -/
structure Header where
  kind : Nat
  len : Nat
  demand : Nat
  wait : Nat
  reconv : Int
  prefetchN : Nat
  reserved : Nat
  deriving DecidableEq, Repr

/-- The fields of a header word. -/
def headerOf (x : Word) : Header where
  kind := natBits x.toNat 63 60
  len := natBits x.toNat 59 51
  demand := natBits x.toNat 50 43
  wait := natBits x.toNat 42 31
  reconv := toSigned 16 (natBits x.toNat 30 15)
  prefetchN := natBits x.toNat 14 11
  reserved := natBits x.toNat 10 0

/-- The address after the body of a block at `h`. -/
def bodyEnd (h : Word) (x : Header) : Word := h + BitVec.ofNat 64 (8 + 2 * x.len)

/-- N(H), the next block's header (03 R39). -/
def nextHeader (h : Word) (x : Header) : Word := h + BitVec.ofNat 64 (alignUp (8 + 2 * x.len) 8)

/-- The reconvergence header of a block, if it names one (03 R44). -/
def reconvTarget (h : Word) (x : Header) : Option Word :=
  if x.reconv = 0 then none else some (h + BitVec.ofInt 64 (2 * x.reconv))

/-- Whether a kind may be entered in a way (03 R41, 18 R399). -/
def kindOk (kind : Nat) : Way → Bool
  | .launch => kind == 0xC
  | .trapEntry => kind == 0xE
  | _ => kind == 0xA || kind == 0xC

/-- A target of code: canonical and 8-byte aligned (04 R89). -/
def targetOk (a : Word) : Bool := canonical a && a.toNat % 8 == 0

/-- The versions a fetch of a sector may return: the sector as it stands, or as it stood since the launch (03 R54). -/
def State.sectorVersions (s : State) (launch pa : Nat) : List (List Byte) :=
  s.sector pa :: (s.codeOld.filter fun (k, st, _) => k == pa / 128 && st > launch).map (·.2.2)

/-- One sector's share of a fetch, or of the load of a dictionary image. What a registered granule held before its newest bytes
is not kept: a fetch there takes those (assumption 23). -/
def State.fetchSector (s : State) (core ctx launch : Nat) (va : Word) (n : Nat) (acc : Acc := .execute) :
    State × Except (Word × FaultKind) (List Byte) :=
  match s.reach (laneChain core) ctx va n acc with
  | (s, .error k) => (s, .error (va, k))
  | (s, .ok pa) =>
    let vs := s.sectorVersions launch pa
    let (v, s) := if vs.length = 1 then (vs.head?, s) else s.chooseFrom vs
    (s, .ok (((v.getD []).drop (pa % 128)).take n))

/-- Bytes of code, at most 22 of them, sector by sector. -/
def State.fetchBytes (s : State) (core ctx launch : Nat) (va : Word) (n : Nat) :
    State × Except (Word × FaultKind) (List Byte) :=
  let first := min n (128 - va.toNat % 128)
  match s.fetchSector core ctx launch va first with
  | (s, .error e) => (s, .error e)
  | (s, .ok a) =>
    if first = n then (s, .ok a)
    else match s.fetchSector core ctx launch (va + BitVec.ofNat 64 first) (n - first) with
      | (s, .error e) => (s, .error e)
      | (s, .ok b) => (s, .ok (a ++ b))

/-- The bytes of a dictionary image, each sector as at the launch or as after any later write (03 R53, R54). -/
def State.readImage (s : State) (core ctx launch : Nat) (base : Word) (n : Nat) :
    State × Except (Word × FaultKind) (List Byte) :=
  (List.range (ceilDiv n 128)).foldl (fun (s, r) i => match r with
    | .error e => (s, .error e)
    | .ok bs => match s.fetchSector core ctx launch (base + BitVec.ofNat 64 (128 * i)) (min 128 (n - 128 * i)) .read with
      | (s, .error e) => (s, .error e)
      | (s, .ok b) => (s, .ok (bs ++ b))) (s, .ok [])

/-- The header word at an address, in a warp's context. -/
def State.fetchHeader (s : State) (wid : Nat) (w : Warp) (h : Word) : State × Except (Word × FaultKind) Word :=
  match s.fetchBytes (coreOf wid) w.ctx w.launch h 8 with
  | (s, .error e) => (s, .error e)
  | (s, .ok b) => (s, .ok (BitVec.ofNat 64 (ofBytes b)))

/-- What a target header check finds: good, BAD_TARGET, or a translation fault (03 R41, 04 R89). -/
inductive TargetCheck where
  | good | bad | fault (va : Word) (k : FaultKind)

/-- The check of a transfer's target header before any lane moves. -/
def State.checkTarget (s : State) (wid : Nat) (w : Warp) (way : Way) (a : Word) : State × TargetCheck :=
  if !targetOk a then (s, .bad)
  else match s.fetchHeader wid w a with
    | (s, .error (va, k)) => (s, .fault va k)
    | (s, .ok x) => (s, if kindOk (headerOf x).kind way then .good else .bad)

/-- The dictionary bank that serves a warp: its context, its image base and its entry count (03 R51). -/
def State.bankOf (s : State) (wid : Nat) (w : Warp) : Option Bank :=
  match s.launchOf w with
  | none => none
  | some l => (s.core (coreOf wid)).banks.findSome? fun b =>
    match b with
    | some b => if b.ctx == w.ctx && b.base == l.dictBase && b.n == l.dictN && b.ready then some b else none
    | none => none

/-- What the decode of a parcel gives. -/
inductive Fetched where
  | instr (i : Instr) (next : Word)
  | trap (c : Cause)
  | fault (va : Word) (k : FaultKind)

/-- Steps 2 to 5 of Table 3.7 for a word, given what step 4 finds in its parcel (03 R60). -/
def decodeChecked (w nw : Nat) (x : BitVec 160) (last parcelOk : Bool) (next : Word) : Fetched :=
  let op := (bitsAt x 150 10).toNat
  match irlekRows.find? (fun r => r.1.opcode == op) with
  | none => .trap .illegalOpcode
  | some r =>
    if r.1.control && !last then .trap .illegalParcel
    else if !parcelOk then .trap .illegalField
    else match decodeIrlek w nw x with
      | .ok i => .instr i next
      | .error .opcode => .trap .illegalOpcode
      | .error .field => .trap .illegalField

/-- Guard A's predicate replaced by a reference's override (03 R49). -/
def overrideGuard (x : BitVec 160) (p : BitVec 4) : BitVec 160 :=
  (x &&& ~~~(0xF#160 <<< 26)) ||| (p.setWidth 160 <<< 26)

/-- The decode of the parcel at `pc` in the body of the block at `h` (03 R47-R49, R60). -/
def State.decodeAt (s : State) (wid : Nat) (w : Warp) (h hword pc : Word) : State × Fetched :=
  let stop := bodyEnd h (headerOf hword)
  match s.fetchBytes (coreOf wid) w.ctx w.launch pc 2 with
  | (s, .error (va, k)) => (s, .fault va k)
  | (s, .ok b) =>
    let parcel := BitVec.ofNat 16 (ofBytes b)
    if parcel.getLsbD 15 then
      let next := pc + 22
      if natBits parcel.toNat 14 12 != 0 || (stop - h).toNat < (next - h).toNat then (s, .trap .illegalParcel)
      else match s.fetchBytes (coreOf wid) w.ctx w.launch (pc + 2) 20 with
        | (s, .error (va, k)) => (s, .fault va k)
        | (s, .ok b) =>
          (s, decodeChecked w.width w.nw (BitVec.ofNat 160 (ofBytes b)) (next == stop)
            (natBits parcel.toNat 11 0 == 0) next)
    else
      let idx := natBits parcel.toNat 9 0
      let next := pc + 2
      match s.bankOf wid w with
      | none => (s, .trap .illegalParcel)
      | some b =>
        match b.words[idx]? with
        | none => (s, .trap .illegalParcel)
        | some x =>
          let on := parcel.getLsbD 14
          let p : BitVec 4 := bitsAt parcel 10 4
          (s, decodeChecked w.width w.nw (if on then overrideGuard x p else x) (next == stop) (on || p == 0) next)

/-- What a search for the block of a PC finds: that it holds the PC, that it does not, or a translation fault on the way. -/
inductive InBody where
  | yes | no | fault (va : Word) (k : FaultKind)
  deriving DecidableEq, Repr

/-- Whether `pc` is the first parcel of an instruction in the body up to `stop`, by the parcels from `a` on as they stand. -/
def State.startsAt (s : State) (wid : Nat) (w : Warp) (stop pc : Word) : Nat → Word → InBody
  | 0, _ => .no
  | k + 1, a =>
    if a == pc then (if pc != stop then .yes else .no)
    else if a == stop then .no
    else match (s.fetchBytes (coreOf wid) w.ctx w.launch a 2).2 with
      | .error (va, e) => .fault va e
      | .ok b =>
        let n : Word := if (BitVec.ofNat 16 (ofBytes b)).getLsbD 15 then 22 else 2
        State.startsAt s wid w stop pc k (a + n)

/-- Whether `pc` starts an instruction of the block at `h`. -/
def State.inBlock (s : State) (wid : Nat) (w : Warp) (h pc : Word) : InBody :=
  match (s.fetchHeader wid w h).2 with
  | .error (va, e) => .fault va e
  | .ok x =>
    let hd := headerOf x
    if (hd.kind == 0xA || hd.kind == 0xC || hd.kind == 0xE) && hd.reserved == 0 && (pc - h).toNat < 8 + 2 * hd.len then
      s.startsAt wid w (bodyEnd h hd) pc (hd.len + 1) (h + 8)
    else .no

/-- The header of the nearest block below `pc` whose body holds an instruction there (DEDUCED, assumption 12: the spec names no
other way from a PC to its block), or the first translation fault met in the search where it finds none. -/
def State.blockOf (s : State) (wid : Nat) (w : Warp) (pc : Word) : Except (Option (Word × FaultKind)) Word :=
  (List.range 128).foldl (fun r i => match r with
    | .ok h => .ok h
    | .error e =>
      let h := BitVec.ofNat 64 (pc.toNat / 8 * 8) - 8 * BitVec.ofNat 64 (i + 1)
      match s.inBlock wid w h pc with
      | .yes => .ok h
      | .no => .error e
      | .fault va k => .error (e.orElse fun _ => some (va, k))) (.error none)

end Sys2Proof.Machine
end

