-- ==== Sys2Proof/Machine/Operands.lean ====
section
/-! DEFINITION. Operand forms: guards, the lane-permutation crossbar, uniform and immediate sources, last-use marks, and writes of results (03 R56, 05 R104-R109, R115-R118). -/
namespace Sys2Proof.Machine

/-- Operand `i` of a word. -/
def opAt (f : Fields) (i : Nat) : Operand :=
  match i with
  | 0 => f.op0
  | 1 => f.op1
  | 2 => f.op2
  | 3 => f.op3
  | _ => f.op4

/-- The number of an immediate operand. -/
def immNum : Operand → Nat
  | .imm x => x.toNat
  | _ => 0

/-- A guard over the lanes. -/
def Warp.guard (w : Warp) (g : Guard) : Mask := if g.neg then ~~~(w.preg g.pred.toNat) else w.preg g.pred.toNat

/-- The active lanes of a bundle (03 R56). -/
def activeLanes (w : Warp) (f : Fields) (bundle : Mask) : Mask :=
  let a := w.guard f.guardA
  let b := w.guard f.guardB
  bundle &&& (if f.combineOr then a ||| b else a &&& b)

/-- The lane an edge mode takes for a neighbour `j` outside 0 to W − 1; none reads zero (05 R118). -/
def edgeLane (e : Edge) (w : Nat) (j : Int) : Option Nat :=
  if 0 ≤ j && j < w then some j.toNat
  else match e with
    | .z => none
    | .c => some (if j < 0 then 0 else w - 1)
    | .w => some (j % w).toNat

/-- The source lane of lane `l` under a pattern (05 Table 5.5); `e` is the elements of a lane. -/
def sourceLane (w e : Nat) (p : Perm) (l : Nat) : Option Nat :=
  match p with
  | .ident => some l
  | .bc n => some n.toNat
  | .rot k => some ((l + k.toNat) % w)
  | .bf k => some (l ^^^ 2 ^ k.toNat)
  | .mir k => some (l ^^^ (2 ^ k.toNat - 1))
  | .lt d m => edgeLane m w ((l : Int) - (d.toNat + 1))
  | .rt d m => edgeLane m w ((l : Int) + (d.toNat + 1))
  | .sub _ => some l
  | .bcSub x => some (x.toNat / e)

/-- The element a pattern delivers to every position, if it takes one (05 R117). -/
def sourceElem (e : Nat) (p : Perm) : Option Nat :=
  match p with
  | .sub s => some s.toNat
  | .bcSub x => some (x.toNat % e)
  | _ => none

/-- What lane `l` receives of a vector register (05 R118): zero from an exited lane or an unmapped register. -/
def Warp.deliver (w : Warp) (n : Nat) (e : Nat) (p : Perm) (l : Nat) : Word :=
  match sourceLane w.width e p l with
  | none => 0
  | some j =>
    if !w.live.has j then 0
    else
      let x := w.vreg n j
      match sourceElem e p with
      | some s => splat (64 / e) (elemAt (64 / e) x s)
      | none => x

/-- A floating-point immediate in every element (07 R152); for .c32 the real part, the imaginary part being 0. -/
def floatImm (t : Ty) (i : BitVec 18) : Word :=
  match t.fmt with
  | some F => if t = .c32 then BitVec.ofNat 64 (F.immBits i) else splat F.width (F.immBits i)
  | none => BitVec.ofNat 64 (fmtF32.immBits i)

/-- An immediate as its position reads it (03 R59, 06 R132, 07 R152). -/
def immValue (t : Ty) (i : BitVec 18) : ImmRule → Word
  | .signed => BitVec.ofInt 64 (immSigned i)
  | .range _ _ => BitVec.ofNat 64 i.toNat
  | .elem => t.immSplat i
  | .float => floatImm t i

/-- The value of operand `i` at lane `l`; `pop` gives what a pop operand took (09 R202). -/
def Warp.source (w : Warp) (e : Enc) (f : Fields) (pop : Nat → Word) (i l : Nat) : Word :=
  match opAt f i with
  | .v n _ p => w.deliver n.toNat (e.permE f i) p l
  | .w n => w.wreg n.toNat
  | .imm x => immValue f.ty x ((e.ops[i]?).getD Enc.none_).imm
  | .q _ => pop l
  | _ => 0

/-- Register `k` beside the one operand `i` names: a pair or quad (12 R294, 15). -/
def Warp.sourceNext (w : Warp) (e : Enc) (f : Fields) (i k l : Nat) : Word :=
  match opAt f i with
  | .v n _ p => w.deliver (n.toNat + k) (e.permE f i) p l
  | _ => 0

/-- The vector registers an instruction reads. -/
def vectorSources (e : Enc) (f : Fields) : List Nat :=
  (List.range 5).flatMap fun i =>
    let pos := (e.ops[i]?).getD Enc.none_
    match opAt f i with
    | .v n _ _ => if pos.dst then [] else (List.range pos.regs).map (n.toNat + ·)
    | _ => []

/-- The vector registers an instruction marks for release (05 R106). -/
def marks (e : Enc) (f : Fields) : List Nat :=
  (List.range 5).flatMap fun i =>
    let pos := (e.ops[i]?).getD Enc.none_
    match opAt f i with
    | .v n true _ => if pos.dst then [] else (List.range pos.regs).map (n.toNat + ·)
    | _ => []

/-- The vector registers an instruction names as destinations. -/
def vectorDests (e : Enc) (f : Fields) : List Nat :=
  (List.range 5).flatMap fun i =>
    let pos := (e.ops[i]?).getD Enc.none_
    match opAt f i with
    | .v n _ _ => if pos.dst then (List.range pos.regs).map (n.toNat + ·) else []
    | _ => []

/-- The uniform registers an instruction names. -/
def uniforms (e : Enc) (f : Fields) : List Nat :=
  (List.range 5).flatMap fun i =>
    match opAt f i with
    | .w n => (List.range ((e.ops[i]?).getD Enc.none_).regs).map (n.toNat + ·)
    | _ => []

/-- A register of an engine whose result is still to come holds the instruction back (04 R78). -/
def Warp.interlocked (w : Warp) (e : Enc) (f : Fields) : Bool :=
  (vectorSources e f ++ vectorDests e f).any w.awaitV.contains || (uniforms e f).any w.awaitW.contains

/-- The last-use marks of a bundle: release, or a pending release where the bundle is not every live lane
(05 R106, R107). -/
def Warp.applyMarks (w : Warp) (ms : List Nat) (bundle : Mask) : Warp :=
  if w.live &&& ~~~bundle = 0 then { w with v := ms.foldl (fun v n => AMap.erase v n) w.v }
  else { w with v := ms.foldl (fun v n => AMap.modify v n fun r => { r with pending := true }) w.v }

/-- A write of lanes of a vector register: a new register reads zero in every lane, and a pending release is cancelled
(05 R104, R105). -/
def Warp.writeV (w : Warp) (n : Nat) (xs : List (Nat × Word)) : Warp :=
  let old := match AMap.get w.v n with
    | some r => r.lanes
    | none => List.replicate w.width 0
  { w with v := AMap.set w.v n ⟨xs.foldl (fun ls (l, x) => ls.set l x) old, false⟩ }

/-- One write of a result: lanes of a vector register, a uniform register, predicate bits, a push, or a register that an
engine fills later. -/
inductive Wr where
  | v (n : Nat) (xs : List (Nat × Word))
  | w (n : Nat) (x : Word)
  | p (n : Nat) (lanes bits : Mask)
  | push (q : Nat) (xs : List Word)
  | vLater (n : Nat)
  | wLater (n : Nat)
  deriving DecidableEq, Repr

/-- The writes of one value a lane to operand 0: to each active lane of v, once to w (06 R132), or pushed (09 R202). -/
def toDest (o : Operand) (act : Mask) (val : Nat → Word) : List Wr :=
  match o with
  | .v n _ _ => [.v n.toNat (act.lanes.map fun l => (l, val l))]
  | .w n => [.w n.toNat (val (act.lowest.getD 0))]
  | .q n => [.push n.toNat (act.lanes.map val)]
  | _ => []

/-- The vector register a write allocates or fills. -/
def Wr.vreg? : Wr → Option Nat
  | .v n _ => some n
  | .vLater n => some n
  | _ => none

/-- A result written to the warp; pushes are made at their queue. -/
def Warp.apply (w : Warp) : Wr → Warp
  | .v n xs => w.writeV n xs
  | .w n x => w.setW n x
  | .p n m x => w.setP n m x
  | .push _ _ => w
  | .vLater n => { w.writeV n [] with awaitV := n :: w.awaitV }
  | .wLater n => { w with awaitW := n :: w.awaitW }

end Sys2Proof.Machine
end

