-- ==== Sys2Proof/Machine/Ring.lean ====
section
/-! DEFINITION. Queues in an allotment: the descriptor line, the ring, readiness, pops and pushes (09 R197-R204). -/
namespace Sys2Proof.Machine

/-- A queue descriptor (09 Table 9.1). -/
structure QDesc where
  head : Nat
  tail : Nat
  k : Nat
  closed : Bool
  deriving DecidableEq, Repr

/-- A number of `n` bytes in an allotment. -/
def Allot.num (a : Allot) (off n : Nat) : Nat := ofBytes (Memory.readN a.mem off n)

/-- The descriptor in a line. -/
def Allot.desc (a : Allot) (line : Nat) : QDesc :=
  ⟨a.num (line * 128) 4, a.num (line * 128 + 4) 4, a.num (line * 128 + 8) 1 % 16, a.num (line * 128 + 9) 1 % 2 == 1⟩

/-- A descriptor written. -/
def Allot.setDesc (a : Allot) (line : Nat) (d : QDesc) : Allot :=
  a.poke (line * 128) (bytesOf 4 d.head ++ bytesOf 4 d.tail ++ bytesOf 1 d.k ++ bytesOf 1 (if d.closed then 1 else 0))

/-- The count of a queue (09 R198). -/
def QDesc.count (d : QDesc) : Nat := (d.tail + 2 ^ 32 - d.head) % 2 ^ 32

/-- The place of element `i` in the ring (09 R197). -/
def QDesc.place (d : QDesc) (i : Nat) : Nat := i % 2 ^ d.k

/-- The offset of a ring place. -/
def ringOff (line place : Nat) : Nat := line * 128 + 128 + 8 * place

/-- Keys of the edges that pushes and closes carry (09 R204). -/
def edgeKey (line place : Nat) : Nat := line * 8192 + place
def closeKey (line : Nat) : Nat := line * 8192 + 4096

/-- An edge noted at a time. -/
def Allot.setEdge (a : Allot) (key t : Nat) : Allot := { a with edges := AMap.set a.edges key t }

/-- The blocked operation of a bundle at a queue, and whether an earlier one of its direction waits there (09 R203). -/
def Core.blockedAhead (c : Core) (b : Blocked) : Bool :=
  let here := c.blocked.filter fun x => x.allot == b.allot && x.line == b.line && x.push == b.push
  match here.head? with
  | some x => x != b
  | none => false

/-- Join the blocked operations of a queue, keeping the place already held. -/
def Core.enroll (c : Core) (b : Blocked) : Core :=
  if c.blocked.contains b then c else { c with blocked := c.blocked ++ [b] }

/-- Leave them. -/
def Core.leave (c : Core) (b : Blocked) : Core := { c with blocked := c.blocked.filter (· != b) }

/-- A valid binding of the wanted direction with its allotment, or the cause of the trap (09 R202). -/
def State.bound (s : State) (wid : Nat) (w : Warp) (q : Nat) (push : Bool) : Except Cause (Nat × Allot × Binding) :=
  match AMap.get w.q q, s.allotOf wid w with
  | some b, some (id, a) =>
    if !a.queues.contains b.line then .error .qUnbound
    else if b.push != push then .error .qDir
    else .ok (id, a, b)
  | _, _ => .error .qUnbound

/-- Pop one element for each active lane, lowest first; lanes that find a closed queue empty read 0 and clear the end
predicate. The popping warp's clock passes the pushes' times, and the close's where it finds the queue closed (09 R202, R204). -/
def popLanes (wid allot line ep : Nat) : List Nat → State → AMap Word → State × AMap Word
  | [], s, xs => (s, xs)
  | l :: ls, s, xs =>
    match AMap.get s.allots allot with
    | none => (s, xs)
    | some a =>
      let d := a.desc line
      let s := if d.closed then s.raisePts wid (AMap.getD a.edges (closeKey line) 0) else s
      if d.count = 0 then
        let s := s.modWarp wid fun w => (w.setP ep (Mask.of 64 (· == l)) 0)
        popLanes wid allot line ep ls s (AMap.set xs l 0)
      else
        let place := d.place d.head
        let x := BitVec.ofNat 64 (a.num (ringOff line place) 8)
        let s := s.modAllot allot fun a => a.setDesc line { d with head := (d.head + 1) % 2 ^ 32 }
        let s := s.raisePts wid (AMap.getD a.edges (edgeKey line place) 0)
        popLanes wid allot line ep ls s (AMap.set xs l x)

/-- Push values in order, at a time (09 R202, R204). -/
def Allot.pushAll (a : Allot) (line t : Nat) : List Word → Allot
  | [] => a
  | x :: xs =>
    let d := a.desc line
    let place := d.place d.tail
    let a := a.poke (ringOff line place) (bytesOf 8 x.toNat)
    let a := (a.setDesc line { d with tail := (d.tail + 1) % 2 ^ 32 }).setEdge (edgeKey line place) t
    Allot.pushAll a line t xs

/-- What an instruction with a pop or a push operand finds: a trap, a wait, or the operations it will make. -/
inductive RingState where
  | trap (c : Cause)
  | blocked (bs : List Blocked)
  | ready (pop : Option (Nat × Nat × Nat)) (push : Option (Nat × Nat)) (bs : List Blocked)

/-- The pop and push operands of an instruction of opcodes 0x040 to 0x1DF (09 R201). -/
def ringOps (e : Enc) (f : Fields) : Option Nat × Option Nat :=
  if !(0x040 ≤ e.opcode && e.opcode ≤ 0x1DF) then (none, none)
  else
    let find (dst : Bool) : Option Nat := (List.range 5).findSome? fun i =>
      match opAt f i with
      | .q n => if ((e.ops[i]?).getD Enc.none_).dst == dst then some n.toNat else none
      | _ => none
    (find false, find true)

/-- Q_UNBOUND and Q_DIR, which concern the bindings alone, whatever the guards (09 R202). -/
def State.ringBinding (s : State) (wid : Nat) (w : Warp) (e : Enc) (f : Fields) : Option Cause :=
  let check (q : Option Nat) (push : Bool) : Option Cause :=
    match q with
    | none => none
    | some n => match s.bound wid w n push with
      | .error c => some c
      | .ok _ => none
  match check (ringOps e f).1 false, check (ringOps e f).2 true with
  | some c, _ => some c
  | none, c => c

/-- Q_CLOSED, Q_FIT and readiness for `k` active lanes (09 R202, R203). -/
def State.ringReady (s : State) (wid : Nat) (w : Warp) (pc : Word) (e : Enc) (f : Fields) (k : Nat) : RingState :=
  let side (q : Option Nat) (push : Bool) : Option (Nat × Allot × Binding) :=
    match q with
    | none => none
    | some n => match s.bound wid w n push with
      | .ok r => some r
      | .error _ => none
  let pop := side (ringOps e f).1 false
  let push := side (ringOps e f).2 true
  let c := s.core (coreOf wid)
  let popDesc := pop.map fun (_, a, b) => a.desc b.line
  let pushDesc := push.map fun (_, a, b) => a.desc b.line
  if (pushDesc.map (·.closed)).getD false then .trap .qClosed
  else if (pushDesc.map fun d => decide (2 ^ d.k < k)).getD false
      || (popDesc.map fun d => !d.closed && decide (2 ^ d.k < k)).getD false then .trap .qFit
  else
    let popB := pop.map fun (id, _, b) => ({ allot := id, line := b.line, push := false, wid := wid, pc := pc } : Blocked)
    let pushB := push.map fun (id, _, b) => ({ allot := id, line := b.line, push := true, wid := wid, pc := pc } : Blocked)
    let popOk : Bool := match popDesc, popB with
      | some d, some b => (decide (k ≤ d.count) || d.closed) && !c.blockedAhead b
      | _, _ => true
    let taken := match popB, pushB with
      | some p, some b => if p.line == b.line then min k ((popDesc.map QDesc.count).getD 0) else 0
      | _, _ => 0
    let pushOk : Bool := match pushDesc, pushB with
      | some d, some b => decide (d.count - taken + k ≤ 2 ^ d.k) && !c.blockedAhead b
      | _, _ => true
    let bs := popB.toList ++ pushB.toList
    if popOk && pushOk then
      -- what the warp ordered before its push has a place first (09 R204)
      if pushB.isSome && s.contributes wid then .blocked []
      else .ready (pop.map fun (id, _, b) => (id, b.line, b.endPred.toNat)) (push.map fun (id, _, b) => (id, b.line)) bs
    else
      let stuckPop : List Blocked := bif popOk then [] else popB.toList
      let stuckPush : List Blocked := bif pushOk then [] else pushB.toList
      .blocked (stuckPop ++ stuckPush)

end Sys2Proof.Machine
end

