-- ==== Sys2Proof/Machine/Flags.lean ====
section
/-! DEFINITION. The floating-point mode register, the accrual of its flags, and the status bit ZLANE (02 R29, R33, 04 R99, 07 R156). -/
namespace Sys2Proof.Machine

/-- RM, mode register bits [2:0] (07 Table 7.2). -/
def modeRm (m : Word) : BitVec 3 := m.extractLsb' 0 3
/-- FTZ, mode register bit [3] (07 Table 7.2). -/
def modeFtz (m : Word) : Bool := m.getLsbD 3
/-- The accrued flags NV, DZ, OF, UF, NX of bits [12:8]. -/
def modeFlags (m : Word) : FFlags := m.extractLsb' 8 5

/-- The mode register with RM replaced; 0b101 to 0b111 leave it (07 R158). -/
def setRm (m v : Word) : Word := if natBits v.toNat 2 0 ≤ 4 then (m &&& ~~~7#64) ||| (v &&& 7#64) else m

/-- A mode register written whole: reserved bits are ignored, and a rounding code above 4 leaves RM (07 R158). -/
def modeWrite (m v : Word) : Word := (setRm m v &&& 7#64) ||| (v &&& 0x1F08#64)

/-- Flags accrued into a mode register: the OR of what was and what is raised (02 R33). -/
def accrue (m : Word) (fl : FFlags) : Word := m ||| (fl.setWidth 64 <<< 8)

/-- Flags accrued by a warp. -/
def Warp.accrue (w : Warp) (fl : FFlags) : Warp := { w with mode := Machine.accrue w.mode fl }

/-- ZLANE set (04 R99). -/
def Warp.setZlane (w : Warp) : Warp := { w with zlane := true }

/-- The status register as MOVS reads it (04 Table 4.6). -/
def Warp.status (w : Warp) : Word := if w.zlane then 1 else 0

/-- The environment of an instruction that rounds: its rounding code, the mode register, and saturate (02 R29, R30). -/
def fenv (f : Fields) (mode : Word) : FEnv := ⟨rndOf f.rounding (modeRm mode), modeFtz mode, f.sat⟩

end Sys2Proof.Machine
end

