-- ==== Sys2Proof/Machine/Save.lean ====
section
/-! DEFINITION. Save areas: the bytes of a warp's register and control parts, written and read at the context's virtual addresses (05 Tables 5.2, 5.3, 09 Table 9.2, 18 Tables 18.3, 18.4). -/
namespace Sys2Proof.Machine

/-! ### Bytes at virtual addresses -/

/-- A range cut at sector boundaries: offsets and lengths. -/
def sectorCuts (va : Nat) : Nat → Nat → List (Nat × Nat)
  | 0, _ => []
  | fuel + 1, n =>
    if n = 0 then []
    else
      let k := min n (128 - va % 128)
      (va, k) :: sectorCuts (va + k) fuel (n - k)

/-- The sectors of bytes at an address. -/
def sectorsOf (va : Word) (bs : List Byte) : List (Word × List Byte) :=
  (sectorCuts va.toNat (bs.length / 128 + 2) bs.length).map fun (a, k) =>
    (BitVec.ofNat 64 a, (bs.drop (a - va.toNat)).take k)

/-- The sectors of a range: addresses and lengths. -/
def rangeCuts (va : Word) (n : Nat) : List (Word × Nat) :=
  (sectorCuts va.toNat (n / 128 + 2) n).map fun (a, k) => (BitVec.ofNat 64 a, k)

/-- Sectors written in order; a fault stops at its sector: what is still to be written, and the fault (18 R392). -/
def writeSectors (chain : List Nat) (ctx : Nat) : List (Word × List Byte) → State →
    State × List (Word × List Byte) × Option (Word × FaultKind)
  | [], s => (s, [], none)
  | (va, bs) :: rest, s =>
    match s.reach chain ctx va bs.length .readWrite with
    | (s, .error k) => (s, (va, bs) :: rest, some (va, k))
    | (s, .ok pa) => writeSectors chain ctx rest (s.untimedWrite pa bs)

/-- Sectors read in order, the latest first; a fault stops at its sector. -/
def readSectors (chain : List Nat) (ctx : Nat) (acc : Acc) : List (Word × Nat) → State → List (List Byte) →
    State × List (List Byte) × Option (Word × FaultKind)
  | [], s, got => (s, got, none)
  | (va, n) :: rest, s, got =>
    match s.reach chain ctx va n acc with
    | (s, .error k) => (s, got, some (va, k))
    | (s, .ok pa) => let (s, b) := s.untimedRead pa n; readSectors chain ctx acc rest s (b :: got)

/-- Write bytes at a context's virtual address, sector by sector. -/
def State.writeVirt (s : State) (chain : List Nat) (ctx : Nat) (va : Word) (bs : List Byte) :
    State × Option (Word × FaultKind) :=
  let r := writeSectors chain ctx (sectorsOf va bs) s
  (r.1, r.2.2)

/-- Read bytes at a context's virtual address. -/
def State.readVirt (s : State) (chain : List Nat) (ctx : Nat) (va : Word) (n : Nat) (acc : Acc := .readWrite) :
    State × Except (Word × FaultKind) (List Byte) :=
  match readSectors chain ctx acc (rangeCuts va n) s [] with
  | (s, got, none) => (s, .ok got.reverse.flatten)
  | (s, _, some e) => (s, .error e)

/-! ### Transfers of saves and restores (18 R392) -/

/-- Whether a move is that of an item. -/
def Move.is (m : Move) (what id : Nat) : Bool := m.what == what && m.id == id

/-- A transfer under way. -/
def State.moveOf (s : State) (what id : Nat) : Option Move := s.moving.find? fun m => m.is what id

/-- A transfer ended. -/
def State.dropMove (s : State) (what id : Nat) : State :=
  if (s.moveOf what id).isNone then s else { s with moving := s.moving.filter fun m => !m.is what id }

/-- A transfer as far as it has come. -/
def State.keepMove (s : State) (m : Move) : State :=
  { s with moving := s.moving.filter (fun x => !x.is m.what m.id) ++ [m] }

/-- Pieces written to an item's save area, or what is left of them where a fault stopped them before: a fault stops at its
sector, from which the transfer goes on later. -/
def State.sendOut (s : State) (chain : List Nat) (ctx what id : Nat) (base : Word) (ps : List (Nat × List Byte))
    (regs : List Nat := []) : State × Option (Word × FaultKind) :=
  let all := match s.moveOf what id with
    | some m => m.left
    | none => ps.flatMap fun (off, bs) => sectorsOf (base + BitVec.ofNat 64 off) bs
  match writeSectors chain ctx all s with
  | (s, _, none) => (s.dropMove what id, none)
  | (s, left, some e) => (s.keepMove ⟨what, id, left, [], regs⟩, some e)

/-- Ranges read from an item's save area, from where a fault stopped the transfer before; what has been read stays until the
transfer is dropped. -/
def State.takeIn (s : State) (chain : List Nat) (ctx what id : Nat) (base : Word) (rs : List (Nat × Nat)) :
    State × Except (Word × FaultKind) (List Byte) :=
  let had := ((s.moveOf what id).map (·.got)).getD []
  let cuts := (rs.flatMap fun (off, n) => rangeCuts (base + BitVec.ofNat 64 off) n).drop had.length
  match readSectors chain ctx .readWrite cuts s had with
  | (s, got, none) => (s.keepMove ⟨what, id, [], got, []⟩, .ok got.reverse.flatten)
  | (s, got, some e) => (s.keepMove ⟨what, id, [], got, []⟩, .error e)

/-! ### The warp save area -/

/-- The base of a warp's save area (18 R392). -/
def State.saveBase (s : State) (w : Warp) : Word :=
  match AMap.get s.ctxs w.ctx with
  | some c => c.wsb + BitVec.ofNat 64 (0x24000 * w.saveIdx)
  | none => 0

/-- C, where the control part begins (18 R393). -/
def controlOff (width : Nat) : Nat := 0xC00 + 2048 * width

/-- A bitmap of 256 names. -/
def bitmap (p : Nat → Bool) : List Byte :=
  bytesOf 32 ((List.range 256).foldl (fun a n => if p n then a + 2 ^ n else a) 0)

/-- The control quadword (05 Table 5.3); RESV counts what a spilled warp gets back at its refill. -/
def Warp.controlQuad (w : Warp) : Nat :=
  (if w.strict then 2 ^ 16 else 0) + w.nw * 2 ^ 11 + (if w.width = 16 then 0 else if w.width = 32 then 1 else 2) * 2 ^ 9
  + ((w.res ++ w.refillRes).map (·.2)).sum % 512

/-- A saved binding (09 Table 9.2). -/
def bindingCode : Option Binding → Nat
  | none => 0
  | some b => b.line * 2 ^ 20 + b.endPred.toNat * 2 ^ 8 + (if b.push then 2 else 0) + 1

/-- Lanes of a mask below the width. -/
def widthMask (w : Nat) : Mask := Mask.of w fun _ => true

/-- The register part (05 Table 5.2); vector registers only where mapped. -/
def Warp.registerPieces (w : Warp) : List (Nat × List Byte) :=
  [(0, bitmap w.mapped), (0x20, bitmap fun n => ((AMap.get w.v n).map (·.pending)).getD false),
   (0x40, bytesOf 8 w.controlQuad ++ List.replicate 56 0),
   (0x80, (List.range 15).flatMap (fun k => bytesOf 8 (w.preg k &&& widthMask w.width).toNat) ++ bytesOf 8 0),
   (0x100, (List.range 16).flatMap fun k => bytesOf 16 (bindingCode (AMap.get w.q k))),
   (0x200, (List.range 32).flatMap fun k => bytesOf 16 (w.treg k).toNat),
   (0x400, (List.range 256).flatMap fun k => bytesOf 8 (w.wreg k).toNat)]
  ++ w.v.map fun (n, r) => (0xC00 + n * 8 * w.width, r.lanes.flatMap fun x => bytesOf 8 x.toNat)

/-- The barrier-wait quadword (18 Table 18.3). -/
def BarWait.code : BarWait → Nat
  | .named b t => t % 2 ^ 32 + b * 2 ^ 32 + 2 ^ 40
  | .team b t => t % 2 ^ 32 + b * 2 ^ 32 + 2 ^ 41

/-- The PC table entry of a lane (18 Table 18.3). -/
def Lane.bytes (x : Lane) : List Byte :=
  bytesOf 8 x.pc.toNat ++ bytesOf 8 ((if x.live then 1 else 0) + (if x.held then 2 else 0) + x.bypass * 4
    + (if x.hlane then 256 else 0) + (if x.tret then 512 else 0))

/-- The warp state quadword (18 Table 18.4), given its saved matrix entries. -/
def Warp.stateQuad (w : Warp) (nent : Nat) : Nat :=
  nent * 256 + (if w.pend then 4 else 0) + (if w.stop then 2 else 0) + (if w.handler then 1 else 0)

/-- The control part at C, without the matrix source blocks (18 Table 18.3, 09 Table 9.7). -/
def Warp.controlPieces (w : Warp) (nent : Nat) : List (Nat × List Byte) :=
  let c := controlOff w.width
  let q (off : Nat) (x : Word) : Nat × List Byte := (c + off, bytesOf 8 x.toNat)
  [(c, bytesOf 8 (w.stateQuad nent)), q 0x8 w.tepc, q 0x10 w.tcause, q 0x18 w.tinfo, q 0x20 w.tmask, q 0x28 w.hvec,
   q 0x30 w.mode, q 0x38 w.status, q 0x40 w.cnta, q 0x48 w.cntb, (c + 0x50, bytesOf 8 w.pts),
   (c + 0x58, bytesOf 8 ((w.barWaits.head?.map (·.wait.code)).getD 0)),
   (c + 0x60, bytesOf 8 ((if w.task.valid then 1 else 0) + w.task.root.toNat / 64 * 64) ++ bytesOf 8 w.task.tw),
   (c + 0x70, List.replicate 16 0),
   (c + 0x80, w.lanes.flatMap fun x => bytesOf 4 x.sr.toNat),
   (c + 0x180, List.replicate 128 0),
   (c + 0x200, w.lanes.flatMap Lane.bytes),
   (c + 0x600, List.replicate 512 0)]

/-- Gang order: the turn of the issue, which a step's own order breaks where one quarter issues twice at one time (11 R243). -/
def Entry.before (a b : Entry) : Bool := a.turn < b.turn || (a.turn == b.turn && a.issued < b.issued)

/-- The matrix entries of a warp in its cluster, in gang order (18 Table 18.4). -/
def State.entriesOf (s : State) (wid : Nat) : List Entry :=
  sortBy (fun a b : Entry => a.before b) (((s.cluster (clusterOf wid)).entries.filter fun (_, e) => e.wid == wid).map (·.2))

/-- The matrix source blocks of a warp's entries, which stand in gang order (18 Table 18.3). -/
def Warp.sourcePieces (w : Warp) (es : List Entry) : List (Nat × List Byte) :=
  let lanes (l : List Word) : List Byte := (List.range w.width).flatMap fun k => bytesOf 8 ((l[k]?).getD 0).toNat
  es.zipIdx.flatMap fun (e, j) =>
    let off := controlOff w.width + 0x800 + 16 * w.width * j
    [(off, lanes e.src1), (off + 8 * w.width, lanes e.src2)]

/-- A stopped warp's control part written to its save area (18 R394); a translation fault is recorded with unit 7, and the
transfer goes on from there (18 R392). -/
def State.saveControl (s : State) (wid : Nat) : State :=
  match s.warp? wid with
  | none => s
  | some w =>
    let es := s.entriesOf wid
    match s.sendOut [tlbCluster (clusterOf wid)] w.ctx 6 wid (s.saveBase w) (w.controlPieces es.length ++ w.sourcePieces es) with
    | (s, none) => s
    | (s, some (va, k)) => (s.recordFault (dieOf wid) w.ctx 7 .readWrite k va (.control wid)).getD s

/-- Units of reservation taken from a list of bundles, in order. -/
def takeRes (res : AMap Nat) : List Nat → Nat → AMap Nat
  | [], _ => res
  | b :: bs, n =>
    let have_ := AMap.getD res b 0
    let k := min have_ n
    takeRes (if have_ - k = 0 then AMap.erase res b else AMap.set res b (have_ - k)) bs (n - k)

/-- Two reservations of a warp together (05 R113). -/
def joinRes (a b : AMap Nat) : AMap Nat := b.foldl (fun m (k, n) => AMap.upd m k 0 (· + n)) a

/-- A reservation brought to the size that a control quadword gives it: from its lowest bundles where it falls, to its lowest
where it grows (05 Table 5.3 RESV, which names no bundle; DESIGN CHOICE, assumption 102). -/
def resized (res : AMap Nat) (n : Nat) : AMap Nat :=
  let now := (res.map (·.2)).sum
  if now % 512 = n then res
  else if n < now then takeRes res (res.map (·.1)) (now - n)
  else match res with
    | (b, k) :: rest => (b, k + (n - now)) :: rest
    | [] => []

/-- The control quadword taken back (05 R103): STRICT and NWGRP. WCODE names the width that the launch gave the lanes, which
stays (assumption 102). -/
def Warp.takeQuad (w : Warp) (x : Nat) : Warp :=
  let n := natBits x 15 11
  { w with strict := x.testBit 16, nw := if 1 ≤ n && n ≤ 16 then n else w.nw }

/-- The register part restored from its bytes (05 R102). -/
def Warp.restoreRegisters (w : Warp) (rd : Nat → Nat → Nat) (queueAt : Nat → Bool) : Warp :=
  let w := w.takeQuad (rd 0x40 8)
  let mapped := rd 0 32
  let pending := rd 0x20 32
  let vreg (n : Nat) : VReg :=
    ⟨(List.range w.width).map fun l => BitVec.ofNat 64 (rd (0xC00 + n * 8 * w.width + 8 * l) 8),
     pending / 2 ^ n % 2 == 1⟩
  let binding (k : Nat) : Option Binding :=
    let x := rd (0x100 + 16 * k) 4
    let b : Binding := ⟨natBits x 1 1 == 1, BitVec.ofNat 4 (natBits x 11 8), natBits x 31 20⟩
    if natBits x 0 0 == 1 && queueAt b.line then some b else none
  { w with
    v := (List.range 256).filterMap fun n => if mapped / 2 ^ n % 2 == 1 then some (n, vreg n) else none
    p := (List.range 15).filterMap fun k =>
      let x := BitVec.ofNat 64 (rd (0x80 + 8 * k) 8) &&& widthMask w.width
      if x = 0 then none else some (k, x)
    q := (List.range 16).filterMap fun k => (binding k).map fun b => (k, b)
    t := (List.range 32).filterMap fun k =>
      let x := BitVec.ofNat 128 (rd (0x200 + 16 * k) 16)
      if x = 0 then none else some (k, x)
    w := (List.range (16 * w.nw)).filterMap fun k =>
      let x := BitVec.ofNat 64 (rd (0x400 + 8 * k) 8)
      if x = 0 then none else some (k, x)
    res := resized w.res (rd 0x40 8 % 512) }

/-- A barrier-wait quadword read back. -/
def barWaitOf (x : Nat) : Option BarWait :=
  match natBits x 41 40 with
  | 1 => some (.named (natBits x 39 32) (natBits x 31 0))
  | 2 => some (.team (natBits x 39 32) (natBits x 31 0))
  | _ => none

/-- The PC table and TEPC taken from the stop record (04 R86, 18 R394); a lane whose recorded PC differs from the one it had
is marked as a debugger's change. -/
def Warp.restoreLanes (w : Warp) (rd : Nat → Nat → Nat) : Warp :=
  let c := controlOff w.width
  let lane (x : Lane) (l : Nat) : Lane :=
    let pc := BitVec.ofNat 64 (rd (c + 0x200 + 16 * l) 8)
    let fl := rd (c + 0x208 + 16 * l) 8
    { x with
      pc := pc, live := natBits fl 0 0 == 1, held := natBits fl 1 1 == 1, bypass := natBits fl 7 2
      hlane := natBits fl 8 8 == 1, tret := natBits fl 9 9 == 1, changed := x.changed || pc != x.pc }
  { w with
    tepc := BitVec.ofNat 64 (rd (c + 0x8) 8)
    lanes := w.lanes.zipIdx.map fun (x, l) => lane x l }

/-- The control part restored from its bytes; reserved bits read 0, and the stochastic-rounding state is never zero (18 R393,
02 R31, 07 Table 7.2). -/
def Warp.restoreControl (w : Warp) (rd : Nat → Nat → Nat) : Warp :=
  let c := controlOff w.width
  let q (off : Nat) : Word := BitVec.ofNat 64 (rd (c + off) 8)
  let st := rd c 8
  let cnta := rd (c + 0x40) 8
  let cntb := rd (c + 0x48) 8
  let w := w.restoreLanes rd
  { w with
    handler := natBits st 0 0 == 1, stop := natBits st 1 1 == 1, pend := natBits st 2 2 == 1
    tcause := q 0x10 &&& 0xFF#64, tinfo := q 0x18, tmask := q 0x20, hvec := q 0x28, mode := modeWrite w.mode (q 0x30)
    zlane := (q 0x38).getLsbD 0
    counters := (List.range 12).filterMap fun k =>
      let n := if k < 10 then natBits cnta (6 * k + 5) (6 * k) else natBits cntb (6 * (k - 10) + 5) (6 * (k - 10))
      if n = 0 then none else some (k, n)
    pts := rd (c + 0x50) 8
    barWaits := match barWaitOf (rd (c + 0x58) 8), w.barWaits with
      | some b, h :: rest => { h with wait := b } :: rest
      | none, _ :: rest => rest
      | _, [] => []
    task := ⟨natBits (rd (c + 0x60) 8) 0 0 == 1, rd (c + 0x68) 8, BitVec.ofNat 64 (rd (c + 0x60) 8 / 64 * 64)⟩
    lanes := w.lanes.zipIdx.map fun (x, l) => { x with sr := srStore (BitVec.ofNat 32 (rd (c + 0x80 + 4 * l) 4)) } }

/-! ### What engines gave a warp while it was saved (10 R227) -/

/-- A restored warp with what its engines have given it since it was saved: decrements of its counters, and results in its
uniform and vector registers. `was` is the warp as it was saved, `now` what stands kept of it. -/
def Warp.since (w was now : Warp) : Warp :=
  let counters := (List.range 12).foldl (fun w k => w.setCounter k (w.counter k - (was.counter k - now.counter k))) w
  let landed := was.awaitW.filter fun n => !now.awaitW.contains n
  let w := landed.foldl (fun w n => w.setW n (now.wreg n)) counters
  let lanes (n : Nat) (r : VReg) : VReg :=
    { r with lanes := r.lanes.zipIdx.map fun (x, l) => if now.vreg n l != was.vreg n l then now.vreg n l else x }
  let got := was.awaitV.filter fun n => !now.awaitV.contains n
  { w with v := w.v.map fun (n, r) => (n, if got.contains n then lanes n r else r) }

end Sys2Proof.Machine
end

