-- ==== Sys2Proof/Machine/Ops.lean ====
section
/-! DEFINITION. The shared operations of an issued instruction: moving lanes, halting a context, taking a trap and returning from it, and the steps every instruction takes around its own effect (03 R60, 04 R85, 05 R104-R119, 10 R224-R226, 18 R397-R407). -/
namespace Sys2Proof.Machine

/-! ### Moving lanes -/

/-- Whether a lane still draws on a bundle's reservation (05 R111). -/
def Lane.usesBundle (x : Lane) (id : Nat) : Bool :=
  x.live && ((x.stage == .inBody && x.bundle == id) || x.homeBundle == id)

/-- Reservations whose last lane has left the body return (05 R111). -/
def Warp.trimRes (w : Warp) : Warp :=
  { w with res := w.res.filter fun (id, n) => n != 0 && w.lanes.any fun x => x.usesBundle id }

/-- Lanes move to a header, which they enter under R42 (03 R42). -/
def Warp.goHeader (w : Warp) (m : Mask) (a : Word) (way : Way) : Warp :=
  (w.modLanes m fun x => { x with pc := a, hdr := a, stage := .arrived, way := way, bundle := 0, changed := false }).trimRes

/-- Lanes go past an instruction: to the next parcel, or by fall-through from the end of the body (03 R43). -/
def Warp.advance (w : Warp) (c : Cur) (m : Mask) : Warp :=
  let hd := headerOf c.hword
  if c.next == bodyEnd c.hdr hd then w.goHeader m (nextHeader c.hdr hd) .fallThrough
  else w.modLanes m fun x => { x with pc := c.next }

/-- Lanes that do not take a transfer go to N(H) (04 R89). -/
def Warp.goNext (w : Warp) (c : Cur) (m : Mask) : Warp :=
  if m = 0 then w else w.goHeader m (nextHeader c.hdr (headerOf c.hword)) .fallThrough

/-- The handler level ends when no live lane runs at it (18 R399). -/
def Warp.settleHandler (w : Warp) : Warp :=
  if w.handler && !(w.lanes.any fun x => x.live && x.hlane) then
    { w with handler := false, lanes := w.lanes.map fun x => { x with tret := false } }
  else w

/-! ### Counters (10 R224-R226) -/

/-- The counter an instruction counts against, if any (03 R57). -/
def counterOf (f : Fields) : Option Nat := if f.counter.toNat ≤ 11 then some f.counter.toNat else none

/-- An operation completes: its counter falls by one, never below 0; a release leaves its times with the counter. -/
def State.countDown (s : State) (wid : Nat) (k : Option Nat) (rel : Nat) : State :=
  match k with
  | none => s
  | some k => s.modWarp wid fun w =>
    { w.setCounter k (w.counter k - 1) with relTimes := AMap.set w.relTimes k (max (AMap.getD w.relTimes k 0) rel) }

/-- An operation starts: its counter rises by one, never above 63. -/
def Warp.countUp (w : Warp) (k : Option Nat) : Warp :=
  match k with
  | none => w
  | some k => w.setCounter k (min 63 (w.counter k + 1))

/-- A satisfied wait acquires what released operations left with the counter (10 R226, 13 R309). -/
def Warp.acquireCounter (w : Warp) (k : Nat) : Warp := { w with pts := max w.pts (AMap.getD w.relTimes k 0) }

/-! ### Halting a context, and traps (18 R397-R400, R407) -/

/-- Cause codes (18 Table 18.6). -/
def Cause.code : Cause → Nat
  | .illegalParcel => 0x01 | .illegalOpcode => 0x02 | .illegalField => 0x03 | .badTarget => 0x04
  | .demandOver => 0x05 | .regReleased => 0x06 | .level => 0x07 | .break_ => 0x08 | .trap => 0x09
  | .spAlign => 0x10 | .spRange => 0x11 | .spQueue => 0x12 | .qUnbound => 0x13 | .qDir => 0x14
  | .qClosed => 0x15 | .qFit => 0x16 | .qNone => 0x17 | .taskNone => 0x18 | .taskHeld => 0x19
  | .phaseBad => 0x1A | .barCount => 0x20 | .barRange => 0x21 | .gangCount => 0x22 | .mxNoGang => 0x23
  | .mxNoTile => 0x24 | .mxRange => 0x25 | .mxDesc => 0x26 | .memAlign => 0x28 | .memRange => 0x29
  | .trQueue => 0x30 | .trHandle => 0x31 | .trState => 0x32 | .trSlot => 0x33 | .trFit => 0x34
  | .pageFault => 0x38 | .memUncorrect => 0x39 | .double => 0x3A | .owner => 0x3B | .supervisor => 0x3C

/-- The halt line of a context: the first event writes HCAUSE, HINFO and HWHO and starts the walk; later ones change
nothing (18 R407). -/
def State.haltCtx (s : State) (ctx : Nat) (c : Cause) (info : Word) (who : Option Nat) : State :=
  s.modCtx ctx fun k =>
    if k.state == .running then
      { k with
        state := .halting, hcause := c.code, hinfo := info, haltStep := 1, haltFrom := s.uid
        hwho := match who with
          | some i => BitVec.ofNat 64 (i + 2 ^ 16)
          | none => 0 }
    else k

/-- Lanes enter the handler: LEVEL 1, HLANE, and the PC HVEC (18 R399); they keep the block and reservation they leave
(05 R111). -/
def Warp.enterHandler (w : Warp) (m : Mask) : Warp :=
  { w.modLanes m fun x =>
      let inBody := x.stage == .inBody
      { x with
        hlane := true, homeHdr := x.hdr, homeBundle := if inBody then x.bundle else 0, pc := w.hvec, hdr := w.hvec
        stage := .arrived, way := .trapEntry, bundle := 0, changed := false }
    with handler := true }

/-- Bit `c` of a routing mask. -/
def routed (m : Word) (c : Cause) : Bool := m.getLsbD c.code

/-- A warp whose trap halts its context: it issues nothing more (04 R85, 18 R398), and while the context halts already its
trap is left pending (18 R414). -/
def Warp.stopped (w : Warp) (halting : Bool) : Warp := { w with pend := w.pend || halting, asked := .halt }

/-- TAKING A TRAP of cause 0x01 to 0x34 (18 R398): the four values recorded, a search under way at its PC given up, then
the route: DOUBLE at handler level, the warp's handler, the supervisor, or the halt of the context. -/
def State.takeTrap (s : State) (wid : Nat) (c : Cause) (bundle mask : Mask) (info tepc : Word) : State :=
  match s.warp? wid with
  | none => s
  | some w =>
    let w := { w with
      tcause := BitVec.ofNat 64 c.code, tmask := mask, tepc := tepc, tinfo := info
      search := w.search.filter fun x => x.1 != tepc }
    match AMap.get s.ctxs w.ctx with
    | none => s.setWarp wid w
    | some k =>
      if w.handler then
        (s.setWarp wid (w.stopped (k.state != .running))).haltCtx w.ctx .double info (some w.saveIdx)
      else if routed k.deleg c && w.hvec != 0 then s.setWarp wid (w.enterHandler bundle)
      else if routed k.supv c then
        let s := s.setWarp wid { w with stop := true }
        (s.modDie (dieOf wid) fun d =>
          { d with traps := d.traps ++ [⟨w.ctx, wid, w.saveIdx, w.tcause, w.tinfo⟩] }).saveControl wid
      else
        (s.setWarp wid (w.stopped (k.state != .running))).haltCtx w.ctx c info (some w.saveIdx)

/-- RETURN FROM A TRAP by HRET (18 R404): the lanes take TEPC, leave handler level and wait for its end. `home` is the
block of TEPC, or none where TEPC is a header. Lanes that return to the body they left draw on its reservation again
(05 R111). -/
def Warp.trapReturn (w : Warp) (m : Mask) (home : Option Word) : Warp :=
  (w.modLanes m fun x =>
    match home with
    | none =>
      { x with
        pc := w.tepc, hdr := w.tepc, stage := .arrived, way := .transfer, bundle := 0, homeBundle := 0
        hlane := false, tret := true, changed := false }
    | some h =>
      { x with
        pc := w.tepc, hdr := h, stage := .inBody, bundle := if h == x.homeHdr then x.homeBundle else 0
        homeBundle := 0, hlane := false, tret := true, changed := false }).trimRes.settleHandler

/-! ### The steps around an instruction's own effect -/

/-- What an instruction's own effect is given: its bundle, the warp at issue, its active lanes, and the delivered value of
operand `i` at lane `l`; `next i k l` is that of the `k`-th register after it. -/
structure Iss where
  c : Cur
  w : Warp
  e : Enc
  f : Fields
  act : Mask
  src : Nat → Nat → Word
  next : Nat → Nat → Nat → Word

/-- The lowest active lane. -/
def Iss.low (i : Iss) : Nat := i.act.lowest.getD 0
/-- The slot of the warp. -/
def Iss.wid (i : Iss) : Nat := i.c.wid
/-- Operand `k`. -/
def Iss.op (i : Iss) (k : Nat) : Operand := opAt i.f k
/-- The value of an operand that is uniform: a w register or an immediate. -/
def Iss.uni (i : Iss) (k : Nat) : Word := i.src k i.low
/-- One value a lane written to operand 0. -/
def Iss.dest (i : Iss) (val : Nat → Word) : List Wr := toDest i.f.op0 i.act val

/-- Predicate bits written to every active lane of operand `k`. -/
def Iss.bits (i : Iss) (k : Nat) (bit : Nat → Bool) : List Wr :=
  match i.op k with
  | .p n => [.p n.toNat i.act (Mask.of 64 bit)]
  | _ => []

/-- How an instruction's own effect ends. -/
inductive Res where
  /-- The effect is in the state; the writes follow, and the bundle goes past the instruction. -/
  | ok (s : State) (ws : List Wr)
  /-- The same, but the lanes move as given. -/
  | move (s : State) (ws : List Wr) (mv : Warp → Warp)
  /-- A precise trap with its TINFO: no effect. -/
  | trap (c : Cause) (info : Nat)
  /-- A transfer's target fails: the lanes that are not active go on, and the active ones trap where they are (03 R41). -/
  | stay (c : Cause) (info : Nat) (mv : Warp → Warp)
  /-- The lanes move as given and then the warp takes the trap (BREAK, TRAP). -/
  | raise (c : Cause) (info : Nat) (tepc : Word) (mv : Warp → Warp)
  /-- The group is not ready; the state may have noted that it waits. -/
  | wait (s : State)
  /-- Part of its accesses are made: it stays where it is, and will make these writes once the others are (12 R275, 13 R300). -/
  | more (s : State) (ws : List Wr)
  /-- A translation fault: the bundle is held (14 R325). -/
  | hold (s : State) (unit : Nat) (acc : Acc) (va : Word) (k : FaultKind)

/-- The bundle stays where it is, not ready (04 R77). -/
def State.wait (s : State) : State := { s with waited := true }

/-- A bundle held under a recorded fault; with the fault queue full it waits to record it (14 R324, R325). -/
def State.holdBundle (s : State) (c : Cur) (ctx unit : Nat) (acc : Acc) (va : Word) (k : FaultKind) : State :=
  match s.recordFault (dieOf c.wid) ctx unit acc k va (.lanes c.wid c.pc) with
  | some s => (s.modWarp c.wid fun w => { w with faultPcs := c.pc :: w.faultPcs }).wait
  | none => s.wait

/-- The effects of an instruction issued with no active lane (05 R119): the identity to a uniform destination, false to
the predicates, ZLANE, and the last-use marks; the bundle goes past it. -/
def zeroActive (s : State) (e : Enc) (f : Fields) (c : Cur) (w : Warp) (ident : Word) : State :=
  let w := (w.applyMarks (marks e f) c.lanes).setZlane
  let write (w : Warp) (i : Nat) : Warp :=
    let pos := (e.ops[i]?).getD Enc.none_
    if !pos.dst then w
    else match opAt f i with
      | .w n => w.setW n.toNat ident
      | .p n => (List.range pos.regs).foldl (fun w k => w.setP (n.toNat + k) c.lanes 0) w
      | _ => w
  s.setWarp c.wid (((List.range 5).foldl write w).advance c c.lanes)

/-- The reservations of the bundles that a group's lanes belong to. -/
def Warp.groupBundles (w : Warp) (m : Mask) : List Nat :=
  ((m.lanes.filterMap fun l => (w.lanes[l]?).map (·.bundle)).filter (· != 0)).eraseDups

/-- Whether a group runs without a reservation because a debugger moved its lanes into a body (04 R87). -/
def Warp.groupChanged (w : Warp) (m : Mask) : Bool := m.lanes.any fun l => ((w.lanes[l]?).map (·.changed)).getD false

/-- How many registers the writes allocate, once the marks have released theirs (05 R104, R106). -/
def allocations (w : Warp) (ws : List Wr) : Nat :=
  ((ws.filterMap Wr.vreg?).eraseDups.filter fun n => !w.mapped n).length

/-- A request at the sluice, with the cycle of its arrival, unless it stands there already (05 R112). -/
def State.askSluice (s : State) (core : Nat) (r : SluiceReq) : State :=
  let now := (s.die (dieOfCore core)).cycles
  s.modCore core fun k =>
    if k.sluice.any fun x => x.2 == r then k else { k with sluice := k.sluice ++ [(now, r)] }

/-- Pushes made at their queues (09 R202). -/
def State.pushes (s : State) (push : Option (Nat × Nat)) (t : Nat) (ws : List Wr) : State :=
  match push with
  | none => s
  | some (al, line) =>
    ws.foldl (fun s x => match x with
      | .push _ xs => s.modAllot al fun a => a.pushAll line t xs
      | _ => s) s

/-- A warp with an instruction's last-use marks applied (05 R106). -/
def Warp.marked (w : Warp) (e : Enc) (f : Fields) (c : Cur) : Warp := w.applyMarks (marks e f) c.lanes

/-- The reservation of a group's bundles covers the registers its writes allocate (04 R87, 05 R111). -/
def Warp.covers (w : Warp) (c : Cur) (ws : List Wr) : Bool :=
  allocations w ws ≤ ((w.groupBundles c.lanes).map fun b => AMap.getD w.res b 0).sum

/-- A warp with an instruction's writes made and its allocations drawn from the group's reservation (05 R104, R111). -/
def Warp.written (w : Warp) (c : Cur) (ws : List Wr) : Warp :=
  ws.foldl Warp.apply { w with res := takeRes w.res (w.groupBundles c.lanes) (allocations w ws) }

/-- Marks and writes made, the lanes moved, and what it pushes at its queue. -/
def State.finish (s : State) (e : Enc) (f : Fields) (c : Cur) (push : Option (Nat × Nat)) (ws : List Wr)
    (mv : Warp → Warp) : State :=
  match s.warp? c.wid with
  | none => s
  | some w =>
    let w := w.marked e f c
    (s.setWarp c.wid (mv (w.written c ws))).pushes push w.pts ws

/-- What comes of an instruction by its writes: `s`, or DEMAND_OVER where the block's demand does not cover their allocation
(03 R46, 04 R87, 05 R111). `before` is the state without the instruction's effect, and `w` the warp after it. -/
def State.demanded (before s : State) (w : Warp) (e : Enc) (f : Fields) (c : Cur) (act : Mask) (ws : List Wr) : State :=
  if (w.marked e f c).covers c ws then s
  else if (w.marked e f c).groupChanged c.lanes then
    (before.askSluice (coreOf c.wid) (.bundle c.wid c.pc 1)).wait
  else before.takeTrap c.wid .demandOver c.lanes act (BitVec.ofNat 64 (act.lowest.getD 0)) c.pc

/-- Marks, allocation and writes, then the lanes move (05 R106, R111). -/
def commit (before s : State) (e : Enc) (f : Fields) (c : Cur) (act : Mask) (push : Option (Nat × Nat))
    (ws : List Wr) (mv : Warp → Warp) : State :=
  match s.warp? c.wid with
  | none => s
  | some w => before.demanded (s.finish e f c push ws mv) w e f c act ws

/-- What a pop operand gives the lanes that are not active: values that the spec does not state (assumption 128). -/
def idleLanes (free : Nat) (act : Mask) : AMap Word :=
  ((List.range 64).filter fun l => !act.has l).map fun l => (l, BitVec.ofNat 64 (Config.idlePop free l))

/-- The elements an instruction pops, lane by lane, and the waiting lists of its queues left (09 R202, R203). -/
def State.takeRings (s : State) (wid : Nat) (act : Mask) (pop : Option (Nat × Nat × Nat)) (bs : List Blocked) :
    State × AMap Word :=
  let r := match pop with
    | some (al, line, ep) =>
      let (s, xs) := popLanes wid al line ep act.lanes s []
      ({ s with free := s.free + 1 }, xs ++ idleLanes s.free act)
    | none => (s, [])
  (bs.foldl (fun s b => s.modCore (coreOf wid) fun x => x.leave b) r.1, r.2)

/-- What an instruction reads is delivered: its pops are made, and an update whose result it reads is no longer in flight (13 R308). -/
def State.deliver (s : State) (wid : Nat) (e : Enc) (f : Fields) (act : Mask) (pop : Option (Nat × Nat × Nat))
    (bs : List Blocked) : State × AMap Word :=
  let seen (x : Flight) : Bool := match x.until_ with
    | .read v => (vectorSources e f).contains v
    | _ => false
  let r := s.takeRings wid act pop bs
  if ((r.1.warp? wid).map fun w => w.flight.any seen).getD false then
    (r.1.landed wid seen, r.2)
  else r

/-- What an instruction of a bundle is given, with the elements it popped. -/
def Cur.iss (c : Cur) (w : Warp) (e : Enc) (f : Fields) (act : Mask) (popped : AMap Word) : Iss :=
  ⟨c, w, e, f, act, fun i l => w.source e f (fun l => AMap.getD popped l 0) i l, fun i k l => w.sourceNext e f i k l⟩

/-- A warp at issue once the pops are made: their end predicates are written before the instruction computes (09 R202). -/
def State.popped (s : State) (wid : Nat) (w : Warp) : Warp := { w with p := ((s.warp? wid).map (·.p)).getD w.p }

/-- How an instruction's own effect ends: `s` is the state before it, and `s1` that with its pops. -/
def State.conclude (s s1 : State) (e : Enc) (f : Fields) (c : Cur) (w : Warp) (act : Mask) (push : Option (Nat × Nat)) :
    Res → State
  | .ok s2 ws => commit s s2 e f c act push ws fun w => w.advance c c.lanes
  | .move s2 ws mv => commit s s2 e f c act push ws mv
  | .more s2 ws => s.demanded s2 w e f c act ws
  | .trap t info => s.takeTrap c.wid t c.lanes act (BitVec.ofNat 64 info) c.pc
  | .stay t info mv => (s.modWarp c.wid mv).takeTrap c.wid t act act (BitVec.ofNat 64 info) c.pc
  | .raise t info tepc mv =>
    (s1.modWarp c.wid fun w => mv (w.marked e f c)).takeTrap c.wid t c.lanes act (BitVec.ofNat 64 info) tepc
  | .wait s2 => s2.wait
  | .hold s2 unit acc va kind => s2.holdBundle c w.ctx unit acc va kind

/-- An instruction whose accesses have been made in part goes on with the others; what it read of its operands went with
them. -/
def State.goOn (s : State) (e : Enc) (f : Fields) (c : Cur) (w : Warp) (x : Sending) (body : Iss → State → Res) : State :=
  s.conclude s e f c w x.act none (body (c.iss { w with pts := x.pts } e f x.act []) s)

/-- An instruction with active lanes, its checks passed. -/
def effect (s : State) (e : Enc) (f : Fields) (c : Cur) (w : Warp) (act : Mask) (body : Iss → State → Res) : State :=
  match s.ringReady c.wid w c.pc e f act.count with
  | .trap t => s.takeTrap c.wid t c.lanes act (BitVec.ofNat 64 (act.lowest.getD 0)) c.pc
  | .blocked bs => (bs.foldl (fun s b => s.modCore (coreOf c.wid) fun x => x.enroll b) s).wait
  | .ready pop push bs =>
    let (s1, popped) := s.deliver c.wid e f act pop bs
    s.conclude s1 e f c w act push (body (c.iss (s1.popped c.wid w) e f act popped) s1)

/-- An instruction of a bundle: the decode checks (03 R60), LEVEL (18 R401), the interlocks (04 R78), the queue bindings
(09 R202), strict reads (05 R109), no active lane (05 R119), the counter's bound (10 R225), and then its own effect. -/
def issueOne (s : State) (e : Enc) (f : Fields) (c : Cur) (w : Warp) (ident : Word) (level : Bool)
    (body : Iss → State → Res) : State :=
  let act := activeLanes w f c.lanes
  let low := BitVec.ofNat 64 (act.lowest.getD 0)
  if !Enc.legal w.width w.nw e f then s.takeTrap c.wid .illegalField c.lanes c.lanes 0 c.pc
  else if level && !w.handler then s.takeTrap c.wid .level c.lanes c.lanes 0 c.pc
  else if w.interlocked e f || w.faultPcs.contains c.pc then s.wait
  else match s.ringBinding c.wid w e f with
    | some t => s.takeTrap c.wid t c.lanes act low c.pc
    | none =>
      if w.strict && (vectorSources e f).any (fun n => !w.mapped n) then
        s.takeTrap c.wid .regReleased c.lanes act low c.pc
      else if act = 0 then zeroActive s e f c w ident
      else if ((counterOf f).map fun k => w.counter k == 63).getD false then s.wait
      else effect s e f c w act body

/-- The meaning of an Irlek instruction: it runs for the bundle that the step names, or goes on with its accesses. -/
def irlek (e : Enc) (f : Fields) (s : State) (body : Iss → State → Res) (ident : Word := 0) (level : Bool := false) :
    Host.Outcome State Fault Refusal :=
  match s.cur with
  | none => .fault .noBundle
  | some c =>
    match s.warp? c.wid with
    | none => .fault .noBundle
    | some w => .next (match w.sending with
      | some x => s.goOn e f c w x body
      | none => issueOne s e f c w ident level body)

/-- An instruction whose own effect is one value a lane, and perhaps flags (06, 07). -/
def lanewise (e : Enc) (f : Fields) (s : State) (val : Iss → Nat → Word) : Host.Outcome State Fault Refusal :=
  irlek e f s fun i s => .ok s (i.dest (val i))

end Sys2Proof.Machine
end

