-- ==== Sys2Proof/Machine/CopyEngine.lean ====
section
/-! DEFINITION. The cluster's copy engine: its commands, their aligned 8-byte units, mapped granules, and completion (08 R181, R184-R190, R195, R196, 12 R297, 13 R308-R310, R313, 14 R325). -/
namespace Sys2Proof.Machine

/-! ### Scratchpad bytes, mapped or not -/

/-- The mapping that covers an offset, if any (08 R188). -/
def Allot.mapAt (a : Allot) (off : Nat) : Option (Nat × MapEntry) :=
  a.maps.find? fun (_, e) => !e.granules.isEmpty && e.off ≤ off && off < e.off + e.g * 4096

/-- The physical address that an offset stands for while its granule is registered. -/
def Allot.paOf (a : Allot) (off : Nat) : Option Nat :=
  match a.mapAt off with
  | some (_, e) => (e.granules[(off - e.off) / 4096]?).map fun g => g * 4096 + off % 4096
  | none => none

/-- Bytes of scratchpad written: in the order where they are mapped (08 R188, R194), at a time. -/
def State.spStore (s : State) (p al off : Nat) (bs : List Byte) : State × Nat :=
  match (AMap.get s.allots al).bind (·.paOf off) with
  | some pa => s.homeStore p pa bs
  | none => (s.modAllot al fun a => a.poke off bs, 0)

/-- Bytes of scratchpad read: in the order where they are mapped. -/
def State.spLoad (s : State) (p al off n : Nat) : State × List Byte × Nat :=
  match AMap.get s.allots al with
  | none => (s, List.replicate n 0, 0)
  | some a => match a.paOf off with
    | some pa => s.homeLoad p pa n true
    | none => (s, Memory.readN a.mem off n, 0)

/-! ### Pieces still to do -/

/-- Whether a unit is among ranges of units. -/
def inPieces (ps : List (Nat × Nat)) (k : Nat) : Bool := ps.any fun (a, b) => a ≤ k && k < b

/-- Ranges of units without one. -/
def dropPiece (ps : List (Nat × Nat)) (k : Nat) : List (Nat × Nat) :=
  ps.flatMap fun (a, b) =>
    if a ≤ k && k < b then (if a < k then [(a, k)] else []) ++ (if k + 1 < b then [(k + 1, b)] else [])
    else [(a, b)]

/-- Whether ranges of units hold one between two bounds. -/
def meetsPieces (ps : List (Nat × Nat)) (lo hi : Nat) : Bool := ps.any fun (a, b) => a < hi && lo < b

/-- How many aligned 8-byte units a command moves; a mapping command moves none. -/
def CmdKind.units : CmdKind → Nat
  | .copy _ _ rb rows _ => rb * rows / 8
  | .copyOut _ _ rb rows _ => rb * rows / 8
  | .spclr _ n => n / 8
  | .bulkCopy _ _ n => n / 8
  | .bulkFill _ n _ => n / 8
  | _ => 0

/-- The scratchpad range a command writes, whose lines it clears (08 R181). -/
def CmdKind.writes : CmdKind → Option (Nat × Nat)
  | .copy off _ rb rows _ => some (off, rb * rows)
  | .spclr off n => some (off, n)
  | _ => none

/-- The address of a packed unit's place in strided rows. -/
def stridedAddr (base : Word) (rb : Nat) (stride : Int) (k : Nat) : Word :=
  base + BitVec.ofInt 64 (stride * (8 * k / rb : Nat)) + BitVec.ofNat 64 (8 * k % rb)

/-- Whether a higher row writes the unit at an address too (08 R193). -/
def laterRow (base : Word) (rb rows : Nat) (stride : Int) (r : Nat) (a : Word) : Bool :=
  (List.range rows).any fun r' => r < r' && (a - (base + BitVec.ofInt 64 (stride * (r' : Int)))).toNat < rb

/-! ### Sending a command -/

/-- The lines of a range cleared by a command (08 R181). -/
def Allot.clearLines (a : Allot) (off n stamp : Nat) : Allot :=
  let lines := (List.range (ceilDiv (off % 128 + n) 128)).foldl (fun m i => AMap.set m (off / 128 + i) stamp) a.lines
  { a with lines := lines }

/-- A place in a cluster's command queue of 64 (08 R185). -/
def State.cpePlace (s : State) (cl : Nat) : Option Nat := AMap.freeKey (s.cluster cl).cpe 64

/-- A command put into a cluster's queue: its lines absent from then on (08 R181, R185). -/
def State.putCmd (s : State) (cl n : Nat) (c : Cmd) : State :=
  let c := { c with stamp := s.stamp + 1, todo := if c.kind.units = 0 then [] else [(0, c.kind.units)] }
  let s := { s with stamp := s.stamp + 1 }
  let s := s.modCluster cl fun x => { x with cpe := AMap.set x.cpe n c }
  match c.allot, c.kind.writes with
  | some al, some (off, bytes) => s.modAllot al fun a => a.clearLines off bytes c.stamp
  | _, _ => s

/-- Acquire, release and scope in modifiers [3:0] (08 R187). -/
def ordOf (f : Fields) : Ord := ⟨f.mods.getLsbD 0, f.mods.getLsbD 1, natBits f.mods.toNat 3 2⟩

/-- A warp sends a command: it counts up its counter and carries the warp's time (08 R186, 13 R310). The group is not ready while
the queue is full, nor while acquire would pass by a contribution of its lanes (13 R308). -/
def sendCmd (i : Iss) (s : State) (kind : CmdKind) (allot : Option Nat) (ord : Ord) (ws : List Wr) : Res :=
  let cl := clusterOf i.wid
  match (if ord.acquire && s.contributesIn i.wid ord.scope i.c.lanes then none else s.cpePlace cl) with
  | none => .wait s
  | some n =>
    let k := counterOf i.f
    let c : Cmd :=
      { kind := kind, owner := .warp i.wid k, ctx := i.w.ctx, launch := some i.w.launch, die := dieOf i.wid
        allot := allot, ord := ord, hint := i.f.hint, time := i.w.pts, stamp := 0, todo := []
        old := s.unsettled i.w i.wid ord.acquire ord.scope, times := ScopeTimes.zero, faulted := false, stopped := false }
    .ok ((s.putCmd cl n c).modWarp i.wid fun w => w.countUp k) ws

/-! ### One unit -/

/-- What an access of a unit finds. -/
inductive UnitAt where
  | at_ (pa : Nat) | wait | fault (acc : Acc) (va : Word) (k : FaultKind)

/-- The physical address of a unit, once its mapped line is present. -/
def State.unitAt (s : State) (cl : Nat) (c : Cmd) (va : Word) (acc : Acc) : State × UnitAt :=
  match s.engineTranslate [tlbCluster cl] c.ctx va acc with
  | (s, .error k) => (s, .fault acc va k)
  | (s, .ok pa) => if s.absentAt pa 8 then (s, .wait) else (s, .at_ pa)

/-- A command changed in its queue. -/
def State.modCmd (s : State) (cl n : Nat) (f : Cmd → Cmd) : State :=
  if cl < savedCluster then s.modCluster cl fun x => { x with cpe := AMap.modify x.cpe n f }
  else
    let g (x : Saved) : Saved := match x with
      | .cmd k c => .cmd k (f c)
      | x => x
    { s with saved := AMap.modify s.saved n g }

/-- A command held under a recorded fault, or waiting for a place in the fault queue (14 R324, R325). -/
def State.faultCmd (s : State) (cl n : Nat) (c : Cmd) (acc : Acc) (va : Word) (k : FaultKind) : State :=
  match s.recordFault (dieOfCluster cl) c.ctx 2 acc k va (.cpe cl n) with
  | some s => s.modCmd cl n fun c => { c with faulted := true }
  | none => s

/-- A unit done, with the time of its write. -/
def State.unitDone (s : State) (cl n k : Nat) (times : ScopeTimes) : State :=
  s.modCmd cl n fun c => { c with todo := dropPiece c.todo k, got := AMap.erase c.got k, times := times }

/-- A unit read: its write is another access (13 R300). -/
def State.unitRead (s : State) (cl n k : Nat) (x : Word) : State :=
  s.modCmd cl n fun c => { c with got := AMap.set c.got k x }

/-- A unit's data reach scratchpad: written unless a later command has cleared the line, and the line present once all of
this command's data for it are written (08 R181). -/
def State.arrive (s : State) (cl n k : Nat) (c : Cmd) (al base : Nat) (x : Word) : State :=
  let off := base + 8 * k
  let line := off / 128
  match AMap.get s.allots al with
  | none => s.unitDone cl n k c.times
  | some a =>
    if AMap.get a.lines line != some c.stamp then s.unitDone cl n k c.times
    else
      let (s, t) := s.spStore c.time al off (bytesOf 8 x.toNat)
      let times := match a.paOf off with
        | some pa => s.addTime c.times c.die pa t
        | none => c.times
      let rest := dropPiece c.todo k
      let s := s.unitDone cl n k times
      -- units of the line, as far as the command has them
      let lo := (line * 128 - base) / 8
      let hi := (line * 128 + 128 - base) / 8
      if meetsPieces rest lo hi then s
      else s.modAllot al fun a => { a with lines := AMap.erase a.lines line }

/-- A unit written to a global address at the command's time. -/
def State.unitStore (s : State) (cl n k : Nat) (c : Cmd) (pa : Nat) (x : Word) : State :=
  let (s, t) := s.engineWrite c.time pa (bytesOf 8 x.toNat) c.hint.toNat
  s.unitDone cl n k (s.addTime c.times c.die pa t)

/-- An access of a unit once its page is translated and its line present. -/
def State.unitAccess (s : State) (cl n : Nat) (c : Cmd) (va : Word) (acc : Acc)
    (done : State → Nat → State) : State :=
  match s.unitAt cl c va acc with
  | (s, .fault acc va kind) => s.faultCmd cl n c acc va kind
  | (s, .wait) => s
  | (s, .at_ pa) => done s pa

/-- A unit of global memory read for a command. -/
def State.unitFetch (s : State) (cl n k : Nat) (c : Cmd) (va : Word) : State :=
  s.unitAccess cl n c va .read fun s pa =>
    let (s, x, _) := s.engineRead c.time pa 8 c.old c.hint.toNat
    s.unitRead cl n k (BitVec.ofNat 64 x)

/-- One access of a unit of a command: what it moves is read, and then written (08 R193, R194, 12 R297, 13 R300). -/
def cpeUnit (s : State) (cl n k : Nat) (c : Cmd) : State :=
  match c.kind, AMap.get c.got k with
  | .copy _ addr rb _ stride, none => s.unitFetch cl n k c (stridedAddr addr rb stride k)
  | .copy off _ _ _ _, some x => s.arrive cl n k c (c.allot.getD 0) off x
  | .copyOut addr off rb rows stride, none =>
    if laterRow addr rb rows stride (8 * k / rb) (stridedAddr addr rb stride k) then s.unitDone cl n k c.times
    else if !((AMap.get s.allots (c.allot.getD 0)).map (·.present (off + 8 * k) 8)).getD true then s
    else
      let (s, bs, _) := s.spLoad c.time (c.allot.getD 0) (off + 8 * k) 8
      s.unitRead cl n k (BitVec.ofNat 64 (ofBytes bs))
  | .copyOut addr _ rb _ stride, some x =>
    s.unitAccess cl n c (stridedAddr addr rb stride k) .write fun s pa => s.unitStore cl n k c pa x
  | .spclr off _, _ => s.arrive cl n k c (c.allot.getD 0) off 0
  | .bulkCopy _ src _, none => s.unitFetch cl n k c (src + BitVec.ofNat 64 (8 * k))
  | .bulkCopy dst _ _, some x =>
    s.unitAccess cl n c (dst + BitVec.ofNat 64 (8 * k)) .write fun s pa => s.unitStore cl n k c pa x
  | .bulkFill dst _ pattern, _ =>
    s.unitAccess cl n c (dst + BitVec.ofNat 64 (8 * k)) .write fun s pa => s.unitStore cl n k c pa pattern
  | _, _ => s

/-- A command that may take a step: its context runs, and no unanswered fault holds it. -/
def State.cmdRuns (s : State) (c : Cmd) : Bool := s.ctxRuns c.ctx && !c.faulted && !c.stopped

/-- The line a unit of a command lies in. -/
def Cmd.lineOfUnit (c : Cmd) (k : Nat) : Nat :=
  let base := match c.kind with
    | .copy off _ _ _ _ => off
    | .copyOut _ off _ _ _ => off
    | .spclr off _ => off
    | .bulkCopy dst _ _ => dst.toNat
    | .bulkFill dst _ _ => dst.toNat
    | _ => 0
  (base + 8 * k) / 128

/-- A unit belongs to a line of which the command has moved something already. -/
def Cmd.lineBegun (c : Cmd) (k : Nat) : Bool :=
  let line := c.lineOfUnit k
  (List.range 31).any fun i =>
    let j := k + i - 15
    15 ≤ k + i && j < c.kind.units && c.lineOfUnit j == line && !inPieces c.todo j

/-- A command stands at a line boundary: every line is moved whole or not at all. -/
def Cmd.atBoundary (c : Cmd) : Bool :=
  c.todo.all fun (a, b) => !(c.lineBegun a) && !(c.lineBegun (b - 1))

/-- A unit that may be moved: its command runs, or it ends a line that the halt walk lets the command finish (18 Table
18.10). -/
def State.unitRuns (s : State) (c : Cmd) (k : Nat) : Bool :=
  s.cmdRuns c || (s.haltStepOf c.ctx == 3 && !c.faulted && c.lineBegun k)

/-! ### Mapped granules (08 R188-R190, 13 R313) -/

/-- The granules registered in one die's range table. -/
def State.rangesOf (s : State) (pa : Nat) : Nat :=
  (s.ranges.filter fun (g, _) => packageOf (g * 4096) == packageOf pa && homeDie (g * 4096) == homeDie pa).length

/-- A granule registered: its lines leave every cache and take their times at the owning core (13 R313). -/
def State.registerGranule (s : State) (al off pa : Nat) : State :=
  let lines := (List.range 16).map fun i => pa / 256 + i
  let times := lines.zipIdx.foldl (fun (m : AMap (Nat × Nat)) (line, i) =>
    let sum := s.summaryAt (line * 256)
    let t := match AMap.get s.l2 line with
      | some x => max x.rts sum
      | none => sum
    AMap.set m (off / 256 + i) (t, t)) (((AMap.get s.allots al).map (·.spTimes)).getD [])
  let gone {α : Type} (m : AMap α) : AMap α := lines.foldl AMap.erase m
  let bytesGone (m : AMap Byte) : AMap Byte := m.filter fun (a, _) => a / 4096 != pa / 4096
  { s with
    ranges := AMap.set s.ranges (pa / 4096) (al, off)
    l2 := gone s.l2, msc := gone s.msc, l2Behind := bytesGone s.l2Behind, mscBehind := bytesGone s.mscBehind
    cores := s.cores.map fun (k, c) => (k, { c with copies := gone c.copies })
    allots := AMap.modify s.allots al fun a => { a with spTimes := times } }

/-- Granules translated and checked one by one in ascending order: the first that fails gives its status or its fault
(08 R195; which status is given where several apply is the model's choice, assumption 14). -/
def mapGranules (cl ctx : Nat) : List Word → State → List Nat → State × Except (Nat ⊕ (Word × FaultKind)) (List Nat)
  | [], s, pas => (s, .ok pas)
  | va :: vas, s, pas =>
    match s.translate [tlbCluster cl] ctx va .readWrite with
    | (s, .error .noncanon) => (s, .error (.inr (va, .noncanon)))
    | (s, .error .accessed) => (s, .error (.inr (va, .accessed)))
    | (s, .error _) => (s, .error (.inl 3))
    | (s, .ok pa) =>
      let here := (pas.filter fun p => packageOf p == packageOf pa && homeDie p == homeDie pa).length
      if (AMap.get s.ranges (pa / 4096)).isSome || pas.contains pa then (s, .error (.inl 2))
      else if 8192 ≤ s.rangesOf pa + here then (s, .error (.inl 4))
      else mapGranules cl ctx vas s (pas ++ [pa])

/-- SPMAP done at its owning core: the whole range registered, or none of it (08 R195). All of its sectors count as dirty,
since memory is not yet what the range holds (DEDUCED from R189 and R190, assumption 15). -/
def State.mapRange (s : State) (cl : Nat) (c : Cmd) (entry off : Nat) (addr : Word) (g : Nat) :
    State × Except (Word × FaultKind) Nat :=
  let al := c.allot.getD 0
  match mapGranules cl c.ctx ((List.range g).map fun i => addr + BitVec.ofNat 64 (4096 * i)) s [] with
  | (s, .error (.inr e)) => (s, .error e)
  | (s, .error (.inl st)) => (s.modAllot al fun a => { a with maps := AMap.erase a.maps entry }, .ok st)
  | (s, .ok pas) =>
    let s := pas.zipIdx.foldl (fun s (pa, i) => s.registerGranule al (off + 4096 * i) pa) s
    let e : MapEntry :=
      { off := off, addr := addr, g := g, granules := pas.map (· / 4096)
        dirty := (List.range (32 * g)).map fun i => off / 128 + i }
    (s.modAllot al fun a => { a with maps := AMap.set a.maps entry e }, .ok 1)

/-- The dirty sectors of a mapping written to the memory behind it (08 R189). -/
def State.writeBack (s : State) (al entry : Nat) : State :=
  match AMap.get s.allots al with
  | none => s
  | some a => match AMap.get a.maps entry with
    | none => s
    | some e =>
      let mem := e.dirty.foldl (fun m sec =>
        match e.granules[(sec * 128 - e.off) / 4096]? with
        | some g => Memory.writeN m (g * 4096 + sec * 128 % 4096) (Memory.readN a.mem (sec * 128) 128)
        | none => m) s.mem
      { s with
        mem := mem
        allots := AMap.set s.allots al { a with maps := AMap.set a.maps entry { e with dirty := [] } } }

/-- A mapping deregistered after its write-back; each home line takes the owning core's rts (08 R190, 13 R313). -/
def State.unmapRange (s : State) (al entry : Nat) : State :=
  let s := s.writeBack al entry
  match AMap.get s.allots al with
  | none => s
  | some a => match AMap.get a.maps entry with
    | none => s
    | some e =>
      let s := { s with ranges := e.granules.foldl AMap.erase s.ranges }
      let s := (List.range (16 * e.g)).foldl (fun s i =>
        match e.granules[i / 16]? with
        | some g =>
          let rts := (AMap.getD a.spTimes (e.off / 256 + i) (0, 0)).2
          (s.roomInL2 (g * 16 + i % 16)).setTimes (g * 4096 + 256 * (i % 16)) rts rts
        | none => s) s
      s.modAllot al fun a => { a with maps := AMap.erase a.maps entry }

/-- Whether a mapping is registered and every dirty sector of it stands in a present line (08 R182). -/
def Allot.readyToWriteBack (a : Allot) (entry : Nat) : Bool :=
  match AMap.get a.maps entry with
  | some e => !e.granules.isEmpty && e.dirty.all fun sec => a.present (sec * 128) 128
  | none => true

/-! ### Completion (08 R186) -/

/-- Unfinished work of a Nibex command completes at a time (17 R383). -/
def State.nibexDone (s : State) (q serial t : Nat) : State :=
  s.modQueue q fun k =>
    let n := AMap.getD k.work serial 0
    { k with
      work := if n ≤ 1 then AMap.erase k.work serial else AMap.set k.work serial (n - 1), workTime := max k.workTime t }

/-- Its owner is told that a command has completed, with the times of its writes (10 R224, 13 R309, R312). -/
def State.ownerDone (s : State) (o : Owner) (ord : Ord) (times : ScopeTimes) : State :=
  match o with
  | .warp wid k =>
    let s := s.modWarp wid fun w => { w with cmdTimes := w.cmdTimes.max_ times }
    s.countDown wid k (if ord.release then times.at_ ord.scope else 0)
  | .nibex q serial => s.nibexDone q serial times.domain

/-- Whether an engine command or a waiting contribution of a launch is in flight, stopped ones included, or a gang of it holds tiles
(04 R93, 11 R242). -/
def State.launchBusy (s : State) (l : Nat) : Bool :=
  (s.clusters.any fun (_, c) => c.cpe.any fun (_, x) => x.launch == some l)
  || (s.dies.any fun d => d.builders.any fun b => b.queue.any fun c => c.launch == some l)
  || (s.slotWaits.any fun x => x.launch == l)
  || (s.gangs.any fun (_, g) => g.launch == l && g.tiles.isSome)
  || s.saved.any fun (_, x) => match x with
    | .cmd _ c => c.launch == some l
    | .build _ c => c.launch == some l
    | _ => false

/-- The exact slots a launch contributed to last close before its completion, which follows their writes (12 R283). -/
def State.closeLaunchSlots (s : State) (l t : Nat) : State × Nat :=
  ((s.slots.filter fun (_, x) => x.launch == l).map (·.1)).foldl (fun (s, u) k =>
    let (s, u') := s.tailrace t k none
    (s, max u u')) (s, t)

/-- The lateness of a launch counted in its queue (17 R386). -/
def State.countLate (s : State) (l : Launch) : State :=
  match l.queue with
  | none => s
  | some q =>
    if l.deadline = 0 || s.nsAt l.die ≤ l.deadline then s
    else s.modQueue q fun k =>
      { k with missed := (k.missed + 1) % 2 ^ 64, late := min (2 ^ 64 - 1) (k.late + (s.nsAt l.die - l.deadline)) }

/-- An exact slot of a launch lies in an absent mapped line, which its tailrace waits for (08 R182). -/
def State.slotsWait (s : State) (l : Nat) : Bool := s.slots.any fun (k, x) => x.launch == l && s.absentAt k x.size

/-- A launch completes once its last team has ended and nothing of it is in flight: its exact slots close, its lateness is
counted, and the completion is a release at domain scope (04 R93, 08 R180, 12 R283, 13 R314, 17 R386). -/
def State.finishLaunch (s : State) (lid : Nat) : State :=
  match AMap.get s.launches lid with
  | none => s
  | some l =>
    if l.teamsDone < l.teams || s.launchBusy lid || s.slotsWait lid then s
    else
      let (s, t) := s.closeLaunchSlots lid l.doneTime
      let s := s.countLate l
      let s := { s with launches := AMap.erase s.launches lid }
      let s := if s.launches.isEmpty then { s with codeOld := [] } else s
      s.ownerDone l.owner ⟨false, true, 2⟩ ⟨t, t, t⟩

/-- A command of a launch has ended at a time. -/
def State.launchWork (s : State) (l : Option Nat) (t : Nat) : State :=
  match l with
  | none => s
  | some l => (s.modLaunch l fun x => { x with doneTime := max x.doneTime t }).finishLaunch l

/-- Launches that waited for a line complete once it is present (08 R182). -/
def State.finishLaunches (s : State) : State := (s.launches.map (·.1)).foldl State.finishLaunch s

/-- A result an engine leaves in a uniform register of the warp that sent it, whose readers then go on (04 R78). -/
def State.laterW (s : State) (o : Owner) (n : Nat) (x : Word) : State :=
  match o with
  | .warp wid _ => s.modWarp wid fun w => { w.setW n x with awaitW := w.awaitW.erase n }
  | .nibex _ _ => s

/-- A command leaves its queue, complete. -/
def State.endCmd (s : State) (cl n : Nat) (c : Cmd) : State :=
  (((s.modCluster cl fun x => { x with cpe := AMap.erase x.cpe n }).ownerDone c.owner c.ord c.times).launchWork c.launch
    c.times.domain).finishLaunches

/-- A command completes if it can: its units are done and the lines it wrote are present, or its mapping is done. -/
def cpeComplete (s : State) (cl n : Nat) (c : Cmd) : State :=
  let al := c.allot.getD 0
  let ready (entry : Nat) : Bool := ((AMap.get s.allots al).map (·.readyToWriteBack entry)).getD true
  match c.kind with
  | .spmap dst entry off addr g =>
    match s.mapRange cl c entry off addr g with
    | (s, .error (va, k)) => s.faultCmd cl n c .readWrite va k
    | (s, .ok st) => (s.endCmd cl n c).laterW c.owner dst (BitVec.ofNat 64 st)
  | .spunmap entry => if ready entry then (s.unmapRange al entry).endCmd cl n c else s
  | .spwb entry => if ready entry then (s.writeBack al entry).endCmd cl n c else s
  | .copy off _ rb rows _ =>
    if c.todo.isEmpty && ((AMap.get s.allots al).map (·.present off (rb * rows))).getD true then s.endCmd cl n c else s
  | .spclr off bytes =>
    if c.todo.isEmpty && ((AMap.get s.allots al).map (·.present off bytes)).getD true then s.endCmd cl n c else s
  | _ => if c.todo.isEmpty then s.endCmd cl n c else s

end Sys2Proof.Machine
end

