-- ==== Sys2Proof/Machine/Parts.lean ====
section
/-! DEFINITION. Accesses of a bundle made one after another, in as many steps as the machine takes (12 R275, R279, 13 R300). -/
namespace Sys2Proof.Machine

/-! ### The coalescer (12 R275, R279, 13 R300) -/

/-- A request of the coalescer: a 256-byte line, which of its two sectors it names, and its accesses; those of one address are one
access of all their lanes. -/
structure Request where
  line : Nat
  mask : Nat
  accesses : List Access
  deriving DecidableEq, Repr

/-- Lanes' accesses, each with a lane, an address and the values brought, as one request a line, in ascending order of the lowest
lane that names the line (12 R275). -/
def requestsOf (xs : List (Nat × Nat × List Nat)) : List Request :=
  ((xs.map fun x => lineOf x.2.1).eraseDups).map fun line =>
    let here := xs.filter fun x => lineOf x.2.1 == line
    let pas := (here.map fun x => x.2.1).eraseDups
    ⟨line, (if pas.any fun pa => pa % 256 < 128 then 1 else 0) + (if pas.any fun pa => pa % 256 ≥ 128 then 2 else 0),
     pas.map fun pa => ⟨pa, (here.filter fun x => x.2.1 == pa).map fun x => (x.1, x.2.2), none⟩⟩

/-- What an access does to the machine, and what its lanes get. -/
abbrev AccessStep := State → Access → State × List (Nat × Nat)

/-- The package of an access has been removed from the domain (19 R433). -/
def State.goneFrom (s : State) (x : Access) : Bool := x.al.isNone && s.links.removed.contains (packageOf x.pa)

/-- The line of an access of `n` bytes is absent, or its package cannot be reached (08 R182, 19 R433). -/
def State.awayFrom (s : State) (x : Access) (n : Nat) : Bool :=
  match x.al with
  | none => s.absentAt x.pa n
  | some al => ((AMap.get s.allots al).map fun a => !a.present x.pa n).getD false

/-- Accesses of `n` bytes made one after another, as many as given; one whose line has become absent waits (08 R182), and one whose
package has been removed completes with no effect (19 R433). -/
def sendSome (one : AccessStep) (n : Nat) : Nat → List Access → State → AMap Nat → State × List Access × AMap Nat
  | _, [], s, got => (s, [], got)
  | 0, xs, s, got => (s, xs, got)
  | k + 1, x :: xs, s, got =>
    if s.goneFrom x then sendSome one n k xs s got
    else if s.awayFrom x n then (s, x :: xs, got)
    else
      let (s, ys) := one s x
      sendSome one n k xs s (ys.foldl (fun m y => AMap.set m y.1 y.2) got)

/-- A bundle still at its accesses whose warp has given registers up at the sluice: its writes wait for the refill (05 R113). -/
def Warp.reduced (w : Warp) : Bool := w.sending.isSome && !(w.spilled.isEmpty && w.refillRes.isEmpty)

/-- Accesses made, as many as this step makes, and the bundle's writes after the last of them. -/
def Iss.makes (i : Iss) (s : State) (n stamp : Nat) (xs : List Access) (got : AMap Nat) (one : AccessStep)
    (done : State → State) (ws : (Nat → Nat) → List Wr) : Res :=
  let (t, left, got) := sendSome one n (if s.burst = 0 then xs.length else s.burst) xs s got
  if left.isEmpty && !i.w.reduced then
    .ok (done (t.modWarp i.wid fun w => { w with sending := none })) (ws fun l => AMap.getD got l 0)
  else if left.length = xs.length then .wait s
  else
    let x : Sending :=
      ⟨i.c, (encodeFields i.e.opcode i.f), i.act, i.w.pts, left, got, stamp⟩
    .more (t.modWarp i.wid fun w => { w with sending := some x }) (ws fun _ => 0)

/-- The stamp of an instruction that reaches memory: a new one, or the one it goes on under. -/
def Iss.stamp (i : Iss) (s : State) : Nat := (i.w.sending.map (·.stamp)).getD (s.stamp + 1)

end Sys2Proof.Machine
end

