-- ==== Sys2Proof/Machine/Scratchpad.lean ====
section
/-! DEFINITION. Scratchpad instructions and the copy engine's events (08 R178-R196). -/
namespace Sys2Proof.Machine

/-- The bytes of an allotment (08 R178). -/
def Allot.size (a : Allot) : Nat := a.units * 4096

/-- The bytes of a queue's range: its descriptor line and its ring (09 R197). -/
def queueBytes (k : Nat) : Nat := 128 + alignUp (8 * 2 ^ k) 128

/-- The claimed ranges of an allotment: queues, deques, and the ray pools of trace slots (09 R199, 15 R329). -/
def State.claims (s : State) (id : Nat) (a : Allot) : List (Nat × Nat) :=
  (a.queues.map fun line => (line * 128, line * 128 + queueBytes (a.desc line).k))
  ++ a.deques.map (·.2)
  ++ (((s.core a.core).slots.filter fun (_, t) => t.allot == id).map fun (_, t) => (t.pool, t.pool + 256 * t.records))

/-- Whether a range overlaps one of a list of ranges. -/
def overlapsAny (rs : List (Nat × Nat)) (off n : Nat) : Bool := rs.any fun (a, b) => off < b && a < off + n

/-- The mapped ranges of an allotment. -/
def Allot.mappedRanges (a : Allot) : List (Nat × Nat) := a.maps.map fun (_, e) => (e.off, e.off + e.g * 4096)

/-- Bytes of an access (08 R192): one for .e2m1, 8 for packed types, .c32 and the 64-bit types. -/
def accessBytes (t : Ty) : Nat := if t.packed || t.width == 64 then 8 else if t.width < 8 then 1 else t.width / 8

/-- The value of an immediate operand, signed. -/
def immInt : Operand → Int
  | .imm x => immSigned x
  | _ => 0

/-- The lanes that access for a load: one for a w destination (06 R132). -/
def Iss.loadLanes (i : Iss) : List Nat :=
  match i.f.op0 with
  | .w _ => [i.low]
  | _ => i.act.lanes

/-- The first check, in its order, that a lane fails, with the lowest lane that fails it (08 R192, 18 R398). -/
def firstFailure (lanes : List Nat) : List (Cause × (Nat → Bool)) → Option (Cause × Nat)
  | [] => none
  | (c, ok) :: rest => match lanes.find? fun l => !ok l with
    | some l => some (c, l)
    | none => firstFailure lanes rest

/-- The checks of LDS and STS over the whole bundle: alignment, range, and for a store the claimed ranges (08 R192). -/
def spChecks (s : State) (id : Nat) (a : Allot) (i : Iss) (n : Nat) (addr : Nat → Int) (store : Bool) :
    Option (Cause × Nat) :=
  firstFailure i.act.lanes
    [(.spAlign, fun l => addr l % (n : Int) == 0),
     (.spRange, fun l => 0 ≤ addr l && addr l + n ≤ a.size),
     (.spQueue, fun l => !store || !overlapsAny (s.claims id a) (addr l).toNat n)]

/-- An access of lanes to offsets some of which are mapped is one to global memory: it waits while a contribution of the lanes has
no place (13 R298, R303). -/
def spWaits (s : State) (i : Iss) (a : Allot) (offs : List Nat) : Bool :=
  s.contributes i.wid i.c.lanes && offs.any fun off => (a.paOf off).isSome

/-- LDS of one address: every lane that names it gets the same bytes (08 R183, R192). Of a mapped line it is a load in the order of
13 R298 and moves the warp's clock. -/
def spLoadOne (i : Iss) (n : Nat) : AccessStep := fun s x =>
  let al := x.al.getD 0
  let (s, bs, t) := s.spLoad i.w.pts al x.pa n
  let s := match (AMap.get s.allots al).bind (·.paOf x.pa) with
    | some pa => s.seenAt i.wid pa n t
    | none => s
  (s.raisePts i.wid t, x.lanes.map fun y => (y.1, ofBytes bs))

/-- STS of one lane (08 R183, R192); to a mapped line it may still be in flight (13 R308). -/
def spStoreOne (i : Iss) (n : Nat) : AccessStep := fun s x =>
  let al := x.al.getD 0
  (x.lanes.foldl (fun s y =>
    let s := match (AMap.get s.allots al).bind (·.paOf x.pa) with
      | some pa => s.noteFlight i.wid pa .later
      | none => s
    let (s, t) := s.spStore i.w.pts al x.pa (bytesOf n (y.2.head?.getD 0))
    s.raisePts i.wid t) s, [])

/-- Another warp of the core is at an LDS or STS that has been made in part: this one's follow it (08 R183). -/
def State.spTaken (s : State) (wid : Nat) : Bool :=
  s.warps.any fun (k, w) => k != wid && coreOf k == coreOf wid && w.sending.any fun x => x.left.any fun y => y.al.isSome

/-- What LDS and STS do: the checks over the whole bundle; a wait for absent lines, for contributions that come before, and for an
LDS or STS before it; then the accesses in ascending lane order. Those of lines that are not mapped are made in one step: other
agents see nothing of them. Those of mapped lines are accesses of their own, so that others may fall between (08 R182, R183,
13 R298, R300). -/
def spAccess (i : Iss) (s : State) (store : Bool) (addr : Nat → Int) (accesses : Nat → List Access) (one : AccessStep)
    (ws : (Nat → Nat) → List Wr) : Res :=
  let n := accessBytes i.f.ty
  match i.w.sending with
  | some x => i.makes s n x.stamp x.left x.got one id ws
  | none => match s.allotOf i.wid i.w with
    | none => .trap .spRange i.low
    | some (id_, a) =>
      match spChecks s id_ a i n addr store with
      | some (c, l) => .trap c l
      | none =>
        let offs := i.act.lanes.map fun l => (addr l).toNat
        if !(offs.all fun off => a.present off n) || spWaits s i a offs || s.spTaken i.wid then .wait s
        else
          let xs := accesses id_
          let own (x : Access) : Bool := (a.paOf x.pa).isNone
          let r := sendSome one n xs.length (xs.filter own) { s with stamp := s.stamp + 1 } []
          i.makes r.1 n (s.stamp + 1) (xs.filter fun x => !own x) r.2.2 one id ws

/-- LDS (08 R191, R192). -/
def execLds (f : Fields) (s : State) : Host.Outcome State Fault Refusal :=
  irlek Enc.lds f s fun i s =>
    let addr (l : Nat) : Int := (i.src 1 l).toNat + immInt f.op2
    let offs := (i.loadLanes.map fun l => (addr l).toNat).eraseDups
    let lanesOf (off : Nat) : List (Nat × List Nat) :=
      (i.loadLanes.filter fun l => (addr l).toNat == off).map fun l => (l, [])
    spAccess i s false addr (fun al => offs.map fun off => ⟨off, lanesOf off, some al⟩) (spLoadOne i (accessBytes f.ty))
      fun got => i.dest fun l => f.ty.fill (BitVec.ofNat 64 (got l))

/-- STS (08 R191, R192). -/
def execSts (f : Fields) (s : State) : Host.Outcome State Fault Refusal :=
  irlek Enc.sts f s fun i s =>
    let addr (l : Nat) : Int := (i.src 0 l).toNat + immInt f.op1
    spAccess i s true addr
      (fun al => i.act.lanes.map fun l => ⟨(addr l).toNat, [(l, [(i.src 2 l).toNat])], some al⟩)
      (spStoreOne i (accessBytes f.ty)) fun _ => []

/-- A stride operand: a signed immediate or a w register, as its two's complement (08 R191). -/
def Iss.stride (i : Iss) (k : Nat) : Int := (i.uni k).toInt

/-- The limits of COPY and COPYOUT that issue checks (08 Table 8.2): alignment first, then the range. -/
def copyCheck (a : Allot) (off addr rb rows : Nat) (stride : Int) : Option Cause :=
  if off % 8 != 0 || addr % 8 != 0 || stride % 8 != 0 then some .spAlign
  else if rb % 8 != 0 || rb < 8 || 65536 < rb || rows < 1 || 4096 < rows || a.size < off + rows * rb then some .spRange
  else none

/-- COPY (08 R193). -/
def execCopy (f : Fields) (s : State) : Host.Outcome State Fault Refusal :=
  irlek Enc.copy f s fun i s =>
    match s.allotOf i.wid i.w with
    | none => .trap .spRange i.low
    | some (id, a) =>
      let off := (i.uni 0).toNat
      let rb := (i.uni 2).toNat
      let rows := (i.uni 3).toNat
      match copyCheck a off (i.uni 1).toNat rb rows (i.stride 4) with
      | some c => .trap c i.low
      | none =>
        if overlapsAny (s.claims id a) off (rows * rb) then .trap .spQueue i.low
        else sendCmd i s (.copy off (i.uni 1) rb rows (i.stride 4)) (some id) (ordOf f) []

/-- COPYOUT (08 R193). -/
def execCopyout (f : Fields) (s : State) : Host.Outcome State Fault Refusal :=
  irlek Enc.copyout f s fun i s =>
    match s.allotOf i.wid i.w with
    | none => .trap .spRange i.low
    | some (id, a) =>
      let off := (i.uni 1).toNat
      let rb := (i.uni 2).toNat
      let rows := (i.uni 3).toNat
      match copyCheck a off (i.uni 0).toNat rb rows (i.stride 4) with
      | some c => .trap c i.low
      | none => sendCmd i s (.copyOut (i.uni 0) off rb rows (i.stride 4)) (some id) (ordOf f) []

/-- No acquire, no release. -/
def Ord.plain : Ord := ⟨false, false, 0⟩

/-- SPCLR (08 R194). -/
def execSpclr (f : Fields) (s : State) : Host.Outcome State Fault Refusal :=
  irlek Enc.spclr f s fun i s =>
    match s.allotOf i.wid i.w with
    | none => .trap .spRange i.low
    | some (id, a) =>
      let off := (i.uni 0).toNat
      let n := (i.uni 1).toNat
      if off % 128 != 0 then .trap .spAlign i.low
      else if n % 128 != 0 || n < 128 || a.size < off + n then .trap .spRange i.low
      else if overlapsAny (s.claims id a) off n then .trap .spQueue i.low
      else sendCmd i s (.spclr off n) (some id) Ord.plain []

/-- SPMAP (08 R195): an entry is taken at issue, and the status follows at completion; with no free entry the status is 5 at
once and nothing is sent. -/
def execSpmap (f : Fields) (s : State) : Host.Outcome State Fault Refusal :=
  irlek Enc.spmap f s fun i s =>
    match s.allotOf i.wid i.w with
    | none => .trap .spRange i.low
    | some (id, a) =>
      let off := (i.uni 1).toNat
      let g := (i.uni 3).toNat
      if off % 4096 != 0 || (i.uni 2).toNat % 4096 != 0 then .trap .spAlign i.low
      else if g < 1 || 96 < g || a.size < off + 4096 * g then .trap .spRange i.low
      else if overlapsAny (s.claims id a) off (4096 * g) then .trap .spQueue i.low
      else match AMap.freeKey a.maps 16, f.op0 with
        | some entry, .w n =>
          match sendCmd i s (.spmap n.toNat entry off (i.uni 2) g) (some id) Ord.plain [.wLater n.toNat] with
          | .ok s ws =>
            .ok (s.modAllot id fun a => { a with maps := AMap.set a.maps entry ⟨off, i.uni 2, g, [], []⟩ }) ws
          | r => r
        | _, _ => .ok s (i.dest fun _ => 5)

/-- The entry of the mapping table that begins at an offset. -/
def Allot.entryAt (a : Allot) (off : Nat) : Option Nat := (a.maps.find? fun (_, e) => e.off == off).map (·.1)

/-- SPUNMAP and SPWB name the first offset of an entry (08 Table 8.2, R196). -/
def spEntry (e : Enc) (f : Fields) (s : State) (kind : Nat → CmdKind) : Host.Outcome State Fault Refusal :=
  irlek e f s fun i s =>
    match s.allotOf i.wid i.w with
    | none => .trap .spRange i.low
    | some (id, a) =>
      match a.entryAt (i.uni 0).toNat with
      | none => .trap .spRange i.low
      | some n => sendCmd i s (kind n) (some id) Ord.plain []

/-- SPUNMAP (08 R196). -/
def execSpunmap (f : Fields) (s : State) : Host.Outcome State Fault Refusal := spEntry Enc.spunmap f s .spunmap

/-- SPWB (08 R196). -/
def execSpwb (f : Fields) (s : State) : Host.Outcome State Fault Refusal := spEntry Enc.spwb f s .spwb

/-! ### Events of the engine -/

/-- The command an event names, if it may take a step. -/
def State.cmdAt (s : State) : Option Cmd :=
  (AMap.get (s.cluster s.ev.unit).cpe s.ev.item).filter s.cmdRuns

/-- LINE_DATA_ARRIVAL: one aligned 8-byte unit of a command is moved (08 R181, R193, R300). -/
def execLineDataArrival (s : State) : Host.Outcome State Fault Refusal :=
  let k := s.ev.third
  .next (match AMap.get (s.cluster s.ev.unit).cpe s.ev.item with
    | some c => if inPieces c.todo k && s.unitRuns c k then cpeUnit s s.ev.unit s.ev.item k c else s
    | none => s)

/-- COPY_ENGINE_COMPLETE (08 R186). -/
def execCopyEngineComplete (s : State) : Host.Outcome State Fault Refusal :=
  .next (match s.cmdAt with
    | some c => cpeComplete s s.ev.unit s.ev.item c
    | none => s)

end Sys2Proof.Machine
end

