-- ==== Sys2Proof/Machine/Queues.lean ====
section
/-! DEFINITION. Queues, task deques, weight and phases (09 R197-R222). -/
namespace Sys2Proof.Machine

/-- The number of a register operand. -/
def regNum : Operand → Nat
  | .v n _ _ => n.toNat
  | .w n => n.toNat
  | .p n => n.toNat
  | .t n => n.toNat
  | .a n => n.toNat
  | .q n => n.toNat
  | _ => 0

/-- An instruction of a team with its allotment; a warp whose team has none would name nothing inside it (09 R213). -/
def withAllot (i : Iss) (s : State) (body : Nat → Allot → Res) : Res :=
  match s.allotOf i.wid i.w with
  | none => .trap .spRange i.low
  | some (id, a) => body id a

/-! ### Creating and binding queues (09 R214, R215, 15 R330) -/

/-- The allotments on a core. -/
def State.allotsOn (s : State) (core : Nat) : List (Nat × Allot) := s.allots.filter fun (_, a) => a.core == core && !a.saved

/-- Whether a trace slot of an allotment names a queue as its ray queue, or as its hit queue. -/
def State.isRayQueue (s : State) (id : Nat) (a : Allot) (line : Nat) : Bool :=
  (s.core a.core).slots.any fun (_, t) => t.allot == id && t.rayQueue == line
def State.isHitQueue (s : State) (id : Nat) (a : Allot) (line : Nat) : Bool :=
  (s.core a.core).slots.any fun (_, t) => t.allot == id && t.hitQueue == line

/-- The warps of an allotment's team core, resident or saved (09 R214, 18 R413). -/
def State.warpsOn (s : State) (a : Allot) : List Warp :=
  let mine (w : Warp) : Bool := w.team == a.team && w.teamCore == a.teamCore
  ((s.warps.filter fun (_, w) => mine w).map (·.2))
  ++ s.saved.filterMap fun (_, x) => match x with
    | .warp w _ _ _ => if mine w then some w else none
    | _ => none

/-- A queue's descriptor line as QINIT writes it: reserved bytes 0 (09 R198). -/
def Allot.initQueue (a : Allot) (off k : Nat) : Allot :=
  let a := a.poke off (bytesOf 8 0 ++ bytesOf 1 k ++ List.replicate 119 0)
  { a with queues := a.queues ++ [off / 128] }

/-- QINIT: create a queue (09 R214). -/
def execQinit (f : Fields) (s : State) : Host.Outcome State Fault Refusal :=
  irlek Enc.qinit f s fun i s => withAllot i s fun id a =>
    let off := (i.uni 1).toNat
    let k := (i.uni 2).toNat
    if off % 128 != 0 then .trap .spAlign i.low
    else if 12 < k || a.size < off + queueBytes k then .trap .spRange i.low
    else if !a.present off (queueBytes k) then .wait s
    else if overlapsAny (s.claims id a ++ a.mappedRanges) off (queueBytes k) then .ok s (i.dest fun _ => 2)
    else if 64 ≤ ((s.allotsOn a.core).map fun (_, x) => x.queues.length).sum then .ok s (i.dest fun _ => 3)
    else .ok (s.modAllot id fun a => a.initQueue off k) (i.dest fun _ => 1)

/-- QINIT.drop (09 R214, 15 R330). -/
def execQinitDrop (f : Fields) (s : State) : Host.Outcome State Fault Refusal :=
  irlek Enc.qinitDrop f s fun i s => withAllot i s fun id a =>
    let off := (i.uni 1).toNat
    let line := off / 128
    if off % 128 != 0 then .trap .spAlign i.low
    else if !a.queues.contains line then .ok s (i.dest fun _ => 3)
    else if s.isRayQueue id a line || s.isHitQueue id a line
        || (s.warpsOn a).any (fun w => w.q.any fun (_, b) => b.line == line) then .ok s (i.dest fun _ => 4)
    else .ok (s.modAllot id fun a => { a with queues := a.queues.filter (· != line) }) (i.dest fun _ => 1)

/-- A binding made (09 R215); Q_NONE where no queue starts, TR_QUEUE where a trace slot has it (15 R330). -/
def bindQueue (e : Enc) (f : Fields) (s : State) (push : Bool) (ep : BitVec 4) : Host.Outcome State Fault Refusal :=
  irlek e f s fun i s => withAllot i s fun id a =>
    let off := (i.uni 1).toNat
    let line := off / 128
    if off % 128 != 0 || !a.queues.contains line then .trap .qNone i.low
    else if s.isRayQueue id a line || (push && s.isHitQueue id a line) then .trap .trQueue i.low
    else .ok (s.modWarp i.wid fun w => { w with q := AMap.set w.q (regNum f.op0) ⟨push, ep, line⟩ }) []

/-- QBIND.pop (09 R215). -/
def execQbindPop (f : Fields) (s : State) : Host.Outcome State Fault Refusal :=
  bindQueue Enc.qbindPop f s false (BitVec.ofNat 4 (regNum f.op2))
/-- QBIND.push (09 R215). -/
def execQbindPush (f : Fields) (s : State) : Host.Outcome State Fault Refusal := bindQueue Enc.qbindPush f s true 0
/-- QUNBIND (09 R215). -/
def execQunbind (f : Fields) (s : State) : Host.Outcome State Fault Refusal :=
  irlek Enc.qunbind f s fun i s => .ok (s.modWarp i.wid fun w => { w with q := AMap.erase w.q (regNum f.op0) }) []

/-! ### QTRY, QPEEK, QLEN, QCLOSE (09 R216, R217) -/

/-- A valid binding in either direction. -/
def State.boundAny (s : State) (wid : Nat) (w : Warp) (q : Nat) : Option (Nat × Allot × Nat) :=
  match AMap.get w.q q, s.allotOf wid w with
  | some b, some (id, a) => if a.queues.contains b.line then some (id, a, b.line) else none
  | _, _ => none

/-- QTRY (09 R216): all active lanes take an element, or none does. -/
def execQtry (f : Fields) (s : State) : Host.Outcome State Fault Refusal :=
  irlek Enc.qtry f s fun i s =>
    match s.boundAny i.wid i.w (regNum f.op1) with
    | none => .trap .qUnbound i.low
    | some (id, a, line) =>
      let k := i.act.count
      let wide := match f.op0 with
        | .w _ => true
        | _ => false
      if wide && k != 1 then .trap .qFit i.low
      else if (a.desc line).count < k then .ok s (i.bits 2 fun _ => false)
      else
        let (s, xs) := popLanes i.wid id line 15 i.act.lanes s []
        .ok s ((i.dest fun l => AMap.getD xs l 0) ++ i.bits 2 fun _ => true)

/-- QPEEK (09 R216): the elements as they stand, by rank among the active lanes. -/
def execQpeek (f : Fields) (s : State) : Host.Outcome State Fault Refusal :=
  irlek Enc.qpeek f s fun i s =>
    match s.boundAny i.wid i.w (regNum f.op1) with
    | none => .trap .qUnbound i.low
    | some (_, a, line) =>
      let d := a.desc line
      let rank (l : Nat) : Nat := (i.act.lanes.filter (· < l)).length
      let val (l : Nat) : Word :=
        if rank l < d.count then BitVec.ofNat 64 (a.num (ringOff line (d.place (d.head + rank l))) 8) else 0
      .ok s (i.dest val ++ i.bits 2 fun l => rank l < d.count)

/-- QLEN (09 R216). -/
def execQlen (f : Fields) (s : State) : Host.Outcome State Fault Refusal :=
  irlek Enc.qlen f s fun i s =>
    match s.boundAny i.wid i.w (regNum f.op1) with
    | none => .trap .qUnbound i.low
    | some (_, a, line) =>
      let d := a.desc line
      .ok s (i.dest fun _ => BitVec.ofNat 64 (d.count + d.k * 2 ^ 32 + (if d.closed then 2 ^ 36 else 0)))

/-- QCLOSE (09 R217), after what the warp ordered before it (09 R204). -/
def execQclose (f : Fields) (s : State) : Host.Outcome State Fault Refusal :=
  irlek Enc.qclose f s fun i s =>
    match s.bound i.wid i.w (regNum f.op0) true with
    | .error c => .trap c i.low
    | .ok (id, a, b) =>
      let d := a.desc b.line
      if s.contributes i.wid then .wait s
      else if d.closed then .ok s []
      else .ok (s.modAllot id fun a => (a.setDesc b.line { d with closed := true }).setEdge (closeKey b.line) i.w.pts) []

/-! ### Task deques (09 R206-R210, R218-R220) -/

/-- TOP, BOTTOM and the slots of a deque at a base (09 Table 9.4). -/
def Allot.dequeTop (a : Allot) (base : Nat) : Nat := a.num base 4
def Allot.dequeBottom (a : Allot) (base : Nat) : Nat := a.num (base + 4) 4
def dequeSlots (base limit : Nat) : Nat := (limit - base) / 128 - 1
/-- The tasks in a deque. -/
def Allot.dequeCount (a : Allot) (base : Nat) : Nat := (a.dequeBottom base + 2 ^ 32 - a.dequeTop base) % 2 ^ 32
/-- The key of the edge a task carries (09 R209). -/
def taskKey (d slot : Nat) : Nat := edgeKey (3072 + d) slot

/-- DQSET (09 R218). -/
def execDqset (f : Fields) (s : State) : Host.Outcome State Fault Refusal :=
  irlek Enc.dqset f s fun i s => withAllot i s fun id a =>
    let d := (i.uni 1).toNat
    let base := (i.uni 2).toNat
    let limit := (i.uni 3).toNat
    if base % 128 != 0 || limit % 128 != 0 then .trap .spAlign i.low
    else if 7 < d || limit < base + 256 || base + 393216 < limit || a.size < limit then .trap .spRange i.low
    else if !a.present base (limit - base) then .wait s
    else if overlapsAny (s.claims id a ++ a.mappedRanges) base (limit - base) then .ok s (i.dest fun _ => 2)
    else if (s.allotsOn a.core).any (fun (_, x) => (AMap.get x.deques d).isSome) then .ok s (i.dest fun _ => 3)
    else
      let line := bytesOf 8 0 ++ bytesOf 2 (dequeSlots base limit) ++ bytesOf 6 0
      .ok (s.modAllot id fun a => { a.poke base line with deques := AMap.set a.deques d (base, limit) })
        (i.dest fun _ => 1)

/-- DQSET.clr (09 R218). -/
def execDqsetClr (f : Fields) (s : State) : Host.Outcome State Fault Refusal :=
  irlek Enc.dqsetClr f s fun i s => withAllot i s fun id a =>
    let d := (i.uni 1).toNat
    if 7 < d then .trap .spRange i.low
    else match AMap.get a.deques d with
      | none => .ok s (i.dest fun _ => 3)
      | some (base, _) =>
        if a.dequeCount base != 0 then .ok s (i.dest fun _ => 3)
        else .ok (s.modAllot id fun a => { a with deques := AMap.erase a.deques d }) (i.dest fun _ => 1)

/-! ### Phase roots (09 R211, R219, R221, R222) -/

/-- A root as a number of 40 bytes: ISSUED, RETURNED, STATE. -/
def rootIssued (x : Nat) : Nat := x % 2 ^ 128
def rootReturned (x : Nat) : Nat := x / 2 ^ 128 % 2 ^ 128
def rootState (x : Nat) : Nat := x / 2 ^ 256 % 2 ^ 64
def rootOf (issued returned state : Nat) : Nat := issued % 2 ^ 128 + returned % 2 ^ 128 * 2 ^ 128 + state * 2 ^ 256

/-- A root that a write has left broken (09 R211). -/
def rootBroken (x : Nat) : Bool := rootState x != 1 || rootIssued x < rootReturned x

/-- The loan of SPAWN (09 R219). -/
def rootLoan (x : Nat) : Nat :=
  rootOf (rootIssued x + 2 ^ 32) (rootReturned x) (if rootBroken x then 3 else rootState x)

/-- The return of TASKDONE (09 R221). -/
def rootReturn (tw x : Nat) : Nat :=
  let r := rootReturned x + tw
  rootOf (rootIssued x) r
    (if rootState x != 1 || rootIssued x < r then 3 else if r = rootIssued x then 2 else rootState x)

/-- PHASEBEGIN (09 R222): the root's new value, and whether the phase began. -/
def rootBegin (x : Nat) : Nat × Bool :=
  if rootState x = 1 then (if rootIssued x < rootReturned x then rootOf (rootIssued x) (rootReturned x) 3 else x, false)
  else (rootOf (2 ^ 63) 0 1, true)

/-- What an access to a root finds. -/
inductive RootAt where
  | done (s : State) (old : Nat) | wait (s : State) | fault (s : State) (va : Word) (k : FaultKind)

/-- One update of a root by its home's bank ALU, in the order as an atomic (09 R211); the clock passes it. -/
def State.rootUpdate (s : State) (wid ctx : Nat) (va : Word) (g : Nat → Nat) : RootAt :=
  match s.translate (laneChain (coreOf wid)) ctx va .readWrite with
  | (s, .error k) => .fault s va k
  | (s, .ok pa) =>
    if s.absentAt pa 64 then .wait s
    else
      let (s, old, t) := s.laneAtomic (coreOf wid) (((s.warp? wid).map (·.pts)).getD 0) pa 0 40 g
      .done (s.raisePts wid t) old

/-- An update within an instruction, after the contributions of the warp that still wait for a place (09 R209, 13 R303). -/
def rootOp (i : Iss) (s : State) (va : Word) (g : Nat → Nat) (body : State → Nat → Res) : Res :=
  if s.contributes i.wid then .wait s
  else match s.rootUpdate i.wid i.w.ctx va g with
  | .fault s va k => .hold s 0 .readWrite va k
  | .wait s => .wait s
  | .done s old => body s old

/-- A warp's task written. -/
def State.setTask (s : State) (wid : Nat) (t : TaskState) : State := s.modWarp wid fun w => { w with task := t }

/-- A steal has arrived at a deque in this cycle of its owner core: an operation of the owner that follows it in the model arrives
in a later one, since in one cycle the owner goes first (09 R208). -/
def State.stolenNow (s : State) (a : Allot) (d : Nat) : Bool :=
  AMap.get a.stolenAt d == some (s.die (dieOfCore a.core)).cycles

/-- SPAWN (09 R219), after what the warp ordered before it (09 R209). -/
def execSpawn (f : Fields) (s : State) : Host.Outcome State Fault Refusal :=
  irlek Enc.spawn f s fun i s =>
    if !i.w.task.valid then .trap .taskNone i.low
    else withAllot i s fun id a =>
      let d := (i.uni 2).toNat
      if 7 < d then .trap .spRange i.low
      else match AMap.get a.deques d with
        | none => .ok s (i.bits 0 fun _ => false)
        | some (base, limit) =>
          let n := dequeSlots base limit
          if s.contributes i.wid || s.stolenNow a d then .wait s
          else if a.dequeCount base == n then .ok s (i.bits 0 fun _ => false)
          else
            let push (s : State) (tw : Nat) : Res :=
              let c := tw / 2
              let slot := a.dequeBottom base % n
              let args := (List.range 8).flatMap fun k => bytesOf 8 (i.w.wreg (regNum f.op1 + k)).toNat
              let bytes := args ++ bytesOf 8 c ++ bytesOf 8 i.w.task.root.toNat ++ List.replicate 48 0
              let s := s.modAllot id fun a =>
                ((a.poke (base + 128 + 128 * slot) bytes).poke (base + 4) (bytesOf 4 (a.dequeBottom base + 1))).setEdge
                  (taskKey d slot) (((s.warp? i.wid).map (·.pts)).getD 0)
              .ok (s.setTask i.wid { i.w.task with tw := tw - c }) (i.bits 0 fun _ => true)
            if i.w.task.tw = 1 then rootOp i s i.w.task.root rootLoan fun s _ => push s (1 + 2 ^ 32)
            else push s i.w.task.tw

/-- A task taken from a slot: its arguments, its weight and root, and the edge it carries (09 R209, R220). -/
def takeTask (i : Iss) (s : State) (a : Allot) (d base slot argsOp : Nat) (predOp : Nat) : Res :=
  let off := base + 128 + 128 * slot
  let b := regNum (i.op argsOp)
  let s := s.setTask i.wid ⟨true, a.num (off + 0x40) 8, BitVec.ofNat 64 (a.num (off + 0x48) 8)⟩
  let s := s.raisePts i.wid (AMap.getD a.edges (taskKey d slot) 0)
  .ok s (((List.range 8).map fun k => Wr.w (b + k) (BitVec.ofNat 64 (a.num (off + 8 * k) 8))) ++ i.bits predOp fun _ => true)

/-- POPTASK (09 R220). -/
def execPoptask (f : Fields) (s : State) : Host.Outcome State Fault Refusal :=
  irlek Enc.poptask f s fun i s =>
    if i.w.task.valid then .trap .taskHeld i.low
    else withAllot i s fun id a =>
      let d := (i.uni 2).toNat
      if 7 < d then .trap .spRange i.low
      else match AMap.get a.deques d with
        | none => .ok s (i.bits 1 fun _ => false)
        | some (base, limit) =>
          if s.stolenNow a d then .wait s
          else if a.dequeCount base = 0 then .ok s (i.bits 1 fun _ => false)
          else
            let bottom := (a.dequeBottom base + 2 ^ 32 - 1) % 2 ^ 32
            let s := s.modAllot id fun a => a.poke (base + 4) (bytesOf 4 bottom)
            takeTask i s a d base (bottom % dequeSlots base limit) 0 1

/-- The thief end of a deque on a core of a team, by the team's index of it; none where nothing is there to take (09 R210, R220). -/
def State.stealFrom (s : State) (team j d : Nat) : Option (Nat × Allot × Nat × Nat) :=
  match s.allots.find? fun (_, a) => a.team == team && a.teamCore == j with
  | none => none
  | some (id, a) =>
    if a.saved then none
    else match AMap.get a.deques d with
      | none => none
      | some (base, limit) =>
        if a.dequeCount base = 0 then none else some (id, a, base, a.dequeTop base % dequeSlots base limit)

/-- One try of a steal, on the team core of an index; `miss` is what follows where its deque is empty (09 R220). -/
def steal (i : Iss) (s : State) (d j : Nat) (miss : State → Res) : Res :=
  match s.stealFrom i.w.team j d with
  | none => miss s
  | some (id, a, base, slot) =>
    let now := (s.die (dieOfCore a.core)).cycles
    let s := s.modAllot id fun a =>
      { a.poke base (bytesOf 4 (a.dequeTop base + 1)) with stolenAt := AMap.set a.stolenAt d now }
    takeTask i s a d base slot 0 1

/-- A steal that took nothing writes false. -/
def Iss.noTask (i : Iss) (s : State) : Res := .ok s (i.bits 1 fun _ => false)

/-- How many cores the warp's team has. -/
def Iss.teamCores (i : Iss) (s : State) : Nat := ((s.teamOf i.w).map (·.cores.length)).getD 0

/-- How many cores a STEAL.any at this PC has tried. -/
def Iss.tries (i : Iss) : Nat := match i.w.search with
  | some (pc, n) => if pc == i.c.pc then n else 0
  | none => 0

/-- How far a STEAL.any has come, or that it is over. -/
def State.setSearch (s : State) (i : Iss) (n : Option Nat) : State :=
  s.modWarp i.wid fun w => { w with search := n.map fun k => (i.c.pc, k) }

/-- STEAL.any (09 R220): the other team cores, from the next one round. Each try is a step of its own: a bundle that misses
stays for the next one, and other warps' steps may come between. -/
def execStealAny (f : Fields) (s : State) : Host.Outcome State Fault Refusal :=
  irlek Enc.stealAny f s fun i s =>
    if i.w.task.valid then .trap .taskHeld i.low
    else
      let d := (i.uni 2).toNat
      let k := i.teamCores s
      if 7 < d then .trap .spRange i.low
      else if k ≤ i.tries + 1 then i.noTask (s.setSearch i none)
      else steal i (s.setSearch i none) d ((i.w.teamCore + 1 + i.tries) % k) fun s =>
        if i.tries + 2 < k then .move (s.setSearch i (some (i.tries + 1))) [] fun w => w else i.noTask s

/-- STEAL.at (09 R220). -/
def execStealAt (f : Fields) (s : State) : Host.Outcome State Fault Refusal :=
  irlek Enc.stealAt f s fun i s =>
    if i.w.task.valid then .trap .taskHeld i.low
    else
      let d := (i.uni 3).toNat
      let j := (i.uni 2).toNat
      if i.teamCores s ≤ j || 7 < d then .trap .spRange i.low else steal i s d j i.noTask

/-- TASKDONE (09 R221). -/
def execTaskdone (f : Fields) (s : State) : Host.Outcome State Fault Refusal :=
  irlek Enc.taskdone f s fun i s =>
    if !i.w.task.valid then .trap .taskNone i.low
    else rootOp i s i.w.task.root (rootReturn i.w.task.tw) fun s _ => .ok (s.setTask i.wid { i.w.task with valid := false }) []

/-- PHASEBEGIN (09 R222). -/
def execPhasebegin (f : Fields) (s : State) : Host.Outcome State Fault Refusal :=
  irlek Enc.phasebegin f s fun i s =>
    if i.w.task.valid then .trap .taskHeld i.low
    else if (i.uni 1).toNat % 64 != 0 then .trap .spAlign i.low
    else rootOp i s (i.uni 1) (fun x => (rootBegin x).1) fun s old =>
      if (rootBegin old).2 then .ok (s.setTask i.wid ⟨true, 2 ^ 63, i.uni 1⟩) (i.bits 0 fun _ => true)
      else .ok s (i.bits 0 fun _ => false)

/-- PHASEWAIT and PHASEWAIT.try: STATE read by an ordinary load (09 R222). -/
def phaseWait (e : Enc) (f : Fields) (s : State) (retry : Bool) : Host.Outcome State Fault Refusal :=
  irlek e f s fun i s =>
    let va := i.uni 1 + 0x20
    if (i.uni 1).toNat % 64 != 0 then .trap .spAlign i.low
    else match s.translate (laneChain (coreOf i.wid)) i.w.ctx va .read with
      | (s, .error k) => .hold s 0 .read va k
      | (s, .ok pa) =>
        if s.absentAt pa 8 || s.contributes i.wid i.c.lanes then .wait s
        else
          let (s', bs, t) := s.laneLoad (coreOf i.wid) i.w.pts pa 8 0
          match ofBytes bs with
          | 2 => .ok (s'.raisePts i.wid t) (i.bits 0 fun _ => true)
          | 0 => if retry then .ok (s'.raisePts i.wid t) (i.bits 0 fun _ => false) else .wait (s'.raisePts i.wid t)
          | 1 => if retry then .ok (s'.raisePts i.wid t) (i.bits 0 fun _ => false) else .wait (s'.raisePts i.wid t)
          | _ => .trap .phaseBad i.low

/-- PHASEWAIT (09 R222). -/
def execPhasewait (f : Fields) (s : State) : Host.Outcome State Fault Refusal := phaseWait Enc.phasewait f s false
/-- PHASEWAIT.try (09 R222). -/
def execPhasewaitTry (f : Fields) (s : State) : Host.Outcome State Fault Refusal := phaseWait Enc.phasewaitTry f s true

end Sys2Proof.Machine
end

