-- ==== Sys2Proof/Machine/Barriers.lean ====
section
/-! DEFINITION. Completion counters, named barriers and team barriers (10 R223-R239). -/
namespace Sys2Proof.Machine

/-- WAITLE: not ready until the counter reads n or less; then the wait acquires (10 R226, R236). -/
def execWaitle (f : Fields) (s : State) : Host.Outcome State Fault Refusal :=
  irlek Enc.waitle f s fun i s =>
    let k := immNum f.op0
    if i.w.counter k ≤ immNum f.op1 then .ok (s.modWarp i.wid fun w => w.acquireCounter k) [] else .wait s

/-! ### Arrival -/

/-- A barrier at placement (10 R229). -/
def Barrier.fresh : Barrier := ⟨0, none, [], 0, 0, 0⟩

/-- An arrival of a team warp with count `m` at a time, of at most `most` participants: the trap with its TINFO, or the
token and the barrier after (10 R229, R233). A phase that completes starts the next one and leaves its times (R230). -/
def Barrier.arrive (b : Barrier) (warp m most t : Nat) : Except (Cause × Option Nat) (Nat × Barrier) :=
  if m < 1 || most < m then .error (.barRange, none)
  else
    let n := b.latched.getD m
    if n != m then .error (.barCount, some (n * 256 + m))
    else
      let arrived := if b.arrived.contains warp then b.arrived else b.arrived ++ [warp]
      let cur := max b.cur t
      if arrived.length = n then
        .ok (b.phase, { b with phase := (b.phase + 1) % 2 ^ 32, latched := none, arrived := [], cur := 0, time := max b.time cur })
      else .ok (b.phase, { b with latched := some n, arrived := arrived, cur := cur })

/-! ### Named barriers (10 R228-R232, R237, R238) -/

/-- A named barrier of the team, or BAR_RANGE where the team has none of that number (10 R228). -/
def withBarrier (i : Iss) (s : State) (k : Nat) (body : Nat → Allot → Nat → Barrier → Res) : Res :=
  match s.allotOf i.wid i.w with
  | none => .trap .barRange i.low
  | some (id, a) =>
    let b := (i.uni k).toNat
    if a.nBarriers ≤ b then .trap .barRange i.low else body id a b (AMap.getD a.barriers b Barrier.fresh)

/-- A named barrier written back. -/
def State.setBarrier (s : State) (id b : Nat) (x : Barrier) : State :=
  s.modAllot id fun a => { a with barriers := AMap.set a.barriers b x }

/-- BARINIT (10 R237). -/
def execBarinit (f : Fields) (s : State) : Host.Outcome State Fault Refusal :=
  irlek Enc.barinit f s fun i s => withBarrier i s 1 fun id _ b x =>
    if x.arrived.isEmpty then .ok (s.setBarrier id b { x with latched := none }) (i.dest fun _ => 1)
    else .ok s (i.dest fun _ => 2)

/-- The arrival of an instruction, its count limited as its entry says (10 R229, R234). It waits while an earlier access of the warp
has no place in the order yet (10 R230). -/
def arriveNamed (i : Iss) (s : State) (b m : Nat) (then_ : State → Nat → Barrier → Res) : Res :=
  withBarrier i s b fun id a n x =>
    match x.arrive i.w.teamWarp (min (i.uni m).toNat 65) (min a.warps 64) i.w.pts with
    | .error (c, info) => .trap c (info.getD i.low)
    | .ok (token, x) => if s.contributes i.wid then .wait s else then_ (s.setBarrier id n x) token x

/-- BARARR (10 R238). -/
def execBararr (f : Fields) (s : State) : Host.Outcome State Fault Refusal :=
  irlek Enc.bararr f s fun i s => arriveNamed i s 1 2 fun s token _ => .ok s (i.dest fun _ => BitVec.ofNat 64 token)

/-- The phase a token names. -/
def tokenPhase (x : Word) : Nat := x.toNat % 2 ^ 32

/-- BARWAIT (10 R238). -/
def execBarwait (f : Fields) (s : State) : Host.Outcome State Fault Refusal :=
  irlek Enc.barwait f s fun i s => withBarrier i s 0 fun _ _ _ x =>
    if x.phase != tokenPhase (i.uni 1) then .ok (s.raisePts i.wid x.time) [] else .wait s

/-- The bundles that have arrived from this PC and wait here, in order. -/
def Iss.holds (i : Iss) : List BarHold := i.w.barWaits.filter fun h => h.pc == i.c.pc

/-- The lanes of the bundle that have come here since: they have not arrived yet. -/
def Iss.newcomers (i : Iss) : Mask := i.c.lanes &&& ~~~(i.holds.foldl (fun m h => m ||| h.lanes) 0)

/-- An arrival that must wait: its lanes stay with its token. -/
def State.addHold (s : State) (i : Iss) (b : BarWait) : State :=
  s.modWarp i.wid fun w => { w with barWaits := w.barWaits ++ [⟨i.c.pc, i.newcomers, b⟩] }

/-- A wait that is over. -/
def State.dropHold (s : State) (i : Iss) (h : BarHold) : State :=
  s.modWarp i.wid fun w => { w with barWaits := w.barWaits.erase h }

/-- An instruction that arrives and waits (10 R232, R238, R239). Lanes that have just come arrive together, or pass by where none of
them is active; each bundle that has arrived goes on by itself once its phase is over, at the time given. -/
def syncAt (i : Iss) (s : State) (ended : BarWait → Option Nat) (arrive : State → Res) : Res :=
  let new := i.newcomers
  if new != 0 then
    if i.act &&& new = 0 then .move (s.modWarp i.wid Warp.setZlane) [] fun w => w.advance i.c new else arrive s
  else match i.holds.findSome? fun h => (ended h.wait).map fun t => (h, t) with
    | some (h, t) => .move ((s.dropHold i h).raisePts i.wid t) [] fun w => w.advance i.c (h.lanes &&& i.c.lanes)
    | none => .wait s

/-- When the wait on a token of a named barrier is over: the time it acquires. -/
def State.namedOver (s : State) (i : Iss) : BarWait → Option Nat
  | .named b token =>
    match s.allotOf i.wid i.w with
    | none => none
    | some (_, a) =>
      let x := AMap.getD a.barriers b Barrier.fresh
      if x.phase != token then some x.time else none
  | .team _ _ => none

/-- BARSYNC: the bundle arrives, keeps its token and stays; it goes on once the phase has changed (10 R232, R238). -/
def execBarsync (f : Fields) (s : State) : Host.Outcome State Fault Refusal :=
  irlek Enc.barsync f s fun i s => syncAt i s (s.namedOver i) fun s =>
    arriveNamed i s 0 1 fun s token x =>
      if x.phase != token then .move (s.raisePts i.wid x.time) [] fun w => w.advance i.c i.newcomers
      else .move (s.addHold i (.named (i.uni 0).toNat token)) [] fun w => w

/-! ### Team barriers (10 R233, R239) -/

/-- The team's warp count. -/
def Iss.teamWarps (i : Iss) (s : State) : Nat := ((s.teamOf i.w).map (·.warps)).getD 0

/-- A team barrier. -/
def State.tbar (s : State) (w : Warp) (id : Nat) : Barrier :=
  ((s.teamOf w).map fun t => AMap.getD t.tbars id Barrier.fresh).getD Barrier.fresh

/-- A team barrier written back. -/
def State.setTbar (s : State) (w : Warp) (id : Nat) (b : Barrier) : State :=
  s.modTeam w.team fun t => { t with tbars := AMap.set t.tbars id b }

/-- An arrival at a team barrier, which waits as one at a named barrier does (10 R233). -/
def arriveTeam (i : Iss) (s : State) (id m : Nat) (then_ : State → Nat → Res) : Res :=
  match (s.tbar i.w id).arrive i.w.teamWarp (min (i.uni m).toNat 65537) (i.teamWarps s) i.w.pts with
  | .error (c, info) => .trap c (info.getD i.low)
  | .ok (token, b) => if s.contributes i.wid then .wait s else then_ (s.setTbar i.w id b) token

/-- The wait on a token of a team barrier is over: its phase has changed and the release has reached the team. -/
def Barrier.released (b : Barrier) (token : Nat) : Bool := b.phase != token && b.told != token

/-- When the wait on a token of a team barrier is over: the time it acquires. -/
def State.teamOver (s : State) (i : Iss) : BarWait → Option Nat
  | .team id token => if (s.tbar i.w id).released token then some (s.tbar i.w id).time else none
  | .named _ _ => none

/-- TBAR.sync (10 R239). -/
def execTbarSync (f : Fields) (s : State) : Host.Outcome State Fault Refusal :=
  irlek Enc.tbarSync f s fun i s => syncAt i s (s.teamOver i) fun s =>
    let id := immNum f.op0
    arriveTeam i s id 1 fun s token => .move (s.addHold i (.team id token)) [] fun w => w

/-- TBAR.arr (10 R239). -/
def execTbarArr (f : Fields) (s : State) : Host.Outcome State Fault Refusal :=
  irlek Enc.tbarArr f s fun i s =>
    arriveTeam i s (immNum f.op1) 2 fun s token => .ok s (i.dest fun _ => BitVec.ofNat 64 token)

/-- TBAR.wait (10 R239). -/
def execTbarWait (f : Fields) (s : State) : Host.Outcome State Fault Refusal :=
  irlek Enc.tbarWait f s fun i s =>
    let b := s.tbar i.w (immNum f.op0)
    if b.released (tokenPhase (i.uni 1)) then .ok (s.raisePts i.wid b.time) [] else .wait s

/-- TEAM_BARRIER_RELEASE: the phases that have started reach the waiting warps of a warp's team (10 R233). -/
def execTeamBarrierRelease (s : State) : Host.Outcome State Fault Refusal :=
  .next (match s.warp? s.ev.unit with
    | some w => s.modTeam w.team fun t => { t with tbars := t.tbars.map fun (k, b) => (k, { b with told := b.phase }) }
    | none => s)

end Sys2Proof.Machine
end

