-- ==== Sys2Proof/Machine/Rays.lean ====
section
/-! DEFINITION. Exact tests of a ray against child boxes and triangles (15 R333-R340). -/
namespace Sys2Proof.Machine

/-! ### Exact values -/

/-- An exact rational with a positive denominator, or an infinity. -/
inductive XR where
  | neg | fin (n : Int) (d : Nat) | pos
  deriving DecidableEq, Repr

/-- Exact comparison. -/
def XR.le : XR → XR → Bool
  | .neg, _ => true
  | _, .pos => true
  | .pos, _ => false
  | _, .neg => false
  | .fin n d, .fin n' d' => n * d' ≤ n' * d
/-- Strictly less. -/
def XR.lt (a b : XR) : Bool := !(b.le a)
/-- The lesser and the greater of two. -/
def XR.min (a b : XR) : XR := if a.le b then a else b
def XR.max (a b : XR) : XR := if a.le b then b else a

/-- A quotient of integers, the divisor not 0. -/
def XR.quot (n d : Int) : XR := if d < 0 then .fin (-n) d.natAbs else .fin n d.natAbs

/-- A binary32 value, none for a NaN; a subnormal reads as zero where `ftz` (15 R337, 02 R32). -/
def f32Val (ftz : Bool) (bits : Nat) : Option XR :=
  match fmtF32.read ftz bits with
  | .nan _ => none
  | .inf n => some (if n then .neg else .pos)
  | .fin n m e =>
    let k := m * 2 ^ (e + 149).toNat
    some (.fin (if n then -(k : Int) else k) (2 ^ 149))

/-- A finite binary32 value in units of 2^-149, none for a NaN or an infinity. -/
def f32Int (ftz : Bool) (bits : Nat) : Option Int :=
  match f32Val ftz bits with
  | some (.fin n _) => some n
  | _ => none

/-- An exact value rounded once to binary32. -/
def XR.round (rm : Rnd) : XR → Nat
  | .neg => fmtF32.signed true fmtF32.infBits
  | .pos => fmtF32.infBits
  | .fin n d =>
    if n = 0 then 0
    else
      let k := bitLen d + 30
      let m := n.natAbs * 2 ^ k
      (fmtF32.round rm false (n < 0) (m / d) (-(k : Int)) (m % d != 0)).1

/-- A vector of exact values in units of 2^-149. -/
abbrev Vec3 := Int × Int × Int
def Vec3.sub (a b : Vec3) : Vec3 := (a.1 - b.1, a.2.1 - b.2.1, a.2.2 - b.2.2)
def Vec3.cross (a b : Vec3) : Vec3 :=
  (a.2.1 * b.2.2 - a.2.2 * b.2.1, a.2.2 * b.1 - a.1 * b.2.2, a.1 * b.2.1 - a.2.1 * b.1)
def Vec3.dot (a b : Vec3) : Int := a.1 * b.1 + a.2.1 * b.2.1 + a.2.2 * b.2.2

/-- A ray as the tests see it (15 Table 15.4). -/
structure RayVals where
  o : Vec3
  d : Vec3
  tmin : XR
  tmax : XR
  deriving DecidableEq, Repr

/-- Three binary32 components at an offset of some bytes. -/
def vecAt (num : Nat → Nat → Nat) (off : Nat) : Option Vec3 :=
  match f32Int true (num off 4), f32Int true (num (off + 4) 4), f32Int true (num (off + 8) 4) with
  | some x, some y, some z => some (x, y, z)
  | _, _, _ => none

/-- The values of a record, none where it ends at once (15 R337). `num` reads the record's bytes. -/
def rayVals (num : Nat → Nat → Nat) : Option RayVals :=
  let committed := num 0x71 1 % 2 == 1
  match vecAt num 0x00, vecAt num 0x10, f32Val true (num 0x0C 4), f32Val (!committed) (num 0x1C 4) with
  | some o, some d, some t0, some t1 =>
    if t1.lt t0 || d == (0, 0, 0) || num 0x25 1 == 0 then none else some ⟨o, d, t0, t1⟩
  | _, _, _, _ => none

/-! ### Boxes (15 R333, R338) -/

/-- The slab of one axis: entry and exit, or none where a ray along it misses. -/
def slab (o d : Int) (lo hi : XR) : Option (XR × XR) :=
  let at_ (b : XR) : XR := match b with
    | .neg => if 0 < d then .neg else .pos
    | .pos => if 0 < d then .pos else .neg
    | .fin n _ => .quot (n - o) d
  if d = 0 then (if lo.le (.fin o (2 ^ 149)) && (XR.fin o (2 ^ 149)).le hi then some (.neg, .pos) else none)
  else if 0 < d then some (at_ lo, at_ hi) else some (at_ hi, at_ lo)

/-- A decoded bound: origin + q × 2^(e − 127) rounded to binary32. -/
def bound (rm : Rnd) (origin : Int) (q e : Nat) : XR :=
  (f32Val false ((XR.fin (origin + q * 2 ^ (e + 22)) (2 ^ 149)).round rm)).getD .pos

/-- The box test: the entry distance, rounded down, where it passes. -/
def boxTest (r : RayVals) (slabs : List (Option (XR × XR))) : Option XR :=
  if slabs.any Option.isNone then none
  else
    let ss := slabs.filterMap id
    let near := ss.foldl (fun t x => t.max x.1) r.tmin
    let far := ss.foldl (fun t x => t.min x.2) r.tmax
    if near.le far then f32Val false (near.round .rd) else none

/-- A child that a ray may visit: its entry distance, number, kind, target and fence. -/
structure Child where
  dist : XR
  c : Nat
  leaf : Bool
  target : Nat
  fence : Nat
  deriving DecidableEq, Repr

/-- Rank order: by entry distance, then number (15 R338). -/
def Child.before (x y : Child) : Bool := x.dist.lt y.dist || (x.dist.le y.dist && x.c ≤ y.c)

/-- Child `c` of a node, if its kind, mask and box let the ray in (15 R333, R335, R338). `num` reads the node's bytes. -/
def childOf (r : RayVals) (mask : Nat) (num : Nat → Nat → Nat) (origin : Vec3) (c : Nat) : Option Child :=
  let metaByte := num (0x18 + c) 1
  let kind := metaByte / 64
  let ex (a : Nat) : Nat := num (0x0C + a) 1
  if (kind != 1 && kind != 2) || (num (0x60 + c) 1 &&& mask) == 0 || ex 0 == 255 || ex 1 == 255 || ex 2 == 255 then none
  else
    let q (k : Nat) : Nat := num (0x20 + 6 * c + k) 1
    let axis (a : Nat) (o : Int) (ro rd : Int) : Option (XR × XR) :=
      slab ro rd (bound .rd o (q a) (ex a)) (bound .ru o (q (3 + a)) (ex a))
    let slabs := [axis 0 origin.1 r.o.1 r.d.1, axis 1 origin.2.1 r.o.2.1 r.d.2.1, axis 2 origin.2.2 r.o.2.2 r.d.2.2]
    (boxTest r slabs).map fun t =>
      ⟨t, c, kind == 2, num (if kind == 2 then 0x14 else 0x10) 4 + metaByte % 64, num (0x50 + 2 * c) 2⟩

/-- The children of a node in rank order; those at depth 48 or more are empty (15 R335, R338). -/
def rankChildren (r : RayVals) (mask depth : Nat) (num : Nat → Nat → Nat) : List Child :=
  match vecAt num 0 with
  | none => []
  | some origin =>
    if 48 ≤ depth + 1 then []
    else sortBy Child.before ((List.range 8).filterMap (childOf r mask num origin))

/-! ### Triangles (15 R334, R335, R340) -/

/-- A candidate hit: t, u, v as binary32, and whether the triangle is back-facing. -/
structure Hit where
  t : Nat
  u : Nat
  v : Nat
  back : Bool
  deriving DecidableEq, Repr

/-- The exact test of a triangle: closed edges, a determinant that is not zero, facing, and the range of the rounded t. -/
def triTest (r : RayVals) (cull : Bool) (v0 v1 v2 : Vec3) : Option Hit :=
  let a := v0.sub r.o
  let b := v1.sub r.o
  let c := v2.sub r.o
  let e0 := r.d.dot (b.cross c)
  let e1 := r.d.dot (c.cross a)
  let e2 := r.d.dot (a.cross b)
  let n := (v1.sub v0).cross (v2.sub v0)
  let det := n.dot r.d
  let met := (0 ≤ e0 && 0 ≤ e1 && 0 ≤ e2) || (e0 ≤ 0 && e1 ≤ 0 && e2 ≤ 0)
  if det = 0 || !met || (cull && 0 < det) then none
  else
    let t := (XR.quot (a.dot n) det).round .rne
    let tv := (f32Val false t).getD .pos
    if r.tmin.le tv && tv.le r.tmax then
      some ⟨t, (XR.quot e1 det).round .rne, (XR.quot e2 det).round .rne, decide (0 < det)⟩
    else none

/-- Triangle `i` of a cluster tested; `num` reads the cluster's bytes (15 R335: what is malformed is skipped). -/
def clusterTest (r : RayVals) (cull : Bool) (num : Nat → Nat → Nat) (i : Nat) : Option Hit :=
  let v := num 5 1
  let ix (k : Nat) : Nat := num (0x10 + 12 * v + 3 * i + k) 1
  if v ≤ ix 0 || v ≤ ix 1 || v ≤ ix 2 then none
  else match vecAt num (0x10 + 12 * ix 0), vecAt num (0x10 + 12 * ix 1), vecAt num (0x10 + 12 * ix 2) with
    | some v0, some v1, some v2 => triTest r cull v0 v1 v2
    | _, _, _ => none

/-- The triangles of a cluster, 0 where it yields none (15 R335). -/
def clusterTris (t v : Nat) : Nat := if t = 0 || 64 < t || 64 < v then 0 else t

/-- Whether a candidate beats the committed hit of a record (15 R340). -/
def beats (num : Nat → Nat → Nat) (t id : Nat) : Bool :=
  num 0x71 1 % 2 == 0 || (match f32Val false t, f32Val false (num 0x40 4) with
    | some x, some y => x.lt y || (x.le y && y.le x && id < num 0x4C 4)
    | _, _ => false)

end Sys2Proof.Machine
end

