-- ==== Sys2Proof/Machine/Builds.lean ====
section
/-! DEFINITION. What a builder writes: clusters, trees, their numbering, nodes, and the order of the writes (16 R359-R366). -/
namespace Sys2Proof.Machine

/-! ### Reads of a builder -/

/-- Whose reads they are: context, builder, and the quadwords behind lane stores in flight at issue. -/
structure BEnv where
  ctx : Nat
  builder : Nat
  old : List (Nat × Word)

/-- Why planning stops: a translation fault, a line that is absent, room or a turn that is awaited, or a status with its NEED (16
Table 16.3). -/
inductive BErr where
  | fault (va : Word) (k : FaultKind) | wait | status (code need : Nat)

/-- A planning under way: the machine, the time its reads have come to, the quadwords read in earlier steps that it still takes,
those read in this one, how many more it may read, and its space in the engine save region. -/
structure BRun where
  s : State
  time : Nat
  log : List Word
  got : List Word
  left : Nat
  area : Option (Nat × Nat)

/-- Planning reads memory at the command's time and later, a quadword at a time; what it has read it takes again as read (13 R300,
16 R368). -/
abbrev BM := ExceptT BErr (StateM BRun)

/-- A number in a list of bytes. -/
def numIn (bs : List Byte) (off n : Nat) : Nat := ofBytes ((bs.drop off).take n)

/-- An aligned quadword read. -/
def bQuad (env : BEnv) (q : Nat) : BM (List Byte) :=
  ExceptT.mk fun r => match r.log with
    | x :: log => (.ok (bytesOf 8 x.toNat), { r with log := log })
    | [] => match r.left with
      | 0 => (.error .wait, r)
      | left + 1 => match r.s.engineTranslate [tlbBuilder env.builder] env.ctx (BitVec.ofNat 64 (8 * q)) .read with
        | (s, .error k) => (.error (.fault (BitVec.ofNat 64 (8 * q)) k), { r with s := s })
        | (s, .ok pa) =>
          if s.absentAt pa 8 then (.error .wait, { r with s := s })
          else
            let (s, x, t) := s.engineRead r.time pa 8 env.old 0
            (.ok (bytesOf 8 x), { r with s := s, time := max r.time t, got := BitVec.ofNat 64 x :: r.got, left := left })

/-- Bytes read. -/
def bRead (env : BEnv) (va n : Nat) : BM (List Byte) := do
  let qs ← (List.range (ceilDiv (va % 8 + n) 8)).mapM fun j => bQuad env (va / 8 + j)
  return (qs.flatten.drop (va % 8)).take n

/-- A command ends with a status. -/
def bStatus {α : Type} (code need : Nat) : BM α := throw (.status code need)

/-! ### Clusters (16 R357, R360) -/

/-- A box: its low and high corners in units of 2^-149. -/
abbrev Box := Vec3 × Vec3
def Vec3.map2 (g : Int → Int → Int) (a b : Vec3) : Vec3 := (g a.1 b.1, g a.2.1 b.2.1, g a.2.2 b.2.2)
/-- The union of boxes; none of no boxes. -/
def unionBox : List Box → Option Box
  | [] => none
  | b :: bs => some (bs.foldl (fun x y => (x.1.map2 min y.1, x.2.map2 max y.2)) b)

/-- A cluster a builder has read: where it stands, its bytes, key, exact bounds, stream index, and unit in L's arena. -/
structure Clu where
  va : Nat
  bytes : List Byte
  key : Option Nat
  box : Box
  idx : Nat
  unit : Nat

/-- The vertices of a cluster, none where one is not finite. -/
def vertices (bs : List Byte) (v : Nat) : Option (List Vec3) :=
  (List.range v).mapM fun j =>
    let at_ (a : Nat) : Option Int := f32Int false (numIn bs (16 + 12 * j + 4 * a) 4)
    match at_ 0, at_ 1, at_ 2 with
    | some x, some y, some z => some (x, y, z)
    | _, _, _ => none

/-- A cluster read and checked (16 R360): T and V, vertex indexes, and finite coordinates; a failed check is status 6. -/
def readCluster (env : BEnv) (va : Nat) (key : Option Nat) (idx unit : Nat) : BM Clu := do
  let first ← bRead env va 128
  let t := numIn first 4 1
  let v := numIn first 5 1
  if t = 0 || 64 < t || v = 0 || 64 < v then bStatus 6 0
  else
    let units := ceilDiv (16 + 12 * v + 3 * t) 128
    let rest ← bRead env (va + 128) (128 * (units - 1))
    let bs := first ++ rest
    let bad := (List.range (3 * t)).any fun k => v ≤ numIn bs (16 + 12 * v + k) 1
    match if bad then none else vertices bs v with
    | none => bStatus 6 0
    | some ps => match unionBox (ps.map fun p => (p, p)) with
      | some b => return ⟨va, bs, key, b, idx, unit⟩
      | none => bStatus 6 0

/-- A cluster read whole and not checked, for COMPACT (16 R365). -/
def copyCluster (env : BEnv) (va : Nat) (key : Option Nat) (unit : Nat) : BM Clu := do
  let first ← bRead env va 128
  let t := numIn first 4 1
  let v := numIn first 5 1
  let units := if t = 0 || 64 < t || 64 < v then 1 else ceilDiv (16 + 12 * v + 3 * t) 128
  let rest ← bRead env (va + 128) (128 * (units - 1))
  return ⟨va, first ++ rest, key, ((0, 0, 0), (0, 0, 0)), 0, unit⟩

/-! ### Trees -/

/-- A node as it stands in L: its index, bases and bytes. -/
structure OldNode where
  idx : Nat
  childBase : Nat
  leafBase : Nat
  bytes : List Byte

/-- A node being built: quality, fence id, where it stood in L, and the area of its decoded child boxes there, while its
quality is still to follow (16 R364). -/
structure NodeInfo where
  q : Nat
  fence : Nat
  old : Option OldNode
  area : Option (Option Int)

/-- A structure's tree: children by their positions. -/
inductive BTree where
  | leaf (c : Clu)
  | node (i : NodeInfo) (kids : List (Nat × BTree))

def BTree.isNode : BTree → Bool
  | .node _ _ => true
  | .leaf _ => false
def BTree.kids : BTree → List (Nat × BTree)
  | .node _ ks => ks
  | .leaf _ => []
def BTree.info? : BTree → Option NodeInfo
  | .node i _ => some i
  | .leaf _ => none

/-- How deep trees go: 48 levels (15 R335), with room for splits of equal keys. -/
def treeFuel : Nat := 64

/-- The exact box of a tree. -/
def BTree.box : Nat → BTree → Option Box
  | _, .leaf c => some c.box
  | 0, _ => none
  | n + 1, .node _ ks => unionBox (ks.filterMap fun k => k.2.box n)

/-- The clusters of a tree. -/
def BTree.clusters : Nat → BTree → List Clu
  | _, .leaf c => [c]
  | 0, _ => []
  | n + 1, .node _ ks => ks.flatMap fun k => k.2.clusters n

/-- Nodes breadth-first, those of a level and then of the levels below it, `n` levels. -/
def bfs : Nat → List BTree → List BTree
  | 0, _ => []
  | n + 1, level =>
    let nodes := level.filter BTree.isNode
    if nodes.isEmpty then [] else nodes ++ bfs n (nodes.flatMap fun t => t.kids.map (·.2))

/-- The roots of the fenced subtrees: the internal nodes `fd` levels down (16 R362). -/
def fencedRoots (fd : Nat) (t : BTree) : List BTree :=
  let below (level : List BTree) : List BTree := level.flatMap fun t => (t.kids.map (·.2)).filter BTree.isNode
  (List.range fd).foldl (fun level _ => below level) [t]

/-- A tree with no fence ids (16 R364: they are assigned afresh). -/
def BTree.unfenced : Nat → BTree → BTree
  | _, .leaf c => .leaf c
  | 0, t => t
  | n + 1, .node i ks => .node { i with fence := 0 } (ks.map fun (c, t) => (c, t.unfenced n))

/-- The subtrees of a tree of L that a fence stands before. -/
def BTree.fenced : Nat → BTree → List BTree
  | _, .leaf _ => []
  | 0, _ => []
  | n + 1, .node _ ks => ks.flatMap fun (_, t) =>
    (if ((t.info?.map (·.fence)).getD 0) != 0 then [t] else []) ++ t.fenced n

/-- Fence ids given to the fenced subtrees in key order (16 R362). -/
def assignFences (id : Nat → Nat) : Nat → Nat → Nat → BTree → BTree × Nat
  | _, _, k, .leaf c => (.leaf c, k)
  | 0, _, k, t => (t, k)
  | _ + 1, 0, k, .node i ks => (.node { i with fence := id k } ks, k + 1)
  | n + 1, d + 1, k, .node i ks =>
    let (ks, k) := ks.foldl (fun (acc, k) (c, t) =>
      let (t, k) := assignFences id n d k t
      (acc ++ [(c, t)], k)) (([] : List (Nat × BTree)), k)
    (.node i ks, k)

/-! ### A build's tree (16 R360) -/

/-- The midpoint of a box, rounded. -/
def midpoint (b : Box) : Vec3 :=
  let mid (x y : Int) : Int := (f32Int false ((XR.fin (x + y) (2 ^ 150)).round .rne)).getD 0
  b.1.map2 mid b.2

/-- The Morton code of a point within bounds. -/
def mortonKey (cb : Box) (c : Vec3) : Nat :=
  let scale (x lo hi : Int) : Nat := if hi = lo then 0 else ((x - lo) * (2 ^ 21 - 1) / (hi - lo)).toNat
  let x := scale c.1 cb.1.1 cb.2.1
  let y := scale c.2.1 cb.1.2.1 cb.2.2.1
  let z := scale c.2.2 cb.1.2.2 cb.2.2.2
  (List.range 21).foldl (fun k j =>
    k + (natBits x j j + 2 * natBits y j j + 4 * natBits z j j) * 2 ^ (3 * j)) 0

/-- Clusters with their keys, sorted by key and then stream index. -/
def mortonSort (cs : List Clu) : List (Nat × Clu) :=
  match unionBox (cs.map fun c => (midpoint c.box, midpoint c.box)) with
  | none => []
  | some cb => sortBy (fun a b : Nat × Clu => a.1 < b.1 || (a.1 == b.1 && a.2.idx ≤ b.2.idx))
      (cs.map fun c => (mortonKey cb (midpoint c.box), c))

/-- A list cut into `p` parts of equal size, the larger parts first. -/
def equalParts {α : Type} (l : List α) (p : Nat) : List (List α) :=
  let q := l.length / p
  let r := l.length % p
  (List.range p).map fun j => (l.drop (j * q + min j r)).take (if j < r then q + 1 else q)

/-- The parts of a range of sorted keys: by the highest octant in which they differ, or equal parts of equal keys. -/
def parts (l : List (Nat × Clu)) : List (List (Nat × Clu)) :=
  let lo := (l.head?.map (·.1)).getD 0
  let hi := (l.getLast?.map (·.1)).getD 0
  let x := lo ^^^ hi
  if x = 0 then equalParts l (min 8 l.length)
  else
    let sh := (bitLen x - 1) / 3 * 3
    ((List.range 8).map fun o => l.filter fun e => natBits e.1 (sh + 2) sh == o).filter (!·.isEmpty)

/-- A node of a range (16 R360). -/
def emit : Nat → List (Nat × Clu) → BTree
  | 0, _ => .node ⟨255, 0, none, none⟩ []
  | n + 1, l =>
    let kid (p : List (Nat × Clu)) : BTree := match p with
      | [e] => .leaf e.2
      | _ => emit n p
    .node ⟨255, 0, none, none⟩ ((parts l).zipIdx.map fun (p, c) => (c, kid p))

/-! ### Nodes (16 R361) -/

/-- A child as a node names it: position, kind, absolute index or unit, fence id, exact box. -/
structure Ref where
  slot : Nat
  leaf : Bool
  at_ : Nat
  fence : Nat
  box : Box

/-- The exponent of an axis: the smallest that spans the extent. -/
def axisExp (ext : Int) : Nat := ((List.range 255).find? fun e => ext ≤ 255 * 2 ^ (e + 22)).getD 254

/-- A child's box in the node's grid: three low and three high bytes. -/
def quantise (node : Box) (b : Box) : List Nat :=
  let lo (o h l : Int) : Nat := ((l - o) / (2 ^ (axisExp (h - o) + 22) : Int)).toNat
  let hi (o h x : Int) : Nat := (-((o - x) / (2 ^ (axisExp (h - o) + 22) : Int))).toNat
  [lo node.1.1 node.2.1 b.1.1, lo node.1.2.1 node.2.2.1 b.1.2.1, lo node.1.2.2 node.2.2.2 b.1.2.2,
   hi node.1.1 node.2.1 b.2.1, hi node.1.2.1 node.2.2.1 b.2.2.1, hi node.1.2.2 node.2.2.2 b.2.2.2]

/-- Bytes put into a list of bytes. -/
def putBytes (bs : List Byte) (off : Nat) (xs : List Byte) : List Byte := bs.take off ++ xs ++ bs.drop (off + xs.length)

/-- The bits of a value in units of 2^-149. -/
def f32Bits (x : Int) : Nat := (XR.fin x (2 ^ 149)).round .rne

/-- A node's bytes; what describes an absent child, and a base that no child uses, the spec leaves open. -/
def nodeBytes (addr q : Nat) (childBase leafBase : Option Nat) (refs : List Ref) : List Byte :=
  let free := (List.range 128).map fun o => BitVec.ofNat 8 (Config.nodeFill addr o)
  let bs := putBytes free 0x0F [BitVec.ofNat 8 q]
  let bs := putBytes (putBytes (putBytes bs 0x18 (bytesOf 8 0)) 0x60 (bytesOf 8 0)) 0x68 (bytesOf 24 0)
  let bs := match childBase with
    | some b => putBytes bs 0x10 (bytesOf 4 b)
    | none => bs
  let bs := match leafBase with
    | some b => putBytes bs 0x14 (bytesOf 4 b)
    | none => bs
  match unionBox (refs.map (·.box)) with
  | none => bs
  | some b =>
    let ext := b.2.sub b.1
    let bs := putBytes bs 0 (bytesOf 4 (f32Bits b.1.1) ++ bytesOf 4 (f32Bits b.1.2.1) ++ bytesOf 4 (f32Bits b.1.2.2)
      ++ bytesOf 1 (axisExp ext.1) ++ bytesOf 1 (axisExp ext.2.1) ++ bytesOf 1 (axisExp ext.2.2))
    refs.foldl (fun bs r =>
      let base := if r.leaf then leafBase else childBase
      let m := (if r.leaf then 0x80 else 0x40) + (r.at_ - base.getD 0) % 64
      let bs := putBytes bs (0x18 + r.slot) (bytesOf 1 m)
      let bs := putBytes bs (0x20 + 6 * r.slot) ((quantise b r.box).map (BitVec.ofNat 8))
      putBytes (putBytes bs (0x50 + 2 * r.slot) (bytesOf 2 r.fence)) (0x60 + r.slot) [0xFF#8]) bs

/-- A decoded child box of a node's bytes; none where a bound is not finite (15 R333). -/
def decodedBox (bs : List Byte) (c : Nat) : Option Box :=
  let at_ (rm : Rnd) (a k : Nat) : Option Int :=
    match f32Int false (numIn bs (4 * a) 4) with
    | some o => match bound rm o (numIn bs (0x20 + 6 * c + k) 1) (numIn bs (0x0C + a) 1) with
      | .fin n _ => some n
      | _ => none
    | none => none
  match at_ .rd 0 0, at_ .rd 1 1, at_ .rd 2 2, at_ .ru 0 3, at_ .ru 1 4, at_ .ru 2 5 with
  | some x, some y, some z, some x', some y', some z' => some ((x, y, z), (x', y', z'))
  | _, _, _, _, _, _ => none

/-- Half the surface area of the union of a node's decoded child boxes; none where a bound is not finite (16 R364). -/
def decodedArea (bs : List Byte) : Option Int :=
  let present := (List.range 8).filter fun c => let k := numIn bs (0x18 + c) 1 / 64; k == 1 || k == 2
  (present.mapM (decodedBox bs)).map fun boxes => match unionBox boxes with
    | none => 0
    | some b => let e := b.2.sub b.1; e.1 * e.2.1 + e.2.1 * e.2.2 + e.2.2 * e.1

/-- A refitted node's quality (16 R364). -/
def newQuality (q idx : Nat) (old new : Option Int) : Nat :=
  match old, new with
  | _, some 0 => q
  | some a, some b => min 255 ((q : Int) * a / b).toNat
  | _, _ => Config.qualityBeyond idx % 256

/-- The references of a node's children at places that do not matter: what its boxes encode to. -/
def plainRefs (n : Nat) (kids : List (Nat × BTree)) : List Ref :=
  kids.filterMap fun (c, t) => (t.box n).map fun b => ⟨c, !t.isNode, 0, 0, b⟩

/-- Qualities of the nodes that still wait for theirs, from the boxes as newly written. -/
def requality : Nat → BTree → BTree
  | _, .leaf c => .leaf c
  | 0, t => t
  | n + 1, .node i ks =>
    let ks := ks.map fun (c, t) => (c, requality n t)
    match i.area with
    | none => .node i ks
    | some a =>
      let bs := nodeBytes 0 0 none none (plainRefs n ks)
      .node { i with q := newQuality i.q ((i.old.map (·.idx)).getD 0) a (decodedArea bs), area := none } ks

/-! ### Numbering (16 R361) -/

/-- A node with its number, bases and references, and the clusters it names by their units. -/
structure PNode where
  idx : Nat
  info : NodeInfo
  childBase : Option Nat
  leafBase : Option Nat
  refs : List Ref
  clus : List (Nat × Clu)

/-- Units of a cluster. -/
def Clu.units (c : Clu) : Nat := c.bytes.length / 128

/-- A node's children numbered from counters for nodes and units. -/
def placeNode (idx : Nat) (t : BTree) (child unit : Nat) : PNode × Nat × Nat :=
  let (refs, clus, child', unit') := t.kids.foldl (fun (refs, clus, child, unit) (c, k) =>
    match k with
    | .leaf x => (refs ++ [(⟨c, true, unit, 0, x.box⟩ : Ref)], clus ++ [(unit, x)], child, unit + x.units)
    | .node i _ => (refs ++ [⟨c, false, child, i.fence, (k.box treeFuel).getD ((0, 0, 0), (0, 0, 0))⟩], clus, child + 1, unit))
    (([] : List Ref), ([] : List (Nat × Clu)), child, unit)
  let p : PNode :=
    { idx := idx, info := (t.info?).getD ⟨255, 0, none, none⟩
      childBase := if child' = child then none else some child
      leafBase := if unit' = unit then none else some unit, refs := refs, clus := clus }
  (p, child', unit')

/-- Nodes placed in order. -/
def placeNodes : List (Nat × BTree) → Nat → Nat → List PNode × Nat × Nat
  | [], child, unit => ([], child, unit)
  | (i, t) :: rest, child, unit =>
    let (p, child, unit) := placeNode i t child unit
    let (ps, child, unit) := placeNodes rest child unit
    (p :: ps, child, unit)

/-- A tree laid out: the top part, and each fenced subtree with its id; and where its nodes and units end. -/
structure Laid where
  top : List PNode
  subs : List (Nat × List PNode)
  nodes : Nat
  unitEnd : Nat

/-- The roots of the fenced subtrees placed, each with where its children's numbers have come to. -/
def placeRoots : List (Nat × Nat × BTree) → Nat → List (PNode × Nat) × Nat
  | [], unit => ([], unit)
  | (i, child, t) :: rest, unit =>
    let (p, child', unit) := placeNode i t child unit
    let (ps, unit) := placeRoots rest unit
    ((p, child') :: ps, unit)

/-- The rest of each fenced subtree placed. -/
def placeRests : List (PNode × Nat × List (Nat × BTree)) → Nat → List (Nat × List PNode) × Nat
  | [], unit => ([], unit)
  | (root, child, rest) :: more, unit =>
    let (ps, _, unit) := placeNodes rest child unit
    let (all, unit) := placeRests more unit
    ((root.info.fence, root :: ps) :: all, unit)

/-- The numbering of R361: the top part breadth-first, the fenced roots, then the rest of each subtree. -/
def layOut (fd : Nat) (t : BTree) (rootIdx child unit : Nat) : Laid :=
  let top := bfs fd [t]
  let subs := fencedRoots fd t
  let subAt := child + (top.length - 1)
  let topIdx := top.zipIdx.map fun (x, k) => (if k = 0 then rootIdx else child + k - 1, x)
  let (ptop, _, unit1) := placeNodes topIdx child unit
  let rests := subs.map fun x => (bfs treeFuel [x]).drop 1
  let start (j : Nat) : Nat := subAt + subs.length + ((rests.take j).map List.length).sum
  let (roots, unit2) := placeRoots (subs.zipIdx.map fun (x, j) => (subAt + j, start j, x)) unit1
  let numbered := (roots.zip rests).zipIdx.map fun ((p, rest), j) =>
    (p.1, p.2, rest.zipIdx.map fun (x, k) => (start j + k, x))
  let (psubs, unit3) := placeRests numbered unit2
  ⟨ptop, psubs, top.length + subs.length + (rests.map List.length).sum, unit3⟩

/-! ### Writes in their order (16 R362) -/

/-- Bytes as writes of 128-byte units. -/
def unitWrites (va : Nat) (bs : List Byte) : List BWrite :=
  (List.range (ceilDiv bs.length 128)).map fun j =>
    { addr := BitVec.ofNat 64 (va + 128 * j), data := (bs.drop (128 * j)).take 128 }

/-- A node's bytes for COMPACT: as they were, with the references renumbered (16 R365). -/
def compactBytes (p : PNode) (bs : List Byte) : List Byte :=
  let bs := putBytes bs 0x18 (bytesOf 8 0)
  let bs := putBytes (putBytes bs 0x10 (bytesOf 4 (p.childBase.getD 0))) 0x14 (bytesOf 4 (p.leafBase.getD 0))
  p.refs.foldl (fun bs r =>
    let base := if r.leaf then p.leafBase else p.childBase
    let m := (if r.leaf then 0x80 else 0x40) + (r.at_ - base.getD 0) % 64
    putBytes (putBytes bs (0x18 + r.slot) (bytesOf 1 m)) (0x50 + 2 * r.slot) (bytesOf 2 r.fence)) bs

/-- A cluster's writes, the last of which puts its key in the map (16 R362, R370). -/
def clusterWrites (leaves u : Nat) (c : Clu) : List BWrite :=
  let ws := unitWrites (leaves + 128 * u) c.bytes
  ws.zipIdx.map fun (x, j) => if j + 1 = ws.length then { x with names := c.key.map fun k => (k, u) } else x

/-- Nodes, each followed by its clusters. -/
def groupWrites (nodes leaves : Nat) (compact : Bool) (ps : List PNode) : List BWrite :=
  ps.flatMap fun p =>
    let addr := nodes + 128 * p.idx
    let bs := match compact, p.info.old with
      | true, some o => compactBytes p o.bytes
      | _, _ => nodeBytes addr p.info.q p.childBase p.leafBase p.refs
    { addr := BitVec.ofNat 64 addr, data := bs } :: p.clus.flatMap fun (u, c) => clusterWrites leaves u c

/-- A fence entry written. -/
def fenceWrite (fences g id : Nat) : BWrite := { addr := BitVec.ofNat 64 (fences + 8 * id), data := bytesOf 8 g }

/-- The fenced subtrees in order, each followed by its id's fence once no later subtree shares it; `gone` are ids of dropped
subtrees by their place (16 R362, R364). -/
def subWrites (nodes leaves fences g : Nat) (compact : Bool) (ids : List Nat) (subs : List (Nat × List PNode))
    (skip : Nat → Bool) : List BWrite :=
  ids.zipIdx.flatMap fun (id, j) =>
    let mine := if ids.idxOf id = j then subs.filter (fun x => x.1 == id) else []
    let last := !((ids.drop (j + 1)).contains id)
    (mine.flatMap fun x => groupWrites nodes leaves compact x.2)
      ++ (if last && !skip id then [fenceWrite fences g id] else [])

/-- The 128 bytes `j` of the cluster map of `cap` keys, or what there is of them (16 R359). -/
def mapPiece (m : AMap Nat) (cap j : Nat) : List Byte :=
  (List.range (min 32 (cap - 32 * j))).flatMap fun i => bytesOf 4 (AMap.getD m (32 * j + i) 0xFFFFFFFF)

/-- The writes of the cluster map: the unit of each key, of two copies the one written later (16 R359, R370). -/
def mapWrites (va cap : Nat) : List BWrite :=
  (List.range (ceilDiv (4 * cap) 128)).map fun j =>
    { addr := BitVec.ofNat 64 (va + 128 * j), data := [], map := some (cap, j) }

end Sys2Proof.Machine
end

