-- ==== Sys2Proof/Machine/Special.lean ====
section
/-! DEFINITION. The special-function unit: exact cases, error bounds, and the free value within a bound (07 R174-R177). -/
namespace Sys2Proof

/-- Fractional bits of the fixed-point work below. -/
def fxBits : Nat := 160
def fxOne : Nat := 2 ^ 160
/-- π, ln 2 and 2 ÷ √π in fixed point, truncated. -/
def fxPi : Nat := 4591442807048218921384805199743311128454155024418
def fxLn2 : Nat := 1013035739299659071135698605846798551586536899366
def fxTwoOverSqrtPi : Nat := 1649128000240172121335468122222580532118151184855

/-- A dyadic approximation M × 2^E of a positive value. -/
abbrev Approx := Nat × Int

/-- Σ x^k ÷ k! of a fixed-point x below 1, by `n` further terms. -/
def fxExpFrom (x : Nat) : Nat → Nat → Nat → Nat → Nat
  | 0, _, _, acc => acc
  | n + 1, k, term, acc =>
    let term' := term * x / (fxOne * k)
    fxExpFrom x n (k + 1) term' (acc + term')

def fxExp (x : Nat) : Nat := fxExpFrom x 48 1 fxOne fxOne

/-- A dyadic number in fixed point, rounded down. -/
def toFx (m : Nat) (e : Int) : Nat := if 0 ≤ e + fxBits then m * 2 ^ (e + fxBits).toNat else m >>> (-(e + fxBits)).toNat

/-- 2^(± x) of a fixed-point x. -/
def fxPow2 (neg : Bool) (x : Nat) : Approx :=
  let s : Int := if neg then -(x : Int) else x
  let n := s / fxOne
  let f := (s - n * fxOne).toNat
  (fxExp (f * fxLn2 / fxOne), n - fxBits)

/-- Σ t^(2k+1) ÷ (2k+1), by `n` terms. -/
def fxAtanhFrom (t2 : Nat) : Nat → Nat → Nat → Nat → Nat
  | 0, _, _, acc => acc
  | n + 1, k, p, acc => fxAtanhFrom t2 n (k + 2) (p * t2 / fxOne) (acc + p / k)

/-- ln of y in [1, 2), in fixed point. -/
def fxLn (y : Nat) : Nat :=
  let t := (y - fxOne) * fxOne / (y + fxOne)
  2 * fxAtanhFrom (t * t / fxOne) 56 1 t 0

/-- Σ (−1)^k x^k ÷ ((k0 + 2k − 1)! ratio): the shared alternating series of sine and cosine, `a` the running factor. -/
def fxTrigFrom (x2 : Nat) : Nat → Nat → Nat → Bool → Int → Int
  | 0, _, _, _, acc => acc
  | n + 1, a, term, neg, acc =>
    let term' := term * x2 / (fxOne * (a * (a + 1)))
    fxTrigFrom x2 n (a + 2) term' (!neg) (if neg then acc + term' else acc - term')

/-- sin(π r) for a fixed-point r in [0, 1/2]. -/
def fxSinPi (r : Nat) : Nat :=
  let y := r * fxPi / fxOne
  (fxTrigFrom (y * y / fxOne) 30 2 y false y).toNat

/-- The alternating series of the error function: Σ (−1)^n y^n ÷ (n! (2n + 1)). -/
def fxErfFrom (y : Nat) : Nat → Nat → Nat → Bool → Int → Int
  | 0, _, _, _, acc => acc
  | n + 1, k, term, neg, acc =>
    let term' := term * y / (fxOne * k)
    let c : Int := (term' / (2 * k + 1) : Nat)
    fxErfFrom y n (k + 1) term' (!neg) (if neg then acc - c else acc + c)

/-- An approximation as a value. -/
def Approx.val (neg : Bool) (a : Approx) : FVal := .fin neg a.1 a.2

/-- The spacing exponent of the format at a positive approximation (07 R175, "ULP"). -/
def Fmt.ulpExp (F : Fmt) (a : Approx) : Int := max (a.2 + bitLen a.1 - (F.mbits + 1 : Nat)) F.qmin

/-- Whether an encoding is a number within `b` units of 2^be of the approximation. -/
def Fmt.within (F : Fmt) (c : Nat) (neg : Bool) (a : Approx) (b : Nat) (be : Int) : Bool :=
  match F.unpack c with
  | .fin s m e =>
    let q := min (min e a.2) be
    let d := (FVal.fin s m e).scaled q - (FVal.fin neg a.1 a.2).scaled q
    decide (d.natAbs ≤ b * 2 ^ (be - q).toNat)
  | _ => false

/-- The value of the unit's tables where it lies within the bound, else the nearest value to the true one; a subnormal
is flushed with UF and NX to a zero of its sign. Where the bound is in ULP (`ulp`) a value below the least normal stands for a
true value of the sign `neg` that is not zero, so it is flushed with that sign, a zero of the tables too (07 R174, R175). The
function's number, the format and the argument fix the choice. -/
def Fmt.sfuPick (F : Fmt) (fn x : Nat) (neg : Bool) (a : Approx) (b : Nat) (be : Int) (ulp : Bool) : Nat × FFlags :=
  let c := Config.sfuValue fn (F.ebits, F.mbits) x % 2 ^ F.width
  let near := (F.round .rne false neg a.1 a.2 false).1
  let r := if b != 0 && F.within c neg a b be then c else near
  if ulp && (F.isSub r || F.isZero r) then (F.signed neg 0, flagUF ||| flagNX)
  else if F.isSub r then (F.signed (F.negBit r) 0, flagUF ||| flagNX)
  else (r, 0#5)

/-- A bound in ULP of the result: the stated one for binary32, one for the 16-bit formats (07 R174). -/
def Fmt.sfuUlp (F : Fmt) (fn x : Nat) (neg : Bool) (a : Approx) (ulps : Nat) : Nat × FFlags :=
  F.sfuPick fn x neg a (if F == fmtF32 || ulps == 0 then ulps else 1) (F.ulpExp a) true

/-- An absolute bound of 2^−22 for binary32, one ULP for the 16-bit formats (07 R174, R175). -/
def Fmt.sfuAbs (F : Fmt) (fn x : Nat) (neg : Bool) (a : Approx) : Nat × FFlags :=
  if F == fmtF32 then F.sfuPick fn x neg a 1 (-22) false else F.sfuPick fn x neg a 1 (F.ulpExp a) true

/-- Infinity of a sign with the flags of an overflow (07 R174). -/
def Fmt.sfuOver (F : Fmt) (neg : Bool) : Nat × FFlags := (F.signed neg F.infBits, flagOF ||| flagNX)

/-- A zero of a sign with the flags of a flushed result. -/
def Fmt.sfuFlush (F : Fmt) (neg : Bool) : Nat × FFlags := (F.signed neg 0, flagUF ||| flagNX)

/-- One in the format. -/
def Fmt.oneBits (F : Fmt) : Nat := F.bias * 2 ^ F.mbits

/-- One half in the format. -/
def Fmt.halfBits (F : Fmt) : Nat := (F.bias - 1) * 2 ^ F.mbits

/-- Whether m is a power of two. -/
def isPow2 (m : Nat) : Bool := m != 0 && m == 2 ^ m.log2

/-- A magnitude compared with a dyadic bound: m × 2^e < n × 2^f. -/
def dyLt (m : Nat) (e : Int) (n : Nat) (f : Int) : Bool :=
  let q := min e f
  m * 2 ^ (e - q).toNat < n * 2 ^ (f - q).toNat

/-- RCP (Tables 7.6, 7.7). -/
def Fmt.rcp (F : Fmt) (x : Nat) (s : Bool) (m : Nat) (e : Int) : Nat × FFlags :=
  if m == 0 then (F.signed s F.infBits, flagDZ)
  else if !dyLt 1 (-(F.bias + 1 : Nat)) m e then F.sfuOver s
  else if dyLt 1 ((F.bias : Int) - 1) m e then F.sfuFlush s
  else
    let k := 2 * fxBits
    F.sfuUlp 0 x s (2 ^ k / m, -e - k) (if isPow2 m then 0 else 1)

/-- RSQ of a positive finite value (Table 7.6). -/
def Fmt.rsq (F : Fmt) (x : Nat) (m : Nat) (e : Int) : Nat × FFlags :=
  let k := 2 * fxBits + (e % 2).toNat
  let n := 2 ^ (2 * k + 2) / (m <<< (e % 2).toNat)
  let n2 := n / 2 ^ ((2 * k + 2) % 2)
  let a : Approx := (isqrt n2, -(e - e % 2) / 2 - (k + 1))
  F.sfuUlp 1 x false a (if isPow2 m && (e + m.log2) % 2 == 0 then 0 else 1)

/-- SQRTA of a positive finite value (Table 7.6). -/
def Fmt.sqrta (F : Fmt) (x : Nat) (m : Nat) (e : Int) : Nat × FFlags :=
  let k := 2 * fxBits + (e % 2).toNat
  let a : Approx := (isqrt (m <<< k), (e - k) / 2)
  F.sfuUlp 2 x false a (if isPow2 m && (e + m.log2) % 2 == 0 then 0 else 1)

/-- EX2 of a finite value (Table 7.6). -/
def Fmt.ex2 (F : Fmt) (x : Nat) (s : Bool) (m : Nat) (e : Int) : Nat × FFlags :=
  if m == 0 then (F.oneBits, 0#5)
  else if !s && !dyLt m e (F.bias + 1) 0 then F.sfuOver false
  else if s && dyLt (F.bias - 1) 0 m e then F.sfuFlush false
  else
    let fx := toFx m e
    F.sfuUlp 3 x false (fxPow2 s fx) (if 0 ≤ e || m % 2 ^ (-e).toNat == 0 then 0 else 2)

/-- LG2 of a positive finite value (Table 7.6). -/
def Fmt.lg2 (F : Fmt) (x : Nat) (m : Nat) (e : Int) : Nat × FFlags :=
  let k := m.log2
  let n : Int := e + k
  let y := m * fxOne / 2 ^ k
  let l : Int := n * fxOne + (fxLn y * fxOne / fxLn2 : Nat)
  if l == 0 then (0, 0#5)
  else
    let a : Approx := (l.natAbs, -(fxBits : Int))
    if isPow2 m then F.sfuUlp 4 x (l < 0) a 0
    else if n == -1 || n == 0 then F.sfuAbs 4 x (l < 0) a
    else F.sfuUlp 4 x (l < 0) a 2

/-- sin(πx) or, with `isCos`, cos(πx) of a finite value (Table 7.6); `fn` numbers the function. -/
def Fmt.sinCosPi (F : Fmt) (fn : Nat) (isCos : Bool) (x : Nat) (s : Bool) (m : Nat) (e : Int) : Nat × FFlags :=
  if m == 0 then (if isCos then F.oneBits else F.signed s 0, 0#5)
  else if 0 ≤ e || m % 2 ^ (-e).toNat == 0 then
    let n := if 0 ≤ e then m * 2 ^ (min e 1).toNat else m >>> (-e).toNat
    (if isCos then F.signed (n % 2 == 1) F.oneBits else F.signed s 0, 0#5)
  else if m % 2 ^ (-e - 1).toNat == 0 then
    let n := m >>> (-e - 1).toNat
    (if isCos then 0 else F.signed (s != (n % 4 == 3)) F.oneBits, 0#5)
  else
    let r := toFx m e % (2 * fxOne)
    let r := if isCos then (r + fxOne / 2) % (2 * fxOne) else r
    let neg := fxOne ≤ r
    let r := r % fxOne
    let r := if fxOne / 2 < r then fxOne - r else r
    F.sfuAbs fn x (neg != (s && !isCos)) (fxSinPi r, -(fxBits : Int))

/-- TANH of a finite value (Table 7.6). -/
def Fmt.tanhF (F : Fmt) (x : Nat) (s : Bool) (m : Nat) (e : Int) : Nat × FFlags :=
  if m == 0 then (F.signed s 0, 0#5)
  else if dyLt m e 1 (-12) then (if F.isSub x then F.sfuFlush s else (x, 0#5))
  else if !dyLt m e 19 (-1) then (F.signed s F.oneBits, 0#5)
  else
    let y := 2 * toFx m e * fxOne / fxLn2
    let (g, ge) := fxPow2 false y
    let g := toFx g ge
    F.sfuUlp 8 x s ((g - fxOne) * fxOne / (g + fxOne), -(fxBits : Int)) 2

/-- SIGM of a finite value (Table 7.6). -/
def Fmt.sigm (F : Fmt) (x : Nat) (s : Bool) (m : Nat) (e : Int) : Nat × FFlags :=
  if m == 0 then (F.halfBits, 0#5)
  else if !s && !dyLt m e 35 (-1) then (F.oneBits, 0#5)
  else if s && dyLt 256 0 m e then F.sfuFlush false
  else
    let y := toFx m e * fxOne / fxLn2
    let (g, ge) := fxPow2 s y
    if s then
      let den := fxOne * 2 ^ fxBits + g * 2 ^ (ge + 2 * fxBits).toNat
      F.sfuUlp 9 x false (g * fxOne * 2 ^ fxBits / den, ge) 2
    else
      let g := toFx g ge
      F.sfuUlp 9 x false (g * fxOne / (g + fxOne), -(fxBits : Int)) 2

/-- ERF of a finite value (Table 7.6). -/
def Fmt.erfF (F : Fmt) (x : Nat) (s : Bool) (m : Nat) (e : Int) : Nat × FFlags :=
  if m == 0 then (F.signed s 0, 0#5)
  else if !dyLt m e 4 0 then (F.signed s F.oneBits, 0#5)
  else
    let v := toFx m e
    let g := (fxErfFrom (v * v / fxOne) 110 1 fxOne true fxOne).toNat
    F.sfuUlp 10 x s (m * (g * fxTwoOverSqrtPi / fxOne), e - fxBits) 2

/-- A special function by its number, opcode − 0x1C0, on one element (07 R174-R176); CISPI (7) is not one element. -/
def Fmt.sfu (F : Fmt) (fn : Nat) (x : Nat) : Nat × FFlags :=
  match F.unpack x with
  | .nan s => (F.canonNaN, if s then flagNV else 0#5)
  | .inf s =>
    match fn with
    | 0 => (F.signed s 0, 0#5)
    | 1 => if s then (F.canonNaN, flagNV) else (0, 0#5)
    | 2 | 4 => if s then (F.canonNaN, flagNV) else (F.infBits, 0#5)
    | 3 => (if s then 0 else F.infBits, 0#5)
    | 5 | 6 => (F.canonNaN, flagNV)
    | 9 => (if s then 0 else F.oneBits, 0#5)
    | _ => (F.signed s F.oneBits, 0#5)
  | .fin s m e =>
    match fn with
    | 0 => F.rcp x s m e
    | 1 => if m == 0 then (F.signed s F.infBits, flagDZ) else if s then (F.canonNaN, flagNV) else F.rsq x m e
    | 2 => if m == 0 then (F.signed s 0, 0#5) else if s then (F.canonNaN, flagNV) else F.sqrta x m e
    | 3 => F.ex2 x s m e
    | 4 => if m == 0 then (F.signed true F.infBits, flagDZ) else if s then (F.canonNaN, flagNV) else F.lg2 x m e
    | 5 => F.sinCosPi 5 false x s m e
    | 6 => F.sinCosPi 6 true x s m e
    | 8 => F.tanhF x s m e
    | 9 => F.sigm x s m e
    | _ => F.erfF x s m e

end Sys2Proof
end

