-- ==== Sys2Proof/Machine/Floating.lean ====
section
/-! DEFINITION. Floating-point, complex and special-function instructions, the mode register and the stochastic-rounding state (07). -/
namespace Sys2Proof.Machine

/-- An instruction with one value and flags a lane: the flags of every lane computed are accrued (02 R33); with a w
destination the result is computed once (06 R132). -/
def floatwise (e : Enc) (f : Fields) (s : State) (val : Iss → Nat → Word × FFlags) : Host.Outcome State Fault Refusal :=
  irlek e f s fun i s =>
    let lanes := match f.op0 with
      | .w _ => [i.low]
      | _ => i.act.lanes
    let rs := lanes.map fun l => (l, val i l)
    let fl := rs.foldl (fun fl r => fl ||| r.2.2) (0#5)
    let at_ (l : Nat) : Word := match rs.find? (fun r => r.1 == l) with
      | some r => r.2.1
      | none => 0
    .ok (s.modWarp i.wid fun w => w.accrue fl) (i.dest at_)

/-- The format of a floating-point type; .c32 counts as binary32. -/
def fmtOf (t : Ty) : Fmt := (t.fmt).getD fmtF32

/-- Results of the elements joined, with their flags. -/
def joinFl (t : Ty) (rs : List (Nat × FFlags)) : Word × FFlags :=
  (t.join (rs.map (·.1)), rs.foldl (fun fl r => fl ||| r.2) (0#5))

/-- Element by element over one, two or three sources. -/
def fl1 (t : Ty) (g : Nat → Nat × FFlags) (a : Word) : Word × FFlags := joinFl t ((t.elems a).map g)
def fl2 (t : Ty) (g : Nat → Nat → Nat × FFlags) (a b : Word) : Word × FFlags :=
  joinFl t (List.zipWith g (t.elems a) (t.elems b))
def fl3 (t : Ty) (g : Nat → Nat → Nat → Nat × FFlags) (a b c : Word) : Word × FFlags :=
  joinFl t (List.zipWith (fun h z => h z) (List.zipWith g (t.elems a) (t.elems b)) (t.elems c))

/-- The environment of an issued instruction. -/
def Iss.env (i : Iss) : FEnv := fenv i.f i.w.mode

/-! ### Arithmetic (07 R160, R161, R164, R169-R171) -/

/-- FADD (07 R160). -/
def execFadd (f : Fields) (s : State) : Host.Outcome State Fault Refusal :=
  floatwise Enc.fadd f s fun i l => fl2 f.ty ((fmtOf f.ty).add i.env) (i.src 1 l) (i.src 2 l)
/-- FSUB (07 R160). -/
def execFsub (f : Fields) (s : State) : Host.Outcome State Fault Refusal :=
  floatwise Enc.fsub f s fun i l => fl2 f.ty ((fmtOf f.ty).sub i.env) (i.src 1 l) (i.src 2 l)
/-- FMUL (07 R160). -/
def execFmul (f : Fields) (s : State) : Host.Outcome State Fault Refusal :=
  floatwise Enc.fmul f s fun i l => fl2 f.ty ((fmtOf f.ty).mul i.env) (i.src 1 l) (i.src 2 l)
/-- FFMA (07 R160). -/
def execFfma (f : Fields) (s : State) : Host.Outcome State Fault Refusal :=
  floatwise Enc.ffma f s fun i l => fl3 f.ty ((fmtOf f.ty).fma i.env) (i.src 1 l) (i.src 2 l) (i.src 3 l)
/-- FMIN (07 R161). -/
def execFmin (f : Fields) (s : State) : Host.Outcome State Fault Refusal :=
  floatwise Enc.fmin f s fun i l => fl2 f.ty ((fmtOf f.ty).minMax false i.env.ftz) (i.src 1 l) (i.src 2 l)
/-- FMAX (07 R161). -/
def execFmax (f : Fields) (s : State) : Host.Outcome State Fault Refusal :=
  floatwise Enc.fmax f s fun i l => fl2 f.ty ((fmtOf f.ty).minMax true i.env.ftz) (i.src 1 l) (i.src 2 l)

/-- FCMP (07 R162). -/
def execFcmp (f : Fields) (s : State) : Host.Outcome State Fault Refusal :=
  irlek Enc.fcmp f s fun i s =>
    let r (l : Nat) : Bool × FFlags :=
      (fmtOf f.ty).compare f.variant.toNat i.env.ftz (elemAt f.ty.width (i.src 1 l) 0) (elemAt f.ty.width (i.src 2 l) 0)
    let fl := i.act.lanes.foldl (fun fl l => fl ||| (r l).2) (0#5)
    let s := s.modWarp i.wid fun w => w.accrue fl
    match f.op0 with
    | .p n => .ok s [.p n.toNat i.act (Mask.of 64 fun l => i.act.has l && (r l).1)]
    | _ => .ok s []

/-- FCLASS: a one-hot mask per element; no flush, no flag (07 R163). -/
def execFclass (f : Fields) (s : State) : Host.Outcome State Fault Refusal :=
  lanewise Enc.fclass f s fun i l => f.ty.join ((f.ty.elems (i.src 1 l)).map fun x => 2 ^ (fmtOf f.ty).classBit x)

/-- FCLASS.test (07 R163). -/
def execFclassTest (f : Fields) (s : State) : Host.Outcome State Fault Refusal :=
  irlek Enc.fclassTest f s fun i s =>
    let bit (l : Nat) : Bool := (i.uni 2).getLsbD ((fmtOf f.ty).classBit (elemAt f.ty.width (i.src 1 l) 0))
    match f.op0 with
    | .p n => .ok s [.p n.toNat i.act (Mask.of 64 fun l => i.act.has l && bit l)]
    | _ => .ok s []

/-- FRND (07 R164). -/
def execFrnd (f : Fields) (s : State) : Host.Outcome State Fault Refusal :=
  floatwise Enc.frnd f s fun i l => fl1 f.ty ((fmtOf f.ty).frnd false i.env) (i.src 1 l)
/-- FRND.x (07 R164). -/
def execFrndX (f : Fields) (s : State) : Host.Outcome State Fault Refusal :=
  floatwise Enc.frndX f s fun i l => fl1 f.ty ((fmtOf f.ty).frnd true i.env) (i.src 1 l)

/-- FSCALE: element `k` of operand 2 is a signed integer of the element's width, an immediate a signed integer
(07 R169). -/
def execFscale (f : Fields) (s : State) : Host.Outcome State Fault Refusal :=
  floatwise Enc.fscale f s fun i l =>
    let n (k : Nat) : Int := match f.op2 with
      | .imm x => immSigned x
      | _ => toSigned f.ty.width (elemAt f.ty.width (i.src 2 l) k)
    joinFl f.ty ((f.ty.elems (i.src 1 l)).zipIdx.map fun (x, k) => (fmtOf f.ty).scale i.env x (n k))

/-- FDOT2: two products and an addend exactly, rounded once to binary32 (07 R170). -/
def execFdot2 (f : Fields) (s : State) : Host.Outcome State Fault Refusal :=
  floatwise Enc.fdot2 f s fun i l =>
    let F := fmtOf f.ty
    let w := f.ty.width
    let a := i.src 1 l
    let b := i.src 2 l
    let c := match f.op3 with
      | .imm x => splat 32 (fmtF32.immBits x)
      | _ => i.src 3 l
    let part (k : Nat) : Nat × FFlags :=
      F.dot fmtF32 i.env [(elemAt w a (2 * k), elemAt w b (2 * k), false),
        (elemAt w a (2 * k + 1), elemAt w b (2 * k + 1), false)] [elemAt 32 c k]
    if f.ty == .f32x2 then
      let r := part 0
      (BitVec.ofNat 64 r.1, r.2)
    else
      let r := part 0
      let q := part 1
      (joinElems 32 [r.1, q.1], r.2 ||| q.2)

/-- FDIV (07 R171). -/
def execFdiv (f : Fields) (s : State) : Host.Outcome State Fault Refusal :=
  floatwise Enc.fdiv f s fun i l => fl2 f.ty ((fmtOf f.ty).div i.env) (i.src 1 l) (i.src 2 l)
/-- FSQRT (07 R171). -/
def execFsqrt (f : Fields) (s : State) : Host.Outcome State Fault Refusal :=
  floatwise Enc.fsqrt f s fun i l => fl1 f.ty ((fmtOf f.ty).sqrt i.env) (i.src 1 l)

/-! ### FCVT (07 R165-R167) -/

/-- One element converted; `draw` is the lane's state after the element's step, for SR (07 R167). -/
def cvtElem (src dst : Ty) (env : FEnv) (sr : Bool) (draw : BitVec 32) (x : Nat) : Nat × FFlags :=
  match src.fmt, dst.fmt with
  | some S, some D =>
    let v := S.read env.ftz x
    -- the flush of the output belongs to D's formats, which `ofVal` observes
    if sr then D.ofValSR env draw v else D.ofVal env v
  | some S, none => floatToInt env dst.signed dst.width (S.read env.ftz x)
  | none, some D => if sr then D.ofValSR env draw (intVal (src.toInt x)) else D.ofVal env (intVal (src.toInt x))
  | none, none => (0, 0)

/-- Elements converted in ascending order, each drawing once under SR (02 R31). -/
def cvtElems (src dst : Ty) (env : FEnv) (sr : Bool) : List Nat → BitVec 32 → List (Nat × FFlags) × BitVec 32
  | [], st => ([], st)
  | x :: xs, st =>
    let st := if sr then srStep st else st
    let r := cvtElem src dst env sr st x
    let (rs, st) := cvtElems src dst env sr xs st
    (r :: rs, st)

/-- FCVT of a lane: its result, flags and stochastic-rounding state (07 R166). -/
def cvtLane (f : Fields) (env : FEnv) (src : Ty) (a m : Word) (st : BitVec 32) : Word × FFlags × BitVec 32 :=
  let es := src.count
  let ed := f.ty.count
  let q := match f.op2 with
    | .imm x => x.toNat
    | _ => 0
  let sr := f.rounding == 5
  if es ≤ ed then
    let (rs, st) := cvtElems src f.ty env sr ((List.range es).map (elemAt src.width a)) st
    let out (j : Nat) : Nat :=
      if q * es ≤ j && j < (q + 1) * es then ((rs[j - q * es]?).map (·.1)).getD 0
      else if f.op3 == .absent then 0 else elemAt f.ty.width m j
    (f.ty.join ((List.range ed).map out), rs.foldl (fun fl r => fl ||| r.2) 0, st)
  else
    let (rs, st) := cvtElems src f.ty env sr ((List.range ed).map fun j => elemAt src.width a (q * ed + j)) st
    (f.ty.join (rs.map (·.1)), rs.foldl (fun fl r => fl ||| r.2) 0, st)

/-- The stochastic-rounding state of a lane. -/
def Warp.srOf (w : Warp) (l : Nat) : BitVec 32 := ((w.lanes[l]?).map (·.sr)).getD 1

/-- FCVT: with a w destination only the lowest active lane computes and draws (02 R31, 07 R166). -/
def execFcvt (f : Fields) (s : State) : Host.Outcome State Fault Refusal :=
  irlek Enc.fcvt f s fun i s =>
    let src := (Enc.fcvtSrc f).getD .noType
    let lanes := match f.op0 with
      | .w _ => [i.low]
      | _ => i.act.lanes
    let rs := lanes.map fun l => (l, cvtLane f i.env src (i.src 1 l) (i.src 3 l) (i.w.srOf l))
    let find (l : Nat) : Option (Word × FFlags × BitVec 32) := (rs.find? fun r => r.1 == l).map (·.2)
    let fl := rs.foldl (fun fl r => fl ||| r.2.2.1) (0#5)
    let s := s.modWarp i.wid fun w =>
      { w.accrue fl with lanes := w.lanes.zipIdx.map fun (x, l) => match find l with
          | some r => { x with sr := r.2.2 }
          | none => x }
    .ok s (i.dest fun l => ((find l).map (·.1)).getD 0)

/-! ### Complex (07 R172, R173) -/

/-- The real and imaginary parts of a lane. -/
def rePart (x : Word) : Nat := elemAt 32 x 0
def imPart (x : Word) : Nat := elemAt 32 x 1

/-- A × B + C, or A × conj(B) + C, each part one exact sum rounded once (07 R172). -/
def complexDot (env : FEnv) (conj : Bool) (a b : Word) (c : Option Word) : Word × FFlags :=
  let re := fmtF32.dot fmtF32 env [(rePart a, rePart b, false), (imPart a, imPart b, !conj)] ((c.map rePart).toList)
  let im := fmtF32.dot fmtF32 env [(rePart a, imPart b, conj), (imPart a, rePart b, false)] ((c.map imPart).toList)
  (joinElems 32 [re.1, im.1], re.2 ||| im.2)

/-- CMUL (07 R172). -/
def execCmul (f : Fields) (s : State) : Host.Outcome State Fault Refusal :=
  floatwise Enc.cmul f s fun i l => complexDot i.env false (i.src 1 l) (i.src 2 l) none
/-- CFMA (07 R172). -/
def execCfma (f : Fields) (s : State) : Host.Outcome State Fault Refusal :=
  floatwise Enc.cfma f s fun i l => complexDot i.env false (i.src 1 l) (i.src 2 l) (some (i.src 3 l))
/-- CMULJ (07 R172). -/
def execCmulj (f : Fields) (s : State) : Host.Outcome State Fault Refusal :=
  floatwise Enc.cmulj f s fun i l => complexDot i.env true (i.src 1 l) (i.src 2 l) none
/-- CCONJ: bit 63 inverted (07 R173). -/
def execCconj (f : Fields) (s : State) : Host.Outcome State Fault Refusal :=
  lanewise Enc.cconj f s fun i l => i.src 1 l ^^^ (1#64 <<< 63)
/-- CABS2: |A|² and +0 (07 R172). -/
def execCabs2 (f : Fields) (s : State) : Host.Outcome State Fault Refusal :=
  floatwise Enc.cabs2 f s fun i l =>
    let a := i.src 1 l
    let r := fmtF32.dot fmtF32 i.env [(rePart a, rePart a, false), (imPart a, imPart a, false)] []
    (BitVec.ofNat 64 r.1, r.2)

/-! ### The mode register and the stochastic-rounding state (07 R158, R159, R168) -/

/-- MODESET with a new register value. -/
def modeset (e : Enc) (f : Fields) (s : State) (g : Word → Word → Word) : Host.Outcome State Fault Refusal :=
  irlek e f s fun i s => .ok (s.modWarp i.wid fun w => { w with mode := g w.mode (i.uni 0) }) []

/-- MODESET.all (07 R158). -/
def execModesetAll (f : Fields) (s : State) : Host.Outcome State Fault Refusal :=
  modeset Enc.modesetAll f s modeWrite
/-- MODESET.rm (07 R158). -/
def execModesetRm (f : Fields) (s : State) : Host.Outcome State Fault Refusal := modeset Enc.modesetRm f s setRm
/-- MODESET.ftz (07 R158). -/
def execModesetFtz (f : Fields) (s : State) : Host.Outcome State Fault Refusal :=
  modeset Enc.modesetFtz f s fun m v => (m &&& ~~~8#64) ||| ((v &&& 1#64) <<< 3)
/-- MODESET.fclr (07 R158). -/
def execModesetFclr (f : Fields) (s : State) : Host.Outcome State Fault Refusal :=
  modeset Enc.modesetFclr f s fun m v => m &&& ~~~(v &&& 0x1F00#64)
/-- MODEGET (07 R159). -/
def execModeget (f : Fields) (s : State) : Host.Outcome State Fault Refusal :=
  irlek Enc.modeget f s fun i s => .ok s (i.dest fun _ => i.w.mode)
/-- MODEGET.clr (07 R159). -/
def execModegetClr (f : Fields) (s : State) : Host.Outcome State Fault Refusal :=
  irlek Enc.modegetClr f s fun i s =>
    .ok (s.modWarp i.wid fun w => { w with mode := w.mode &&& ~~~0x1F00#64 }) (i.dest fun _ => i.w.mode)

/-- The stochastic-rounding states of the active lanes written (07 R168). -/
def seedLanes (e : Enc) (f : Fields) (s : State) (x : Iss → Nat → Nat) : Host.Outcome State Fault Refusal :=
  irlek e f s fun i s =>
    .ok (s.modWarp i.wid fun w =>
      { w with lanes := w.lanes.zipIdx.map fun (y, l) =>
          if i.act.has l then { y with sr := srStore (BitVec.ofNat 32 (x i l)) } else y }) []

/-- SEED (07 R168). -/
def execSeed (f : Fields) (s : State) : Host.Outcome State Fault Refusal :=
  seedLanes Enc.seed f s fun i l => (i.src 0 l).toNat
/-- SEED.lane (07 R168). -/
def execSeedLane (f : Fields) (s : State) : Host.Outcome State Fault Refusal :=
  seedLanes Enc.seedLane f s fun i l => (i.src 0 l).toNat + (i.w.teamWarp * i.w.width + l) * 0x2545F491

/-! ### Special functions (07 R174-R177) -/

/-- A special function element by element. -/
def specialFn (e : Enc) (f : Fields) (s : State) : Host.Outcome State Fault Refusal :=
  floatwise e f s fun i l => fl1 f.ty ((fmtOf f.ty).sfu (e.opcode - 0x1C0)) (i.src 1 l)

/-- RCP (07 R175, R176). -/
def execRcp (f : Fields) (s : State) : Host.Outcome State Fault Refusal := specialFn Enc.rcp f s
/-- RSQ (07 R175, R176). -/
def execRsq (f : Fields) (s : State) : Host.Outcome State Fault Refusal := specialFn Enc.rsq f s
/-- SQRTA (07 R175, R176). -/
def execSqrta (f : Fields) (s : State) : Host.Outcome State Fault Refusal := specialFn Enc.sqrta f s
/-- EX2 (07 R175, R176). -/
def execEx2 (f : Fields) (s : State) : Host.Outcome State Fault Refusal := specialFn Enc.ex2 f s
/-- LG2 (07 R175, R176). -/
def execLg2 (f : Fields) (s : State) : Host.Outcome State Fault Refusal := specialFn Enc.lg2 f s
/-- SINPI (07 R175, R176). -/
def execSinpi (f : Fields) (s : State) : Host.Outcome State Fault Refusal := specialFn Enc.sinpi f s
/-- COSPI (07 R175, R176). -/
def execCospi (f : Fields) (s : State) : Host.Outcome State Fault Refusal := specialFn Enc.cospi f s
/-- CISPI: cos(πx) and sin(πx) of the binary32 in the low half (07 R177). -/
def execCispi (f : Fields) (s : State) : Host.Outcome State Fault Refusal :=
  floatwise Enc.cispi f s fun i l =>
    let x := rePart (i.src 1 l)
    let c := fmtF32.sfu 6 x
    let d := fmtF32.sfu 5 x
    (joinElems 32 [c.1, d.1], c.2 ||| d.2)
/-- TANH (07 R175, R176). -/
def execTanh (f : Fields) (s : State) : Host.Outcome State Fault Refusal := specialFn Enc.tanh f s
/-- SIGM (07 R175, R176). -/
def execSigm (f : Fields) (s : State) : Host.Outcome State Fault Refusal := specialFn Enc.sigm f s
/-- ERF (07 R175, R176). -/
def execErf (f : Fields) (s : State) : Host.Outcome State Fault Refusal := specialFn Enc.erf f s

end Sys2Proof.Machine
end

