-- ==== Sys2Proof/Machine/Matrix.lean ====
section
/-! DEFINITION. Gangs, tiles, tile descriptors, and the matrix engine's entries from issue to retirement (11 R240-R267). -/
namespace Sys2Proof.Machine

/-! ### Tiles -/

/-- A tile, sparse: element (i, j) at i × 128 + j; an element not listed is 0 (11 R240). -/
abbrev Tile := AMap (BitVec 32)

/-- Element (i, j). -/
def Tile.at_ (t : Tile) (i j : Nat) : Nat := (AMap.getD t (i * 128 + j) 0).toNat

/-- Element (i, j) written. -/
def Tile.put (t : Tile) (i j x : Nat) : Tile :=
  let b := BitVec.ofNat 32 x
  if b = 0 then AMap.erase t (i * 128 + j) else AMap.set t (i * 128 + j) b

/-- The gang holds tiles that its instructions may name (11 R242). -/
def Gang.holds (g : Gang) : Bool := g.tiles.isSome && !g.released && !g.restore

/-- How many tiles a gang holds. -/
def Gang.count (g : Gang) : Nat := (g.tiles.map List.length).getD 0

/-- Tile `k` of a gang. -/
def Gang.tile (g : Gang) (k : Nat) : Tile := ((g.tiles.getD [])[k]?).getD []

/-- A tile of a gang written. -/
def State.setTile (s : State) (gid k : Nat) (t : Tile) : State :=
  s.modGang gid fun g => { g with tiles := g.tiles.map fun ts => ts.set k t }

/-! ### Rendezvous (11 R241, R242, R260) -/

/-- A warp of a team is still there, resident and not drained, or saved. -/
def State.teamWarpLives (s : State) (team tw : Nat) : Bool :=
  (s.warps.any fun (_, w) => w.team == team && w.teamWarp == tw && !w.draining)
  || s.saved.any fun (_, x) => match x with
    | .warp w _ _ _ => w.team == team && w.teamWarp == tw && !w.draining
    | _ => false

/-- Every warp of a gang has arrived or drained. -/
def State.allIn (s : State) (g : Gang) (arrived : List Nat) : Bool :=
  g.members.all fun m => arrived.contains m || !s.teamWarpLives g.team m

/-- Rendezvous that have become complete, by an arrival or a drain of the warp in a slot: a gang that forms joins the tile queue,
at the age of that arrival, and a gang that releases loses its a registers (11 R241, R242). -/
def State.settleGang (s : State) (gid wid : Nat) : State :=
  match AMap.get s.gangs gid with
  | none => s
  | some g =>
    if g.latch.isSome && !g.waiting && s.allIn g g.arrived then
      let s := { s with stamp := s.stamp + 1 }
      s.modGang gid fun g => { g with waiting := true, age := s.stamp, turn := s.turnNow wid }
    else if g.holds && s.allIn g g.relArrived then s.modGang gid fun g => { g with released := true, relArrived := [] }
    else s

/-- A warp's gang, or MX_NOGANG (11 R258). -/
def withGang (i : Iss) (s : State) (body : Nat → Gang → Res) : Res :=
  match i.w.gang.bind fun id => (AMap.get s.gangs id).map fun g => (id, g) with
  | none => .trap .mxNoGang i.low
  | some (id, g) => body id g

/-- GANG: a bundle arrives with its count, stays until the grant, and then writes 1; while the gang holds tiles it writes 2 at once
(11 R241, R260). -/
def execGang (f : Fields) (s : State) : Host.Outcome State Fault Refusal :=
  irlek Enc.gang f s fun i s => withGang i s fun id g =>
    let n := (i.uni 1).toNat
    let me := (i.w.teamWarp, i.c.pc)
    if g.granted.contains me then
      let s := s.modGang id fun g => { g with granted := g.granted.filter (· != me) }
      .ok (s.modWarp i.wid fun w => { w with gangWait := false }) (i.dest fun _ => 1)
    else if g.waiters.contains me then .wait s
    else if n < 1 || 16 < n then .trap .mxRange i.low
    else if g.holds then .ok s (i.dest fun _ => 2)
    else if g.latch.getD n != n then .trap .gangCount i.low
    else
      let s := s.modGang id fun g =>
        { g with
          latch := some n, waiters := g.waiters ++ [me]
          arrived := if g.arrived.contains i.w.teamWarp then g.arrived else g.arrived ++ [i.w.teamWarp] }
      .move ((s.modWarp i.wid fun w => { w with gangWait := true }).settleGang id i.wid) [] fun w => w

/-- AREL: arrives at the release and goes on; with no tiles held it arrives at nothing (11 R242, R260). -/
def execArel (f : Fields) (s : State) : Host.Outcome State Fault Refusal :=
  irlek Enc.arel f s fun i s => withGang i s fun id g =>
    if !g.holds then .ok s []
    else
      let s := s.modGang id fun g =>
        { g with relArrived := if g.relArrived.contains i.w.teamWarp then g.relArrived
                   else g.relArrived ++ [i.w.teamWarp] }
      .ok (s.settleGang id i.wid) []

/-- TDESC (11 R261). -/
def execTdesc (f : Fields) (s : State) : Host.Outcome State Fault Refusal :=
  irlek Enc.tdesc f s fun i s => withGang i s fun _ _ =>
    .ok (s.modWarp i.wid fun w => w.setT (regNum f.op0) (i.uni 2 ++ i.uni 1)) []

/-- The tiles of a cluster that no gang holds (11 R240, R241). -/
def State.freeTiles (s : State) (cluster : Nat) : Nat :=
  16 - ((s.gangs.filter fun (_, g) => g.cluster == cluster && !g.restore).map fun (_, g) => g.count).sum

/-- A gang's place in the tile queue before another's: the cycle of its rendezvous, the core and quarter of its last arrival
(11 R241). -/
def Gang.before (a b : Gang) : Bool := a.turn < b.turn || (a.turn == b.turn && a.age < b.age)

/-- The oldest gang in a cluster's tile queue. -/
def State.oldestGang (s : State) (cluster : Nat) : Option (Nat × Gang) :=
  (s.gangs.filter fun (_, g) => g.cluster == cluster && g.waiting).foldl (fun best x => match best with
    | none => some x
    | some b => if x.2.before b.2 then some x else some b) none

/-- A turn lies in a cycle that has passed on a die, so that what else happens in it is known. -/
def State.turnPast (s : State) (die turn : Nat) : Bool := turn / 2048 < (s.die die).cycles

/-- GANG_GRANT: the oldest gang in the tile queue takes its tiles, cleared, once they are free and those it held before have
returned, and every waiting bundle its status; or those that it held when it was saved, and goes on waiting where its next rendezvous
is complete already (11 R240, R241, R255). -/
def execGangGrant (s : State) : Host.Outcome State Fault Refusal :=
  .next (match s.oldestGang s.ev.unit with
    | some (id, g) =>
      let n := if g.restore then g.count else g.latch.getD 0
      if n ≤ s.freeTiles s.ev.unit && s.turnPast (dieOfCluster s.ev.unit) g.turn && (g.tiles.isNone || g.restore) && s.haltStepOf g.ctx < 5 then
        s.modGang id fun g =>
          if g.restore then { g with restore := false, waiting := g.latch.isSome && s.allIn g g.arrived }
          else
            { g with
              tiles := some (List.replicate n []), waiting := false, released := false, latch := none, arrived := []
              waiters := [], granted := g.granted ++ g.waiters }
      else s
    | none => s)

/-- The entries of a gang. -/
def State.gangEntries (s : State) (gid : Nat) (g : Gang) : List (Nat × Entry) :=
  (s.cluster g.cluster).entries.filter fun (_, e) => e.gang == gid

/-- TILE_RETURN: the tiles of a released gang return once its entries have retired; the completion of its launch may have waited
for them (11 R242). -/
def execTileReturn (s : State) : Host.Outcome State Fault Refusal :=
  .next (match AMap.get s.gangs s.ev.unit with
    | some g =>
      if g.released && !g.restore && (s.gangEntries s.ev.unit g).isEmpty then
        (s.modGang s.ev.unit fun g => { g with tiles := none, released := false }).finishLaunch g.launch
      else s
    | none => s)

/-! ### Descriptors (11 R244-R246, R258) -/

/-- The fields of a tile descriptor (11 Table 11.1). -/
structure Desc where
  src : Nat
  scale : Bool
  ty : Option Ty
  rows : Nat
  core : Nat
  reserved : Nat
  stride : Int
  addr : Word
  deriving DecidableEq, Repr

/-- A descriptor register's fields. -/
def descOf (x : BitVec 128) : Desc where
  src := natBits x.toNat 127 126
  scale := x.getLsbD 125
  ty := Ty.ofCode (x.extractLsb' 120 5)
  rows := natBits x.toNat 119 113 + 1
  core := natBits x.toNat 112 111
  reserved := natBits x.toNat 110 96
  stride := toSigned 32 (natBits x.toNat 95 64)
  addr := x.extractLsb' 0 64

/-- Elements of a pass, by operand type (11 R245); none for a type that Table 11.2 does not list. -/
def passElems : Ty → Option Nat
  | .e4m3 | .e5m2 | .i8 | .n8 => some 128
  | .bf16 | .f16 => some 64
  | .e2m1 => some 256
  | _ => none

/-- Pass counts of an MMA. -/
def passesOf (f : Fields) : Nat := natBits f.mods.toNat 7 4 + 1

/-- Whether two operand types form a pair of Table 11.2, for MMA or MMAS. -/
def pairOk (acc : Ty) (scaled : Bool) (a b : Ty) : Bool :=
  let fp8 (t : Ty) : Bool := t == .e4m3 || t == .e5m2
  let i8 (t : Ty) : Bool := t == .i8 || t == .n8
  if acc == .i32 then !scaled && i8 a && i8 b
  else (fp8 a && fp8 b) || (a == .e2m1 && b == .e2m1)
    || (!scaled && ((a == .bf16 && b == .bf16) || (a == .f16 && b == .f16)))

/-- The first byte of a row in a pass, and how many bytes the pass reads of it. -/
def Desc.rowAt (d : Desc) (r p bytes : Nat) : Int := d.addr.toNat + (r : Int) * d.stride + (p * bytes : Nat)

/-- Whether every span of every pass lies inside an allotment: the corners decide (11 R258). -/
def Desc.inside (d : Desc) (size q bytes : Nat) : Bool :=
  [(0, 0), (0, q - 1), (d.rows - 1, 0), (d.rows - 1, q - 1)].all fun (r, p) =>
    0 ≤ d.rowAt r p bytes && d.rowAt r p bytes + bytes ≤ size

/-- The allotment of a team on a core of a cluster. -/
def State.teamAllot (s : State) (team core : Nat) : Option (Nat × Allot) :=
  s.allots.find? fun (_, a) => a.team == team && a.core == core && !a.saved

/-- One descriptor's own checks (11 R258). -/
def descOk (s : State) (i : Iss) (d : Desc) (scale : Bool) (q bytes : Nat) : Bool :=
  (d.src == 1 || d.src == 2) && d.scale == scale && d.reserved == 0
  && d.addr.toNat % (if scale then 4 else 16) == 0 && d.stride % (if scale then 4 else 16) == 0
  && (if d.src == 2 then canonical d.addr
      else match s.teamAllot i.w.team (clusterOf i.wid * 4 + d.core) with
        | some (_, a) => d.inside a.size q bytes
        | none => false)

/-- The descriptors of an MMA or MMAS pass their checks (11 R258). -/
def mmaDescOk (s : State) (i : Iss) (scaled : Bool) : Bool :=
  let q := passesOf i.f
  let reg (o : Operand) : Option Desc := match o with
    | .t n => some (descOf (i.w.treg n.toNat))
    | _ => none
  match reg i.f.op2 with
  | none => false
  | some b =>
    match b.ty.bind fun t => (passElems t).map fun k => (t, k) with
    | none => false
    | some (tb, k) =>
      let okB := descOk s i b false q 128
      let okA := match reg i.f.op1 with
        | some a => descOk s i a false q 128 && ((a.ty.map fun ta => pairOk i.f.ty scaled ta tb).getD false)
        | none => tb != .e2m1 && q * k ≤ 128 && pairOk i.f.ty scaled tb tb
      let scaleOk (o : Operand) (rows : Nat) : Bool := match reg o with
        | some d => descOk s i d true q (k / 32) && d.rows == rows
        | none => true
      okA && okB && scaleOk i.f.op3 (((reg i.f.op1).map (·.rows)).getD 0) && scaleOk i.f.op4 b.rows

/-! ### Issue of an entry (11 R247, R258) -/

/-- The a operands of an instruction. -/
def aOperands (f : Fields) : List Nat :=
  [f.op0, f.op1, f.op2, f.op3, f.op4].filterMap fun o => match o with
    | .a n => some n.toNat
    | _ => none

/-- The rounding code an entry keeps: DYN is read at issue (11 R257). -/
def rmAtIssue (f : Fields) (mode : Word) : BitVec 3 := if f.rounding == 6 then modeRm mode else f.rounding

/-- A matrix instruction takes a reservation entry after its checks in order: MX_NOGANG, MX_NOTILE, MX_RANGE, MX_DESC; the
group is not ready while its core or the table has no room (11 R247, R258). -/
def mxIssue (e : Enc) (f : Fields) (s : State) (rangeOk descOk : Iss → State → Bool) (ord : Ord) (src1 src2 : Iss → Nat → Word)
    (ws : Iss → List Wr) : Host.Outcome State Fault Refusal :=
  irlek e f s fun i s => withGang i s fun id g =>
    let cl := clusterOf i.wid
    if !g.holds || (aOperands f).any (g.count ≤ ·) then .trap .mxNoTile i.low
    else if !rangeOk i s then .trap .mxRange i.low
    else if !descOk i s then .trap .mxDesc i.low
    else
      let own := (s.cluster cl).entries.filter fun (_, x) => coreOf x.seat == coreOf i.wid
      match AMap.freeKey (s.cluster cl).entries 32 with
      | none => .wait s
      | some n =>
        if 8 ≤ own.length || ord.acquire && s.contributesIn i.wid ord.scope i.c.lanes then .wait s
        else
          let k := counterOf f
          let lanes := List.range i.w.width
          let desc (o : Operand) : BitVec 128 := match o with
            | .t m => i.w.treg m.toNat
            | _ => 0
          let x : Entry :=
            { opcode := e.opcode, f := f, wid := i.wid, seat := i.wid, gang := id, launch := i.w.launch, active := i.act
              descs := [desc f.op1, desc f.op2, desc f.op3, desc f.op4]
              src1 := lanes.map (src1 i), src2 := lanes.map (src2 i)
              rm := rmAtIssue f i.w.mode, counter := k, issued := s.stamp + 1, turn := s.turnNow i.wid, time := i.w.pts
              old := s.unsettled i.w i.wid ord.acquire ord.scope, times := ScopeTimes.zero, running := false
              unit := 0, got := [], rowLeft := [], faulted := false, stopped := false }
          let s := { s with stamp := s.stamp + 1 }
          let s := s.modCluster cl fun c => { c with entries := AMap.set c.entries n x }
          .ok (s.modWarp i.wid fun w => w.countUp k) (ws i)

/-- No check of its own. -/
def always (_ : Iss) (_ : State) : Bool := true
def noWord (_ : Iss) (_ : Nat) : Word := 0
def noWr (_ : Iss) : List Wr := []

/-- MMA (11 R262). -/
def execMma (f : Fields) (s : State) : Host.Outcome State Fault Refusal :=
  mxIssue Enc.mma f s always (fun i s => mmaDescOk s i false) (ordOf f) noWord noWord noWr
/-- MMAS (11 R262). -/
def execMmas (f : Fields) (s : State) : Host.Outcome State Fault Refusal :=
  mxIssue Enc.mmas f s always (fun i s => mmaDescOk s i true) (ordOf f) noWord noWord noWr
/-- ACLR (11 R264). -/
def execAclr (f : Fields) (s : State) : Host.Outcome State Fault Refusal :=
  mxIssue Enc.aclr f s always always Ord.plain noWord noWord noWr
/-- AMOV.copy (11 R264). -/
def execAmovCopy (f : Fields) (s : State) : Host.Outcome State Fault Refusal :=
  mxIssue Enc.amovCopy f s always always Ord.plain noWord noWord noWr
/-- AMOV.tr (11 R264). -/
def execAmovTr (f : Fields) (s : State) : Host.Outcome State Fault Refusal :=
  mxIssue Enc.amovTr f s always always Ord.plain noWord noWord noWr
/-- AMOV.get: its destination is allocated at issue and filled at retirement (11 R252, R264). -/
def execAmovGet (f : Fields) (s : State) : Host.Outcome State Fault Refusal :=
  mxIssue Enc.amovGet f s always always Ord.plain noWord noWord fun _ => [.vLater (regNum f.op0)]
/-- AMOV.put: its source is read at issue (11 R247, R264). -/
def execAmovPut (f : Fields) (s : State) : Host.Outcome State Fault Refusal :=
  mxIssue Enc.amovPut f s always always Ord.plain (fun i l => i.src 1 l) noWord noWr
/-- ARED (11 R266). -/
def execAred (f : Fields) (s : State) : Host.Outcome State Fault Refusal :=
  mxIssue Enc.ared f s always always Ord.plain noWord noWord fun _ => [.vLater (regNum f.op0)]

/-- A floating operand of AEPI: binary32 whatever the source tile's type (11 R267). -/
def Iss.epi (i : Iss) (k l : Nat) : Word :=
  match i.op k with
  | .imm x => splat 32 (fmtF32.immBits x)
  | .absent => 0
  | _ => i.src k l

/-- AEPI (11 R267). -/
def execAepi (f : Fields) (s : State) : Host.Outcome State Fault Refusal :=
  mxIssue Enc.aepi f s always always Ord.plain (fun i l => i.epi 2 l) (fun i l => i.epi 3 l) noWr

/-- The address and stride limits of ALD and AST (11 R258). -/
def tileAddrOk (addr : Word) (stride : Int) : Bool := canonical addr && addr.toNat % 16 == 0 && stride % 16 == 0

/-- ALD (11 R265). -/
def execAld (f : Fields) (s : State) : Host.Outcome State Fault Refusal :=
  mxIssue Enc.ald f s (fun i _ => tileAddrOk (i.uni 1) (i.stride 2)) always (ordOf f) (fun i _ => i.uni 1)
    (fun i _ => i.uni 2) noWr
/-- AST (11 R265). -/
def execAst (f : Fields) (s : State) : Host.Outcome State Fault Refusal :=
  mxIssue Enc.ast f s (fun i _ => tileAddrOk (i.uni 0) (i.stride 1)) always (ordOf f) (fun i _ => i.uni 0)
    (fun i _ => i.uni 1) noWr

/-! ### Tiles read and written, starting, and the servers (11 R248, R249) -/

/-- The number of an a operand. -/
def aNum : Operand → List Nat
  | .a n => [n.toNat]
  | _ => []

/-- W(X) (11 R248). -/
def Entry.writes (e : Entry) : List Nat := if e.opcode = 0x2A6 || e.opcode = 0x2A8 then [] else aNum e.f.op0

/-- R(X) (11 R248). -/
def Entry.reads (e : Entry) : List Nat :=
  if e.opcode = 0x2A2 || e.opcode = 0x2A3 then aNum e.f.op0 ++ aNum e.f.op1
  else if e.opcode = 0x2A6 then aNum e.f.op2
  else aNum e.f.op1

/-- The array runs MMA and MMAS, the tile unit the rest (11 R249). -/
def Entry.onArray (e : Entry) : Bool := e.opcode == 0x2A2 || e.opcode == 0x2A3

/-- Whether two lists of tiles meet. -/
def meet (a b : List Nat) : Bool := a.any b.contains

/-- R248 lets an entry start: every earlier entry of its gang that it must follow has retired. -/
def Cluster.mayStart (c : Cluster) (e : Entry) : Bool :=
  c.entries.all fun (_, y) =>
    !(y.gang == e.gang && y.before e
      && (meet y.writes (e.reads ++ e.writes) || meet y.reads e.writes))

/-- An entry that may take a step: its context runs, or it ends the row that the halt walk lets it finish (11 R255). -/
def State.entryRuns (s : State) (e : Entry) : Bool :=
  !e.faulted && !e.stopped && match AMap.get s.gangs e.gang with
    | some g => (s.haltStepOf g.ctx < 5 || (s.haltStepOf g.ctx == 5 && !e.rowLeft.isEmpty)) && !g.restore
    | none => false

/-! ### Operand data (11 R245, R250, R254) -/

/-- What a fetch finds: its bytes as a number, a wait, or a translation fault. -/
inductive Fetch (α : Type) where
  | val (x : α) | wait | fault (va : Word) (k : FaultKind)

/-- An entry changed. -/
def State.modEntry (s : State) (cl n : Nat) (f : Entry → Entry) : State :=
  if cl < savedCluster then s.modCluster cl fun c => { c with entries := AMap.modify c.entries n f }
  else
    let g (x : Saved) : Saved := match x with
      | .gang k es => .gang k (es.map fun e => if e.issued == n then f e else e)
      | x => x
    { s with saved := s.saved.map fun (k, x) => (k, g x) }

/-- The context and team of an entry. -/
def State.entryCtx (s : State) (e : Entry) : Nat := ((AMap.get s.gangs e.gang).map (·.ctx)).getD 0
def State.entryTeam (s : State) (e : Entry) : Nat := ((AMap.get s.gangs e.gang).map (·.team)).getD 0

/-- An aligned quadword of global memory, by the load pipes. -/
def State.pipeRead (s : State) (cl : Nat) (e : Entry) (va : Word) : State × Fetch Nat :=
  match s.engineTranslate [tlbMxe cl] (s.entryCtx e) va .read with
  | (s, .error k) => (s, .fault va k)
  | (s, .ok pa) =>
    if s.absentAt pa 8 then (s, .wait)
    else let (s, x, _) := s.engineRead e.time pa 8 e.old e.f.hint.toNat; (s, .val x)

/-- The quadword at a byte of a descriptor's rows. -/
def State.descRead (s : State) (cl : Nat) (e : Entry) (d : Desc) (a : Int) : State × Fetch Nat :=
  if d.src = 2 then s.pipeRead cl e (BitVec.ofInt 64 (a / 8 * 8))
  else match s.teamAllot (s.entryTeam e) (cl * 4 + d.core) with
    | none => (s, .wait)
    | some (id, al) =>
      let off := (a / 8 * 8).toNat
      if !al.present off 8 then (s, .wait)
      else let (s, bs, _) := s.spLoad e.time id off 8; (s, .val (ofBytes bs))

/-- The key of a fetched quadword: operand, row, pass, quadword. -/
def chunkKey (o r p c : Nat) : Nat := ((o * 128 + r) * 16 + p) * 32 + c

/-- The bytes a pass reads of a row of operand `o` (1 to 4). -/
def Entry.rowBytes (e : Entry) (o : Nat) : Nat :=
  if o ≤ 2 then 128
  else ((((descOf ((e.descs[1]?).getD 0)).ty).bind passElems).getD 128) / 32

/-- The quadwords that hold a row of operand `o` in a pass, those fetched before taken as fetched. -/
def rowQuads (cl : Nat) (e : Entry) (o r p : Nat) : List Nat → State → Nat → State × Fetch Nat
  | [], s, acc => (s, .val acc)
  | c :: cs, s, acc =>
    let d := descOf ((e.descs[o - 1]?).getD 0)
    let found : State × Fetch Nat := match AMap.get e.got (chunkKey o r p c) with
      | some x => (s, .val x.toNat)
      | none => s.descRead cl e d (d.rowAt r p (e.rowBytes o) / 8 * 8 + 8 * c)
    match found with
    | (s, .val x) => rowQuads cl e o r p cs s (acc + x * 2 ^ (64 * c))
    | r => r

/-- One row of an operand in a pass, as a number of its bytes. -/
def State.row (s : State) (cl : Nat) (e : Entry) (o r p : Nat) : State × Fetch Nat :=
  let d := descOf ((e.descs[o - 1]?).getD 0)
  let n := e.rowBytes o
  let skip := (d.rowAt r p n % 8).toNat
  match rowQuads cl e o r p (List.range (ceilDiv (skip + n) 8)) s 0 with
  | (s, .val x) => (s, .val (x / 2 ^ (8 * skip) % 2 ^ (8 * n)))
  | r => r

/-- Rows of an operand in a pass. -/
def rowsData (cl : Nat) (e : Entry) (o p : Nat) : List Nat → State → List Nat → State × Fetch (List Nat)
  | [], s, xs => (s, .val xs)
  | r :: rs, s, xs =>
    match s.row cl e o r p with
    | (s, .val x) => rowsData cl e o p rs s (xs ++ [x])
    | (s, .wait) => (s, .wait)
    | (s, .fault va k) => (s, .fault va k)

/-! ### A row group of a pass (11 R254, R262, R263) -/

/-- Element values of a row's bytes with its block scales: a scale of 0xFF makes its block NaN (02 R27). -/
def floatElems (t : Ty) (k row : Nat) (scales : Option Nat) : List FVal :=
  let F := fmtOf t
  (List.range k).map fun j =>
    let v := F.unpack (row / 2 ^ (t.width * j) % 2 ^ t.width)
    match scales with
    | none => v
    | some sc =>
      let b := sc / 2 ^ (8 * (j / 32)) % 256
      if b = 255 then .nan false
      else match v with
        | .fin n m e => .fin n m (e + b - 127)
        | v => v

/-- Element integers of a row's bytes. -/
def intElems (t : Ty) (k row : Nat) : List Int :=
  (List.range k).map fun j => t.toInt (row / 2 ^ (t.width * j) % 2 ^ t.width)

/-- RNE, subnormals kept (11 R259, R262). -/
def mxEnv (sat : Bool) : FEnv := ⟨.rne, false, sat⟩

/-- acc + Σ a × b, exact and rounded once (02 R36). -/
def mxDot (acc : Nat) (a b : List FVal) : Nat :=
  let prods := (List.zipWith FVal.mul a b).map (·.1)
  (fmtF32.sumRound (mxEnv false) (fmtF32.unpack acc :: prods) 0).1

/-- The same on integers, wrapped or clamped (02 R36). -/
def mxDotInt (sat : Bool) (acc : Nat) (a b : List Int) : Nat :=
  narrowInt true sat 32 (toSigned 32 acc + (List.zipWith (· * ·) a b).sum)

/-- The rows of A of one group and pass when A is a tile: converted to B's type (11 R263). -/
def tileRows (t : Tile) (tb : Ty) (k p : Nat) (sat : Bool) (rows : List Nat) : List (List FVal) :=
  rows.map fun i => (List.range k).map fun j =>
    (fmtOf tb).unpack ((fmtOf tb).ofVal (mxEnv sat) (fmtF32.unpack (t.at_ i (p * k + j)))).1

/-- A tile with elements (i, j) replaced by `g i j`. -/
def Tile.update (t : Tile) (rows cols : List Nat) (g : Nat → Nat → Nat) : Tile :=
  rows.foldl (fun t i => cols.foldl (fun t j => t.put i j (g i j)) t) t

/-- An entry after a fetch that did not give its data: held under a recorded fault, or where it was (14 R325). -/
def State.entryFault (s : State) (cl n : Nat) (e : Entry) (acc : Acc) (va : Word) (k : FaultKind) : State :=
  match s.recordFault (dieOfCluster cl) (s.entryCtx e) 3 acc k va (.mxe cl n) with
  | some s => s.modEntry cl n fun e => { e with faulted := true, running := false }
  | none => s

/-- The descriptor of operand `o`. -/
def Entry.desc (e : Entry) (o : Nat) : Desc := descOf ((e.descs[o - 1]?).getD 0)

/-- Rows of A of an MMA, and the columns B gives. -/
def Entry.mRows (e : Entry) : Nat := if (aNum e.f.op1).isEmpty then (e.desc 1).rows else 128
def Entry.nCols (e : Entry) : Nat := (e.desc 2).rows

/-- One row group of one pass applied whole. -/
def mmaUnit (s : State) (cl n : Nat) (e : Entry) : State :=
  match AMap.get s.gangs e.gang with
  | none => s
  | some gang =>
    let tb := ((e.desc 2).ty).getD .bf16
    let k := (passElems tb).getD 64
    let m := e.mRows
    let groups := ceilDiv m 64
    let p := e.unit / groups
    let g := e.unit % groups
    let rows := (List.range (min m (64 * g + 64) - 64 * g)).map (64 * g + ·)
    let cols := List.range e.nCols
    let scaled := e.opcode == 0x2A3
    let fromTile := !(aNum e.f.op1).isEmpty
    let next (s : State) (t : Tile) : State :=
      (s.setTile e.gang (regNum e.f.op0) t).modEntry cl n fun e =>
        { e with unit := e.unit + 1, got := if g + 1 = groups then [] else e.got }
    let fail (r : State × Fetch (List Nat)) : State := match r with
      | (s, .fault va kind) => s.entryFault cl n e .read va kind
      | (s, _) => s
    let acc := gang.tile (regNum e.f.op0)
    match rowsData cl e 2 p cols s [] with
    | (s, .val b) =>
      match (if fromTile then (s, Fetch.val []) else rowsData cl e 1 p rows s []) with
      | (s, .val a) =>
        match (if scaled && !fromTile then rowsData cl e 3 p rows s [] else (s, Fetch.val [])) with
        | (s, .val sa) =>
          match (if scaled then rowsData cl e 4 p cols s [] else (s, Fetch.val [])) with
          | (s, .val sb) =>
            if e.f.ty == .i32 then
              let av := a.map (intElems (((e.desc 1).ty).getD .i8) k)
              let bv := b.map (intElems tb k)
              next s (acc.update rows cols fun i j =>
                mxDotInt e.f.sat (acc.at_ i j) ((av[i - 64 * g]?).getD []) ((bv[j]?).getD []))
            else
              let av := if fromTile then tileRows (gang.tile ((aNum e.f.op1).headD 0)) tb k p e.f.sat rows
                else a.zipIdx.map fun (x, i) => floatElems (((e.desc 1).ty).getD tb) k x (sa[i]?)
              let bv := b.zipIdx.map fun (x, j) => floatElems tb k x (sb[j]?)
              next s (acc.update rows cols fun i j =>
                mxDot (acc.at_ i j) ((av[i - 64 * g]?).getD []) ((bv[j]?).getD []))
          | r => fail r
        | r => fail r
      | r => fail r
    | r => fail r

/-! ### The tile unit (11 R264-R267) -/

/-- Bytes of an element of ALD and AST. -/
def Entry.elemBytes (e : Entry) : Nat := if e.f.ty == .b32 then 4 else 2

/-- The address and the stride of ALD or AST: a uniform source stands in every lane. -/
def Entry.addr (e : Entry) : Word := e.src1.headD 0
def Entry.stride (e : Entry) : Int := (e.src2.headD 0).toInt

/-- The address of the quadword `c` of row `i` of ALD or AST. -/
def Entry.quadAddr (e : Entry) (i c : Nat) : Word := e.addr + BitVec.ofInt 64 (e.stride * i) + BitVec.ofNat 64 (8 * c)

/-- The quadwords of a row of ALD. -/
def aldRow (cl : Nat) (e : Entry) (i : Nat) : List Nat → State → List Nat → State × Fetch (List Nat)
  | [], s, xs => (s, .val xs)
  | c :: cs, s, xs =>
    let found : State × Fetch Nat := match AMap.get e.got (chunkKey 0 i 0 c) with
      | some x => (s, .val x.toNat)
      | none => s.pipeRead cl e (e.quadAddr i c)
    match found with
    | (s, .val x) => aldRow cl e i cs s (xs ++ [x])
    | (s, .wait) => (s, .wait)
    | (s, .fault va k) => (s, .fault va k)

/-- An element of a tile from memory: widened to binary32, or the bits as they stand (11 R265). -/
def widen (t : Ty) (x : Nat) : Nat := if t == .b32 then x else (fmtF32.ofVal (mxEnv false) ((fmtOf t).unpack x)).1

/-- A tile's element for memory: rounded in the instruction's rounding, or as it stands (11 R265). -/
def narrow (e : Entry) (x : Nat) : Nat :=
  if e.f.ty == .b32 then x else ((fmtOf e.f.ty).ofVal ⟨rndOf e.rm 0, false, e.f.sat⟩ (fmtF32.unpack x)).1

/-- One row of ALD, applied whole. -/
def aldUnit (s : State) (cl n : Nat) (e : Entry) (gang : Gang) : State :=
  let per := 8 / e.elemBytes
  match aldRow cl e e.unit (List.range (128 / per)) s [] with
  | (s, .val qs) =>
    let elem (j : Nat) : Nat := ((qs[j / per]?).getD 0) / 2 ^ (8 * e.elemBytes * (j % per)) % 2 ^ (8 * e.elemBytes)
    let k := regNum e.f.op0
    let t := (gang.tile k).update [e.unit] (List.range 128) fun _ j => widen e.f.ty (elem j)
    (s.setTile e.gang k t).modEntry cl n fun e => { e with unit := e.unit + 1, got := [] }
  | (s, .fault va kind) => s.entryFault cl n e .read va kind
  | (s, .wait) => s

/-- One quadword of a row of AST written (11 R265, 13 R300). -/
def State.astWrite (s : State) (cl n : Nat) (e : Entry) (gang : Gang) (pa : Nat) (rest : List Nat) : State :=
  let per := 8 / e.elemBytes
  let c := 128 / per - 1 - rest.length
  let t := gang.tile (regNum e.f.op2)
  let bs := (List.range per).flatMap fun j => bytesOf e.elemBytes (narrow e (t.at_ e.unit (c * per + j)))
  let (s, tm) := s.engineWrite e.time pa bs e.f.hint.toNat
  s.modEntry cl n fun e =>
    { e with
      rowLeft := rest, unit := if rest.isEmpty then e.unit + 1 else e.unit
      times := s.addTime e.times (dieOfCluster cl) pa tm }

/-- AST goes on: a row is begun once all of its addresses are translated and present, and is then written whole, quadword by
quadword (11 R254). -/
def astUnit (s : State) (cl n : Nat) (e : Entry) (gang : Gang) : State :=
  match e.rowLeft with
  | pa :: rest => s.astWrite cl n e gang pa rest
  | [] =>
    match s.engineTranslateAll [tlbMxe cl] (s.entryCtx e) .write ((List.range (16 * e.elemBytes)).map (e.quadAddr e.unit)) with
    | (s, .error (va, k)) => s.entryFault cl n e .write va k
    | (s, .ok pas) => match pas with
      | [] => s
      | pa :: rest => if pas.any fun a => s.absentAt a 8 then s else s.astWrite cl n e gang pa rest

/-- Rows of the row-vector layout: the active lanes' rows with lane and element (11 R264). -/
def rowVector (active : Mask) (row0 : Nat) : List (Nat × Nat × Nat) :=
  active.lanes.flatMap fun l => [(row0 + 2 * l, l, 0), (row0 + 2 * l + 1, l, 1)]

/-- AEPI's element (11 R267). -/
def epilogue (e : Entry) (x sc b : Nat) : Nat :=
  let v := if e.f.ty == .i32 then intVal (toSigned 32 x) else fmtF32.unpack x
  let y := (fmtF32.sumRound ⟨rndOf e.rm 0, false, e.f.sat⟩ [(v.mul (fmtF32.unpack sc)).1, fmtF32.unpack b] 0).1
  match e.f.mods.toNat with
  | 0 => y
  | 1 => if (fmtF32.unpack y).isNaN then y else if fmtF32.negBit y then 0 else y
  | _ => (fmtF32.sfu 3 y).1

/-- An operation of the tile unit that is done at once. -/
def tileUnit (e : Entry) (gang : Gang) (s : State) : State :=
  let src := gang.tile ((aNum e.f.op1).headD 0)
  let k := regNum e.f.op0
  let all := List.range 128
  match e.opcode, e.f.variant.toNat with
  | 0x2A4, _ => s.setTile e.gang k []
  | 0x2A7, 0 => s.setTile e.gang k src
  | 0x2A7, 1 => s.setTile e.gang k (Tile.update [] all all fun i j => src.at_ j i)
  | 0x2A7, 3 =>
    let t := (rowVector e.active (immNum e.f.op3)).foldl (fun (t : Tile) (r, l, x) =>
      t.put r (immNum e.f.op2) (elemAt 32 ((e.src1[l]?).getD 0) x)) (gang.tile k)
    s.setTile e.gang k t
  | 0x2A9, _ =>
    let t := (rowVector e.active (immNum e.f.op4)).foldl (fun (t : Tile) (r, l, x) =>
      t.update [r] all fun i j =>
        epilogue e (src.at_ i j) (elemAt 32 ((e.src1[l]?).getD 0) x) (elemAt 32 ((e.src2[l]?).getD 0) x)) (gang.tile k)
    s.setTile e.gang k t
  | _, _ => s

/-- ARED of one row (11 R266). -/
def reduceRow (e : Entry) (t : Tile) (r : Nat) : Nat :=
  let xs := (List.range 128).map (t.at_ r)
  let rest := xs.drop 1
  let first := xs.headD 0
  if e.f.ty == .i32 then
    let vs := xs.map (toSigned 32)
    match e.f.variant.toNat with
    | 0 => wrapTo 32 (vs.foldl max (toSigned 32 first))
    | 1 => wrapTo 32 (vs.foldl min (toSigned 32 first))
    | _ => narrowInt true e.f.sat 32 vs.sum
  else match e.f.variant.toNat with
    | 0 => rest.foldl (fun a b => (fmtF32.minMax true false a b).1) first
    | 1 => rest.foldl (fun a b => (fmtF32.minMax false false a b).1) first
    | _ => (fmtF32.sumRound (mxEnv false) (xs.map fmtF32.unpack) 0).1

/-- The lanes that AMOV.get or ARED writes to its vector register (11 R264, R266). -/
def Entry.result (e : Entry) (gang : Gang) : Option (List (Nat × Word)) :=
  let t := gang.tile ((aNum e.f.op1).headD 0)
  let pack (g : Nat → Nat) (row0 : Nat) : List (Nat × Word) :=
    e.active.lanes.map fun l => (l, joinElems 32 [g (row0 + 2 * l), g (row0 + 2 * l + 1)])
  if e.opcode = 0x2A7 && e.f.variant == 2 then some (pack (fun r => t.at_ r (immNum e.f.op2)) (immNum e.f.op3))
  else if e.opcode = 0x2A8 then some (pack (reduceRow e t) (immNum e.f.op2))
  else none

/-- How many units of work an entry has (11 R254). -/
def Entry.units (e : Entry) : Nat :=
  if e.onArray then passesOf e.f * ceilDiv e.mRows 64
  else if e.opcode = 0x2A5 || e.opcode = 0x2A6 then 128
  else 1

/-! ### The servers (11 R249) -/

/-- The quadwords of global memory and the scratchpad ranges that the next unit of an entry reads: keys, and a core with an
offset and a length. -/
def Entry.needs (e : Entry) : List (Nat ⊕ (Nat × Int × Nat)) :=
  if e.units ≤ e.unit then []
  else if e.opcode = 0x2A5 then (List.range (16 * e.elemBytes)).map fun c => .inl (chunkKey 0 e.unit 0 c)
  else if !e.onArray then []
  else
    let groups := ceilDiv e.mRows 64
    let p := e.unit / groups
    let g := e.unit % groups
    [1, 2, 3, 4].flatMap fun o =>
      let x := (e.descs[o - 1]?).getD 0
      let d := descOf x
      let n := e.rowBytes o
      let rows := if o % 2 == 0 then List.range d.rows else (List.range (min d.rows (64 * g + 64) - 64 * g)).map (64 * g + ·)
      if x == 0 then []
      else rows.flatMap fun r =>
        if d.src = 1 then [.inr (d.core, d.rowAt r p n, n)]
        else (List.range (ceilDiv ((d.rowAt r p n % 8).toNat + n) 8)).map fun c => .inl (chunkKey o r p c)

/-- The keys of a rising list that a map does not have. -/
def notIn {α : Type} : List Nat → AMap α → List Nat
  | [], _ => []
  | k :: ks, m =>
    let m := m.dropWhile fun x => x.1 < k
    match m with
    | x :: rest => if x.1 = k then notIn ks rest else k :: notIn ks m
    | [] => k :: ks

/-- The quadwords that an entry's next unit still has to fetch, by rising keys. -/
def Entry.missing (e : Entry) : List Nat :=
  notIn (e.needs.filterMap fun x => match x with
    | .inl k => some k
    | .inr _ => none) e.got

/-- An entry's next operand data are at hand: fetched from global memory, or present in scratchpad. -/
def State.dataAtHand (s : State) (cl : Nat) (e : Entry) : Bool :=
  e.missing.isEmpty && e.needs.all fun x => match x with
    | .inl _ => true
    | .inr (core, a, n) => match s.teamAllot (s.entryTeam e) (cl * 4 + core) with
      | some (_, al) => al.present a.toNat n
      | none => false

/-- An entry is ready (11 R249), in a cycle after that of its issue. -/
def State.entryReady (s : State) (cl : Nat) (e : Entry) : Bool :=
  !e.running && s.entryRuns e && (s.cluster cl).mayStart e && s.dataAtHand cl e && s.turnPast (dieOfCluster cl) e.turn

/-- The order of a server's pick: class, then issue (11 R249). -/
def State.entryBefore (s : State) (a b : Entry) : Bool :=
  let x := ((AMap.get s.launches a.launch).map s.launchClass).getD 15
  let y := ((AMap.get s.launches b.launch).map s.launchClass).getD 15
  x < y || (x == y && a.before b)

/-- MXE_ENTRY_START: a free server takes the first ready entry of its kind, by class and age (11 R249). One that has run out of data
leaves its server to it, and is picked anew once they are at hand. -/
def execMxeEntryStart (s : State) : Host.Outcome State Fault Refusal :=
  let cl := s.ev.unit
  let c := s.cluster cl
  .next (match AMap.get c.entries s.ev.item with
    | none => s
    | some e =>
      let same (y : Entry) : Bool := y.onArray == e.onArray && y.running
      let busy := c.entries.any fun (_, y) => same y && !y.faulted && s.dataAtHand cl y
      let better := c.entries.any fun (_, y) => y.onArray == e.onArray && s.entryReady cl y && s.entryBefore y e
      if !busy && s.entryReady cl e && !better then
        (s.modCluster cl fun c => { c with entries := c.entries.map fun (n, y) => (n, { y with running := y.running && !same y }) }).modEntry
          cl s.ev.item fun e => { e with running := true }
      else s)

/-- The next unit of a running entry's work, once its data are at hand. -/
def mxeUnit (s : State) (cl n : Nat) : State :=
  match AMap.get (s.cluster cl).entries n with
  | none => s
  | some e =>
    if !e.running || !s.entryRuns e || e.units ≤ e.unit || !s.dataAtHand cl e then s
    else match AMap.get s.gangs e.gang with
      | none => s
      | some g =>
        if e.onArray then mmaUnit s cl n e
        else if e.opcode = 0x2A5 then aldUnit s cl n e g
        else if e.opcode = 0x2A6 then astUnit s cl n e g
        else (tileUnit e g s).modEntry cl n fun e => { e with unit := e.unit + 1 }

/-- A quadword of an entry's operands fetched ahead of the unit that uses it: by its key (11 R250, R251, 13 R308). A fault on the
way holds the entry at its unit where that unit needs the quadword (11 R254). -/
def mxeFetch (s : State) (cl n key : Nat) : State :=
  match AMap.get (s.cluster cl).entries n with
  | none => s
  | some e =>
    let o := key / (128 * 16 * 32)
    let r := key / (16 * 32) % 128
    let p := key / 32 % 16
    let c := key % 32
    -- a row of A that only a later group reads is met again there
    let mine := e.opcode = 0x2A5 || o % 2 == 0 || r / 64 == e.unit % max 1 (ceilDiv e.mRows 64)
    let keep (x : State × Fetch Nat) : State := match x with
      | (s, .val x) => s.modEntry cl n fun e => { e with got := AMap.set e.got key (BitVec.ofNat 64 x) }
      | (s, .fault va k) => if mine then s.entryFault cl n e .read va k else s
      | (s, .wait) => s
    if !s.entryRuns e || (AMap.get e.got key).isSome then s
    else if e.opcode = 0x2A5 then
      let c := key % (16 * 32)
      if o = 0 && r = e.unit && c < 16 * e.elemBytes then keep (s.pipeRead cl e (e.quadAddr r c)) else s
    else if e.onArray && 1 ≤ o && o ≤ 4 then
      let d := e.desc o
      let skip := (d.rowAt r p (e.rowBytes o) % 8).toNat
      if (e.descs[o - 1]?).getD 0 != 0 && r < d.rows && p = e.unit / ceilDiv e.mRows 64
          && c < ceilDiv (skip + e.rowBytes o) 8 then
        keep (s.descRead cl e d (d.rowAt r p (e.rowBytes o) / 8 * 8 + 8 * c))
      else s
    else s

/-- A quadword fetched, or from one that the next unit still needs on as many of those as a step makes accesses. -/
def mxeFetches (s : State) (cl n key : Nat) : State :=
  match (AMap.get (s.cluster cl).entries n).map fun e => e.missing.dropWhile (· < key) with
  | some (k :: ks) =>
    if k = key then ((k :: ks).take (if s.burst = 0 then 2 ^ 20 else s.burst)).foldl (fun s k => mxeFetch s cl n k) s
    else mxeFetch s cl n key
  | _ => mxeFetch s cl n key

/-- MXE_RETIRE: an entry whose work is done writes its register at the lanes still live, counts down and frees; the halt walk lets it
(04 R93, 11 R247, R252, R255). The writes of a warp that has left its slot count in its launch (13 R314). -/
def execMxeRetire (s : State) : Host.Outcome State Fault Refusal :=
  let cl := s.ev.unit
  .next (match AMap.get (s.cluster cl).entries s.ev.item with
    | none => s
    | some e => match AMap.get s.gangs e.gang with
      | none => s
      | some g =>
        if e.unit < e.units || e.faulted || e.stopped || g.restore || 5 < s.haltStepOf g.ctx then s
        else
          let reg := regNum e.f.op0
          let s := match e.result g with
            | some xs => s.modWarp e.wid fun w =>
              { (if w.mapped reg then w.writeV reg (xs.filter fun x => w.live.has x.1) else w) with awaitV := w.awaitV.erase reg }
            | none => s
          let s := s.modCluster cl fun c => { c with entries := AMap.erase c.entries s.ev.item }
          let s := s.ownerDone (.warp e.wid e.counter) (ordOf e.f) e.times
          if e.wid == nobody then s.launchWork (some e.launch) e.times.domain else s)

end Sys2Proof.Machine
end

