-- ==== Sys2Proof/Machine/Memory.lean ====
section
/-! DEFINITION. Global loads, stores and atomics by lanes, exact reductions, bulk commands, and the events of the memory levels (12 R268-R297, 13 R302-R305). -/
namespace Sys2Proof.Machine

/-! ### Lane accesses (12 R290) -/

/-- What the lanes of an instruction find: their physical addresses, or how the instruction ends instead. -/
inductive LaneAt where
  | at_ (s : State) (pas : List (Nat × Nat)) | stop (r : Res)

/-- An access that finds its home package unreachable is outstanding for it (19 R433). -/
def State.outstanding (s : State) (p wid : Nat) (pc : Word) : State :=
  let x := (p, wid, pc)
  if s.links.waiting.contains x then s else { s with links := { s.links with waiting := x :: s.links.waiting } }

/-- An access of a bundle that was outstanding for a package since removed from the domain (19 R433). -/
def State.abandoned (s : State) (wid : Nat) (pc : Word) : Option State :=
  if s.links.waiting.any fun (p, w, a) => w == wid && a == pc && s.links.removed.contains p then
    some { s with links := { s.links with waiting := s.links.waiting.filter fun (_, w, a) => !(w == wid && a == pc) } }
  else none

/-- The lanes' addresses checked for alignment and then translated, in ascending lane order, before any lane's access; the
group waits where a line it reaches is absent or its package unreachable, and while an earlier contribution of its lanes has
no place; one outstanding for a package since removed completes with no effect (12 R290, 13 R303, 14 R325, 08 R182, 19 R433). -/
def lanesAt (i : Iss) (s : State) (lanes : List Nat) (addr : Nat → Word) (n : Nat) (acc : Acc) : LaneAt :=
  match i.act.lanes.find? fun l => (addr l).toNat % n != 0 with
  | some l => .stop (.trap .memAlign l)
  | none =>
    match s.abandoned i.wid i.c.pc with
    | some s => .stop (.ok s [])
    | none =>
      match s.translateAll (laneChain (coreOf i.wid)) i.w.ctx acc (lanes.map addr) with
      | (s, .error (va, k)) => .stop (.hold s 0 acc va k)
      | (s, .ok pas) =>
        match pas.find? fun pa => s.links.unreachable.contains (packageOf pa) with
        | some pa => .stop (.wait (s.outstanding (packageOf pa) i.wid i.c.pc))
        | none =>
          if s.contributes i.wid i.c.lanes || pas.any fun pa => s.absentAt pa n then .stop (.wait s)
          else .at_ s (lanes.zip pas)

/-- An instruction of lanes that reaches global memory: found where its lanes go, it begins and makes its accesses, or goes on with
those still to be made. -/
def Iss.reaches (i : Iss) (s : State) (n : Nat) (found : State → LaneAt) (parts : List (Nat × Nat) → List (Nat × Nat × List Nat))
    (one : AccessStep) (done : State → State) (ws : (Nat → Nat) → List Wr) (begin_ : State → State := id) : Res :=
  match i.w.sending with
  | some x => i.makes s n x.stamp x.left x.got one done ws
  | none => match found s with
    | .stop r => r
    | .at_ s pas =>
      i.makes (begin_ { s with stamp := s.stamp + 1 }) n (s.stamp + 1) ((requestsOf (parts pas)).flatMap (·.accesses)) [] one done
        ws

/-- A load at the warp's time at issue (13 R302): every lane of it gets the same bytes. -/
def loadOne (i : Iss) (n : Nat) : AccessStep := fun s x =>
  let (s, bs, t) := s.laneLoad (coreOf i.wid) i.w.pts x.pa n i.f.hint.toNat
  ((s.raisePts i.wid t).seenAt i.wid x.pa n t, x.lanes.map fun y => (y.1, ofBytes bs))

/-- Stores of lanes at one address, in ascending order (12 R277). -/
def storeOne (i : Iss) (n : Nat) : AccessStep := fun s x =>
  (x.lanes.foldl (fun s y =>
    let (s, t) := (s.noteFlight i.wid x.pa .later).laneStore (coreOf i.wid) i.w.pts x.pa i.f.hint.toNat
      (bytesOf n (y.2.head?.getD 0))
    s.raisePts i.wid t) s, [])

/-- Updates of lanes at one address in ascending order, with what stood before each (12 R279). -/
def atomicOne (i : Iss) (n : Nat) (u : Until) (g : List Nat → Nat → Nat) : AccessStep := fun s x =>
  x.lanes.foldl (fun r y =>
    let note (s : State) (k : Nat) : State := s.noteFlight i.wid (x.pa + 8 * k) u
    let (s, old, t) := ((List.range (ceilDiv n 8)).foldl note r.1).laneAtomic (coreOf i.wid) i.w.pts x.pa i.f.hint.toNat n
      (g y.2)
    (s.raisePts i.wid t, r.2 ++ [(y.1, old)])) (s, [])

/-- A load instruction: once for a uniform base or destination (12 R291, 06 R132). -/
def loadOp (e : Enc) (f : Fields) (s : State) (uniform : Bool) (addr : Iss → Nat → Word) : Host.Outcome State Fault Refusal :=
  irlek e f s fun i s =>
    let n := accessBytes f.ty
    let lanes := if uniform then [i.low] else i.loadLanes
    i.reaches s n (fun s => lanesAt i s lanes (addr i) n .read) (fun pas => pas.map fun (l, pa) => (l, pa, []))
      (loadOne i n) id fun got => i.dest fun l => f.ty.fill (BitVec.ofNat 64 (got (if uniform then i.low else l)))

/-- A store instruction. -/
def storeOp (e : Enc) (f : Fields) (s : State) (addr : Iss → Nat → Word) (dataOp : Nat) : Host.Outcome State Fault Refusal :=
  irlek e f s fun i s =>
    let n := accessBytes f.ty
    i.reaches s n (fun s => lanesAt i s i.act.lanes (addr i) n .readWrite)
      (fun pas => pas.map fun (l, pa) => (l, pa, [(i.src dataOp l).toNat])) (storeOne i n) id fun _ => []

/-- A base and a signed immediate offset, modulo 2^64 (12 R291). -/
def Iss.baseOff (i : Iss) (base off l : Nat) : Word := i.src base l + BitVec.ofInt 64 (immInt (i.op off))

/-- A uniform base and a lane's index scaled (12 R291). -/
def Iss.indexed (i : Iss) (base index scale l : Nat) : Word := i.src base l + i.src index l <<< immNum (i.op scale)

/-- Whether an operand is a uniform register. -/
def isW : Operand → Bool
  | .w _ => true
  | _ => false

/-- LD (12 R291). -/
def execLd (f : Fields) (s : State) : Host.Outcome State Fault Refusal :=
  loadOp Enc.ld f s (isW f.op1) fun i => i.baseOff 1 2
/-- ST (12 R291). -/
def execSt (f : Fields) (s : State) : Host.Outcome State Fault Refusal := storeOp Enc.st f s (fun i => i.baseOff 0 1) 2
/-- LDX (12 R291). -/
def execLdx (f : Fields) (s : State) : Host.Outcome State Fault Refusal :=
  loadOp Enc.ldx f s false fun i => i.indexed 1 2 3
/-- STX (12 R291). -/
def execStx (f : Fields) (s : State) : Host.Outcome State Fault Refusal :=
  storeOp Enc.stx f s (fun i => i.indexed 0 1 2) 3

/-! ### PREF (12 R292) -/

/-- Each lane's line requested, both its sectors; an address that fails translation is dropped, and nothing else changes. -/
def prefetch (e : Enc) (f : Fields) (s : State) (into : State → Nat → Nat → State) : Host.Outcome State Fault Refusal :=
  irlek e f s fun i s =>
    .ok (i.act.lanes.foldl (fun s l =>
      match s.translate (laneChain (coreOf i.wid)) i.w.ctx (i.baseOff 0 1 l) .read with
      | (s, .ok pa) =>
        if s.absentAt pa 1 then s else [0, 128].foldl (fun s o => into s (coreOf i.wid) (pa / 256 * 256 + o)) s
      | (s, .error _) => s) s) []

/-- PREF.l2 (12 R292). -/
def execPrefL2 (f : Fields) (s : State) : Host.Outcome State Fault Refusal :=
  prefetch Enc.prefL2 f s fun s _ pa => s.fillLine pa f.hint.toNat
/-- PREF.msc (12 R292). -/
def execPrefMsc (f : Fields) (s : State) : Host.Outcome State Fault Refusal :=
  prefetch Enc.prefMsc f s fun s _ pa => if (s.mappedAt pa).isSome then s else s.fillMsc pa Sector.fill
/-- PREF.core: a leased copy comes into the core cache (12 R292). -/
def execPrefCore (f : Fields) (s : State) : Host.Outcome State Fault Refusal :=
  prefetch Enc.prefCore f s fun s core pa => (s.laneLoad core 0 pa 128 f.hint.toNat).1

/-! ### Bank ALU operations (12 R278, R279, R293, R294) -/

/-- Floating-point at a bank ALU: RNE, subnormals kept, no flag (12 R293). -/
def aluEnv : FEnv := ⟨.rne, false, false⟩

/-- `new` of Table 12.4. -/
def aluOp (variant : Nat) (t : Ty) (sat : Bool) (old v c : Nat) : Nat :=
  let v := v % 2 ^ t.width
  let c := c % 2 ^ t.width
  match t.fmt with
  | some F =>
    match variant with
    | 0 => (F.add aluEnv old v).1
    | 1 => (F.minMax false false old v).1
    | 2 => (F.minMax true false old v).1
    | _ => old
  | none =>
    match variant with
    | 0 => t.narrow sat (t.toInt old + t.toInt v)
    | 1 => if t.toInt v < t.toInt old then v else old
    | 2 => if t.toInt old < t.toInt v then v else old
    | 3 => old &&& v
    | 4 => old ||| v
    | 5 => old ^^^ v
    | 6 => v
    | 7 => if old = c then v else old
    | 8 => if v ≤ old then 0 else old + 1
    | _ => if old = 0 || v < old then v else old - 1

/-- ATOM (12 R293). -/
def execAtom (f : Fields) (s : State) : Host.Outcome State Fault Refusal :=
  irlek Enc.atom f s fun i s =>
    let n := accessBytes f.ty
    let g (vs : List Nat) (old : Nat) : Nat := aluOp f.variant.toNat f.ty f.sat old (vs[0]?.getD 0) (vs[1]?.getD 0)
    i.reaches s n (fun s => lanesAt i s i.act.lanes (i.src 1) n .readWrite)
      (fun pas => pas.map fun (l, pa) => (l, pa, [(i.src 2 l).toNat, (i.src 3 l).toNat]))
      (atomicOne i n (.read (regNum f.op0)) g) id fun got => i.dest fun l => f.ty.fill (BitVec.ofNat 64 (got l))

/-- A pair of registers as a 16-byte value, low quadword first (12 R294). -/
def Iss.pairVal (i : Iss) (k l : Nat) : Nat := (i.src k l).toNat + (i.next k 1 l).toNat * 2 ^ 64

/-- ATOMR: what stood at each lane's address goes to the destination pair (12 R294). -/
def atomr (e : Enc) (f : Fields) (s : State) (vals : Iss → Nat → List Nat) (g : List Nat → Nat → Nat) :
    Host.Outcome State Fault Refusal :=
  irlek e f s fun i s =>
    let d := regNum f.op0
    i.reaches s 16 (fun s => lanesAt i s i.act.lanes (i.src 1) 16 .readWrite)
      (fun pas => pas.map fun (l, pa) => (l, pa, vals i l)) (atomicOne i 16 (.read d) g) id fun old =>
        [.v d (i.act.lanes.map fun l => (l, BitVec.ofNat 64 (old l))),
         .v (d + 1) (i.act.lanes.map fun l => (l, BitVec.ofNat 64 (old l / 2 ^ 64)))]

/-- ATOMR.cas (12 R294). -/
def execAtomrCas (f : Fields) (s : State) : Host.Outcome State Fault Refusal :=
  atomr Enc.atomrCas f s (fun i l => [i.pairVal 2 l, i.pairVal 3 l]) fun vs old =>
    if some old = vs[0]? then vs[1]?.getD 0 else old
/-- ATOMR.swap (12 R294). -/
def execAtomrSwap (f : Fields) (s : State) : Host.Outcome State Fault Refusal :=
  atomr Enc.atomrSwap f s (fun i l => [i.pairVal 2 l]) fun vs _ => vs[0]?.getD 0

/-- An instruction issues: its counter counts up (10 R224). -/
def State.countIssue (s : State) (wid : Nat) (f : Fields) : State := s.modWarp wid fun w => w.countUp (counterOf f)

/-- The updates of an instruction are done: its counter, counted up at issue, is owed its decrement (10 R224, 13 R312). -/
def State.owe (s : State) (wid : Nat) (f : Fields) (stamp : Nat) : State :=
  s.modWarp wid fun w => { w with owed := w.owed ++ [(f.counter.toNat, stamp)] }

/-- RED (12 R293). -/
def execRed (f : Fields) (s : State) : Host.Outcome State Fault Refusal :=
  irlek Enc.red f s fun i s =>
    let n := accessBytes f.ty
    let stamp := i.stamp s
    let g (vs : List Nat) (old : Nat) : Nat := aluOp f.variant.toNat f.ty f.sat old (vs[0]?.getD 0) 0
    i.reaches s n (fun s => lanesAt i s i.act.lanes (i.src 0) n .readWrite)
      (fun pas => pas.map fun (l, pa) => (l, pa, [(i.src 1 l).toNat])) (atomicOne i n (.settled stamp) g)
      (fun s => s.owe i.wid f stamp) (fun _ => []) fun s => s.countIssue i.wid f

/-- A finished update counts down (10 R224); its accesses are no longer in flight. -/
def settle (s : State) (wid : Nat) : State :=
  match s.warp? wid with
  | none => s
  | some w => match w.owed with
    | [] => s
    | (k, st) :: rest =>
      ((s.setWarp wid { w with owed := rest }).landed wid fun x => x.until_ == .settled st).countDown wid
        (if k ≤ 11 then some k else none) 0

/-! ### Exact reductions (12 R280-R285, R295, R296) -/

/-- The format of an exact slot by type: its code and the bytes of an element. -/
def slotFmt (t : Ty) : Nat × Nat :=
  match t with
  | .f16 => (1, 2)
  | .bf16 => (2, 2)
  | _ => (0, 4)

/-- A contribution to an element at a time: other slots in its way close first, and a slot opens from the element as it
stands (12 R281, R283). None where it must wait for room (12 R285). -/
def State.contribute (s : State) (core p ctx launch pa fmt bits hint : Nat) : Option (State × Nat) :=
  let size := if fmt = 0 then 4 else 2
  let others := (s.slotsOver pa size).filter fun k => k != pa || ((AMap.get s.slots k).map (·.fmt)) != some fmt
  let s := others.foldl (fun s k => (s.tailrace p k none).1) (s.fillLine pa hint)
  let put (s : State) (x : Slot) : State × Nat :=
    let (_, rts) := s.lineTimes pa
    let t := max p (rts + 1)
    let s := (s.noteCode pa).setTimes pa t t
    let s := { s with stamp := s.stamp + 1 }
    let s := { s with slots := AMap.set s.slots pa { x.add bits with ctx := ctx, launch := launch, last := s.stamp } }
    ((s.updateCopy core pa t).checkTime t, t)
  match AMap.get s.slots pa with
  | some x =>
    if !x.spilled then some (put s x)
    else (s.roomForSlot pa true).map fun s => put s { x with spilled := false }
  | none =>
    (s.roomForSlot pa false).map fun s =>
      let x : Slot := ⟨fmt, 0, false, false, false, ctx, launch, 0, false⟩
      put s (x.add (ofBytes ((List.range size).map fun j => s.rawByte (pa + j))))

/-- The supervisor is told of something, once (12 R285, R287, R288). -/
def State.notice (s : State) (n : Notice) : State :=
  if s.sup.notices.contains n then s else { s with sup := { s.sup with notices := s.sup.notices ++ [n] } }

/-- Contributions of lanes at one element; one that finds no room waits at its slice, and the supervisor is told (12 R285, R295). -/
def contributeOne (i : Iss) (fmt stamp : Nat) : AccessStep := fun s x =>
  (x.lanes.foldl (fun s y =>
    let bits := y.2.head?.getD 0
    match (s.noteFlight i.wid x.pa (.settled stamp)).contribute (coreOf i.wid) i.w.pts i.w.ctx i.w.launch x.pa fmt bits
        i.f.hint.toNat with
    | some (s, t) => s.raisePts i.wid t
    | none =>
      let z : SlotWait := ⟨i.wid, y.1, stamp, i.w.pts, i.w.ctx, i.w.launch, x.pa, fmt, bits, i.f.hint, counterOf i.f⟩
      { s with slotWaits := s.slotWaits ++ [z] }.notice (.slotsFull (homeDie x.pa))) s, [])

/-- REDF.add (12 R295): one slot an element. -/
def execRedfAdd (f : Fields) (s : State) : Host.Outcome State Fault Refusal :=
  irlek Enc.redfAdd f s fun i s =>
    let (fmt, size) := slotFmt f.ty
    let n := accessBytes f.ty
    let stamp := i.stamp s
    i.reaches s size (fun s => lanesAt i s i.act.lanes (i.src 0) n .readWrite)
      (fun pas => pas.flatMap fun (l, pa) =>
        (List.range (n / size)).map fun j => (l, pa + size * j, [elemAt (8 * size) (i.src 1 l) j]))
      (contributeOne i fmt stamp)
      (fun s => if s.slotWaits.any fun x => x.stamp == stamp && x.wid == i.wid then s else s.owe i.wid f stamp)
      (fun _ => []) fun s => s.countIssue i.wid f

/-- The physical pieces of a virtual range, page by page (12 R296). -/
def rangePieces (core ctx : Nat) : Nat → State → Nat → Nat → List (Nat × Nat) →
    State × Except (Word × FaultKind) (List (Nat × Nat))
  | 0, s, _, _, acc => (s, .ok acc)
  | fuel + 1, s, va, n, acc =>
    if n = 0 then (s, .ok acc)
    else match s.translate (laneChain core) ctx (BitVec.ofNat 64 va) .write with
      | (s, .error k) => (s, .error (BitVec.ofNat 64 va, k))
      | (s, .ok pa) =>
        let len := min n (4096 - va % 4096)
        rangePieces core ctx fuel s (va + len) (n - len) (acc ++ [(pa, len)])

/-- REDF.flush: the tailrace of every slot that its range covers a byte of (12 R283, R296). -/
def execRedfFlush (f : Fields) (s : State) : Host.Outcome State Fault Refusal :=
  irlek Enc.redfFlush f s fun i s =>
    let n := (i.uni 1).toNat
    let va := (i.uni 0).toNat
    if va % 2 != 0 then .trap .memAlign i.low
    else if n % 2 != 0 || n < 2 || 2 ^ 30 < n then .trap .memRange i.low
    else match rangePieces (coreOf i.wid) i.w.ctx (n / 4096 + 2) s va n [] with
      | (s, .error (va, k)) => .hold s 0 .write va k
      | (s, .ok ps) =>
        let keys := (ps.flatMap fun (pa, len) => s.slotsOver pa len).eraseDups
        if s.contributes i.wid i.c.lanes || keys.any fun k => s.absentAt k 2 then .wait s
        else
          let stamp := s.stamp + 1
          let s := keys.foldl (fun s k =>
            let (s, t) := s.tailrace i.w.pts k (some f.hint.toNat)
            s.raisePts i.wid t) (({ s with stamp := stamp } : State).countIssue i.wid f)
          .ok (s.owe i.wid f stamp) []

/-- SLOT_WAIT_RESUME: of the contributions that wait in a die the oldest that finds room is placed; the last of its instruction
completes it, once all of its accesses have been made (12 R285). -/
def execSlotWaitResume (s : State) : Host.Outcome State Fault Refusal :=
  let placed (x : SlotWait) : Option (SlotWait × State × Nat) :=
    if homeDie x.pa != s.ev.unit || s.absentAt x.pa 2 then none
    else (s.contribute (coreOf x.wid) x.time x.ctx x.launch x.pa x.fmt x.bits x.hint.toNat).map fun (s, t) => (x, s, t)
  .next (match s.slotWaits.findSome? placed with
    | none => s
    | some (x, s, t) =>
      let s := ({ s with slotWaits := s.slotWaits.erase x }).raisePts x.wid t
      if (s.slotWaits.any fun y => y.stamp == x.stamp && y.wid == x.wid)
          || ((s.warp? x.wid).bind fun w => w.sending.map (·.stamp)) == some x.stamp then s
      else (s.modWarp x.wid fun w => { w with owed := w.owed ++ [(x.counter.getD 15, x.stamp)] }).launchWork (some x.launch) t)

/-! ### BULK (12 R297) -/

/-- The limits of BULK (12 R290, R297). -/
def bulkOk (addrs : List Word) (n : Nat) : Bool :=
  addrs.all (fun a => a.toNat % 8 == 0) && n % 8 == 0 && 8 ≤ n && n ≤ 2 ^ 30

/-- BULK.copy (12 R297). -/
def execBulkCopy (f : Fields) (s : State) : Host.Outcome State Fault Refusal :=
  irlek Enc.bulkCopy f s fun i s =>
    if !bulkOk [i.uni 0, i.uni 1] (i.uni 2).toNat then .trap .memRange i.low
    else sendCmd i s (.bulkCopy (i.uni 0) (i.uni 1) (i.uni 2).toNat) none (ordOf f) []
/-- BULK.fill (12 R297). -/
def execBulkFill (f : Fields) (s : State) : Host.Outcome State Fault Refusal :=
  irlek Enc.bulkFill f s fun i s =>
    if !bulkOk [i.uni 0] (i.uni 2).toNat then .trap .memRange i.low
    else sendCmd i s (.bulkFill (i.uni 0) (i.uni 2).toNat (i.uni 1)) none (ordOf f) []

/-! ### Events of the levels and of stored data (12 R271, R286-R288, 13 R302, R304, R305) -/

/-- L2_EVICT (13 R305). -/
def execL2Evict (s : State) : Host.Outcome State Fault Refusal := .next (s.evictL2 s.ev.unit)

/-- L2_FILL: an absent line is filled at its region's summary (13 R305). -/
def execL2Fill (s : State) : Host.Outcome State Fault Refusal :=
  .next (if s.inMemory (s.ev.unit * 256) && (AMap.get s.l2 s.ev.unit).isNone then
      (s.fillLine (s.ev.unit * 256) 0).fillLine (s.ev.unit * 256 + 128) 0
    else s)

/-- MSC_EVICTION (12 R271). -/
def execMscEviction (s : State) : Host.Outcome State Fault Refusal := .next (s.evictMsc s.ev.unit)

/-- LEASE_RENEWAL: a copy is renewed where it is of the home's version, and refreshed otherwise (13 R302). -/
def execLeaseRenewal (s : State) : Host.Outcome State Fault Refusal :=
  let core := s.ev.unit
  let line := s.ev.item
  .next (match AMap.get (s.core core).copies line with
    | none => s
    | some c =>
      let pa := line * 256
      let s := (s.fillLine pa 0).fillLine (pa + 128) 0
      let (wts, rts) := s.lineTimes pa
      let t := max s.ev.third wts
      let rts := max rts (t + lease)
      let fresh := c.wts == wts
      let half (b : Bool) (old : Option (List Byte)) (a : Nat) : Option (List Byte) :=
        if b then old else old.map fun _ => s.sector a
      let c := { c with wts := wts, rts := rts, lo := half fresh c.lo pa, hi := half fresh c.hi (pa + 128) }
      let s := (s.setTimes pa wts rts).checkTime rts
      s.modCore core fun k => { k with copies := AMap.set k.copies line c })

/-- PTS_ADVANCE: a resident warp's clock, after 64 cycles of residency (13 R304). -/
def execPtsAdvance (s : State) : Host.Outcome State Fault Refusal :=
  .next (match s.warp? s.ev.unit with
    | none => s
    | some w =>
      if w.ptsSince + 64 ≤ (s.die (dieOf s.ev.unit)).cycles then
        s.setWarp s.ev.unit { w with pts := w.pts + 1, ptsSince := w.ptsSince + 64 }
      else s)

/-- The clock of a resident warp at a cycle of its die: 1 more for every 64 cycles of residency (13 R304). -/
def Warp.resideTo (w : Warp) (now : Nat) : Warp :=
  let n := (now - w.ptsSince) / 64
  if n = 0 then w else { w with pts := w.pts + n, ptsSince := w.ptsSince + 64 * n }

/-- CORRECTED_ERROR: counted for the supervisor, and nothing else (12 R286). -/
def execCorrectedError (s : State) : Host.Outcome State Fault Refusal :=
  .next (s.modDie s.ev.unit fun d => { d with corrected := d.corrected + 1 })

/-- The contexts that map a physical page. -/
def State.mappers (s : State) (pa : Nat) : List Nat :=
  (s.ctxs.filter fun (_, c) => c.pages.any fun (_, len, p, _) => p ≤ pa && pa < p + len).map (·.1)

/-- MEM_UNCORRECT: the consuming context halts, and the supervisor receives the physical address and the unit, `item` and `third`;
nothing is delivered (12 R287). Where a warp's instruction needs the data, that warp caused the halt (18 Table 18.1 HWHO): the
first number names it. A second number names the peer whose read over a link needs the data: it receives an error completion,
and `unit` is the context that owns the page. -/
def execMemUncorrect (s : State) : Host.Outcome State Fault Refusal :=
  let s := s.notice (.uncorrectable s.ev.item s.ev.third)
  let halted := s.haltCtx s.ev.unit .memUncorrect (BitVec.ofNat 64 (Config.uncorrectInfo s.ev.item s.ev.third))
    ((s.ev.nums.head?.bind s.warp?).map (·.saveIdx))
  .next (match s.ev.nums[1]? with
    | some peer => halted.post ⟨peer, 1, []⟩
    | none => halted)

/-- Every context that maps a physical page halts for data lost there, and the supervisor is told (12 R288). -/
def State.lost (s : State) (pa : Nat) : State :=
  (s.mappers pa).foldl (fun s c => s.haltCtx c .memUncorrect (BitVec.ofNat 64 (Config.uncorrectInfo pa 0)) none)
    (s.notice (.uncorrectable pa 0))

/-- L2 cannot read a dirty sector for write-back: it is discarded, and the levels behind keep their older value. -/
def State.discardL2 (s : State) (pa : Nat) : State :=
  let base := pa / 128 * 128
  { s with
    mem := restoreBehind s.mem s.l2Behind base, l2Behind := dropBehind s.l2Behind base
    l2 := AMap.modify s.l2 (lineOf pa) fun l => l.modHalf pa fun _ => Sector.none_ }

/-- The memory-side cache cannot read a dirty sector for write-back. A newer one in L2 stands, ahead of the memory behind it; a
clean one stands until L2 drops it. -/
def State.discardMsc (s : State) (pa : Nat) : State :=
  let base := pa / 128 * 128
  let gone (s : State) : State :=
    { s with
      mscBehind := dropBehind s.mscBehind base
      msc := AMap.modify s.msc (lineOf pa) fun m => m.modHalf pa fun _ => Sector.none_ }
  match AMap.get s.l2 (lineOf pa) with
  | some l =>
    if (l.half pa).valid then
      -- what L2 holds is read on; behind it stands what stood behind the memory-side cache
      gone { s with
        l2Behind := (List.range 128).foldl (fun m j =>
          let b := AMap.getD s.mscBehind (base + j) 0
          if b = 0 then AMap.erase m (base + j) else AMap.set m (base + j) b) s.l2Behind
        l2 := AMap.set s.l2 (lineOf pa) (l.modHalf pa fun x => { x with ahead := !x.dirty }) }
    else gone { s with mem := restoreBehind s.mem s.mscBehind base }
  | none => gone { s with mem := restoreBehind s.mem s.mscBehind base }

/-- UNCONSUMED_ERROR: a fill is dropped and the supervisor told; a dirty sector of L2, or of the memory-side cache, that cannot be
written back is discarded, so that memory keeps its older value, and every context that maps the page halts (12 R288). `item`
says which. -/
def execUnconsumedError (s : State) : Host.Outcome State Fault Refusal :=
  let pa := s.ev.unit
  let inL2 := (AMap.get s.l2 (lineOf pa)).any fun l => (l.half pa).dirty
  let inMsc := (AMap.get s.msc (lineOf pa)).any fun m => (m.half pa).dirty
  .next (if s.ev.item = 0 then s.notice (.dropped pa)
    else if s.ev.item = 1 then (if inL2 then (s.discardL2 pa).lost pa else s)
    else if inMsc then (s.discardMsc pa).lost pa else s)

end Sys2Proof.Machine
end

