-- ==== Sys2Proof/Machine/Tracing.lean ====
section
/-! DEFINITION. Traversal units: trace slots, rays, hit queues, and the tracing instructions (15 R329-R356). -/
namespace Sys2Proof.Machine

/-! ### Slots and records -/

/-- Where record `i` begins (15 R336). -/
def TraceSlot.off (t : TraceSlot) (i : Nat) : Nat := t.pool + 256 * i

/-- A number of `n` bytes of a record. -/
def State.recNum (s : State) (t : TraceSlot) (i off n : Nat) : Nat :=
  match AMap.get s.allots t.allot with
  | some a => a.num (t.off i + off) n
  | none => 0

/-- What stood in the quadwords of `n` bytes at an offset before a write and after it, kept (15 R356). -/
def Allot.keepWritten (before after : Allot) (off n : Nat) : Allot :=
  (List.range ((off % 8 + n + 7) / 8)).foldl (fun a k =>
    let q := off / 8 * 8 + 8 * k
    let old := (AMap.get a.written q).getD [before.num q 8]
    let new := a.num q 8
    { a with written := AMap.set a.written q (if old.contains new then old else old ++ [new]) }) after

/-- What stood in a record before is of no account. -/
def Allot.forgetRecord (a : Allot) (off : Nat) : Allot :=
  { a with written := a.written.filter fun (q, _) => q < off || off + 256 ≤ q }

/-- Bytes of a record written by the traversal unit. -/
def State.recPut (s : State) (t : TraceSlot) (i off : Nat) (bs : List Byte) : State :=
  s.modAllot t.allot fun a => Allot.keepWritten a (a.poke (t.off i + off) bs) (t.off i + off) bs.length

/-- Bytes of a record written as its ray is sent, or as it is freed. -/
def State.recNew (s : State) (t : TraceSlot) (i off : Nat) (bs : List Byte) : State :=
  s.modAllot t.allot fun a => (a.poke (t.off i + off) bs).forgetRecord (t.off i)

/-- The state of a record, as Table 15.6 codes it. -/
def State.recState (s : State) (t : TraceSlot) (i : Nat) : Nat := s.recNum t i 0x70 1
def recFree : Nat := 0
def recQueued : Nat := 1
def recTraversing : Nat := 2
def recAnyhit : Nat := 3
def recHeld : Nat := 4

/-- The key of a record of a core: slot and index. -/
def rayKey (slot i : Nat) : Nat := slot * 4096 + i

/-- A core's trace unit changed. -/
def State.modTvu (s : State) (core : Nat) (f : Tvu → Tvu) : State := s.modCore core fun c => { c with tvu := f c.tvu }

/-- A ray changed. -/
def State.modRay (s : State) (core key : Nat) (f : Ray → Ray) : State :=
  s.modTvu core fun t => { t with rays := AMap.modify t.rays key f }

/-- A slot's statistics unit raised (15 R331). -/
def State.stat (s : State) (core slot unit by_ : Nat) (half : Nat → Nat → Nat) : State :=
  s.modCore core fun c =>
    { c with slots := AMap.modify c.slots slot fun t =>
        { t with stats := t.stats.modify unit fun x => half x by_ } }
/-- The whole unit, or one of its halves, raised. -/
def statWhole (x n : Nat) : Nat := (x + n) % 2 ^ 64
def statLow (x n : Nat) : Nat := x / 2 ^ 32 * 2 ^ 32 + (x + n) % 2 ^ 32
def statHigh (x n : Nat) : Nat := x % 2 ^ 32 + (x / 2 ^ 32 + n) % 2 ^ 32 * 2 ^ 32

/-- A ray's handle with an event (15 Table 15.5). -/
def State.handle (s : State) (t : TraceSlot) (slot i event : Nat) : Word :=
  BitVec.ofNat 64
    (s.recNum t i 0x20 4 * 2 ^ 32 + s.recNum t i 0x26 1 % 16 * 2 ^ 20 + event * 2 ^ 16 + slot % 8 * 2 ^ 12 + i)

/-- The slot and index of a valid handle of an allotment's core (15 R345). -/
def State.validHandle (s : State) (core id : Nat) (x : Word) : Option (Nat × TraceSlot × Nat) :=
  let h := x.toNat
  match AMap.get (s.core core).slots (natBits h 14 12) with
  | some t =>
    if t.allot == id && natBits h 11 0 < t.records && natBits h 31 24 == 0 && natBits h 15 15 == 0 then
      some (natBits h 14 12, t, natBits h 11 0)
    else none
  | none => none

/-- A record of a slot that is not FREE (15 R346). -/
def State.slotLive (s : State) (t : TraceSlot) : Bool := (List.range t.records).any fun i => s.recState t i != recFree

/-- CLOSED set on a hit queue once every slot that names it is closed and has no live record (15 R348). -/
def State.closeHits (s : State) (core : Nat) (t : TraceSlot) : State :=
  let same := (s.core core).slots.filter fun (_, x) => x.allot == t.allot && x.hitQueue == t.hitQueue
  if same.all fun (_, x) => x.closed && !s.slotLive x then
    s.modAllot t.allot fun a => a.setDesc t.hitQueue { a.desc t.hitQueue with closed := true }
  else s

/-- A record freed (15 R346). -/
def State.freeRecord (s : State) (core : Nat) (t : TraceSlot) (i : Nat) : State :=
  (s.recNew t i 0x70 [BitVec.ofNat 8 recFree]).closeHits core t

/-! ### The end of a ray (15 R341, R346, R352, R353) -/

/-- A TRACE or TRACEW with one ray fewer: at its last ray TRACEW's results are written, those of lanes that have exited left out,
and its counter falls (04 R93, 15 R352, R353). -/
def State.jobRay (s : State) (core key : Nat) (result : Option (Word × Word)) : State :=
  let u := (s.core core).tvu
  match AMap.get u.jobOf key with
  | none => s
  | some (id, l) =>
    let s := s.modTvu core fun u => { u with jobOf := AMap.erase u.jobOf key }
    match AMap.get u.jobs id with
    | none => s
    | some j =>
      let j := { j with left := j.left - 1, results := j.results ++ result.toList.map fun (a, b) => (l, a, b) }
      if j.left != 0 then s.modTvu core fun u => { u with jobs := AMap.set u.jobs id j }
      else
        let s := s.modTvu core fun u => { u with jobs := AMap.erase u.jobs id }
        let live (w : Warp) (l : Nat) : Bool := ((w.lanes[l]?).map (·.live)).getD false
        let put (w : Warp) (n : Nat) (xs : List (Nat × Word)) : Warp :=
          { (if w.mapped n then w.writeV n (xs.filter fun x => live w x.1) else w) with awaitV := w.awaitV.erase n }
        let lo := j.results.map fun x => (x.1, x.2.1)
        let hi := j.results.map fun x => (x.1, x.2.2)
        let s := match j.dest with
          | some d => s.modWarp j.wid fun w => put (put w d lo) (d + 1) hi
          | none => s
        s.countDown j.wid j.counter 0

/-- The result of a ray of TRACEW (15 R353): event 0 CLOSEST, 1 MISS, 3 STALE. -/
def State.tracewResult (s : State) (t : TraceSlot) (i event : Nat) : Word × Word :=
  let pair (lo hi : Nat) : Word := BitVec.ofNat 64 (lo + hi * 2 ^ 32)
  match event with
  | 0 => (pair (s.recNum t i 0x40 4) (s.recNum t i 0x4C 4), pair (s.recNum t i 0x44 4) (s.recNum t i 0x48 4))
  | 1 => (pair 0x7F800000 0xFFFFFFFF, 0)
  | _ => (pair 0x7FC00000 0xFFFFFFFF, 0)

/-- The record leaves the unit with a time. -/
def State.leaveTvu (s : State) (core key time : Nat) : State :=
  s.modTvu core fun u => { u with rays := AMap.erase u.rays key, times := AMap.set u.times key time }

/-- A ray ends with an event: its record is written, then its handle pushed into the hit queue; a ray of TRACEW frees its
record and pushes nothing (15 R331, R341, R346, R353). -/
def finishRay (s : State) (core slot : Nat) (t : TraceSlot) (i time event : Nat) : State :=
  let key := rayKey slot i
  let u := (s.core core).tvu
  let silent := ((AMap.get u.jobOf key).bind fun (id, _) => (AMap.get u.jobs id).bind (·.dest)).isSome
  let s := (s.leaveTvu core key time).recPut t i 0x76 [BitVec.ofNat 8 event]
  let s := s.stat core slot 1 1 statWhole
  if silent then (s.jobRay core key (some (s.tracewResult t i event))).freeRecord core t i
  else
    let s := (s.recPut t i 0x70 [BitVec.ofNat 8 recHeld]).jobRay core key none
    s.modAllot t.allot fun a => a.pushAll t.hitQueue time [s.handle t slot i event]

/-- The event that a completed traversal ends with (15 R341). -/
def State.endEvent (s : State) (t : TraceSlot) (i : Nat) : Nat := if s.recNum t i 0x71 1 % 2 = 1 then 0 else 1

/-! ### Trails and stacks (15 R339) -/

/-- The rank a trail keeps at a depth. -/
def trailRank (trail depth : Nat) : Nat := natBits trail (3 * depth + 2) (3 * depth)

/-- A trail with a rank at a depth and nothing below it. -/
def trailSet (trail depth rank : Nat) : Nat := trail % 2 ^ (3 * depth) + rank * 2 ^ (3 * depth)

/-- A trail gone past the rank at a depth; none past the last rank of the root. -/
def trailNext (trail : Nat) : Nat → Option (Nat × Nat)
  | 0 => if trailRank trail 0 < 7 then some (trailSet trail 0 (trailRank trail 0 + 1), 0) else none
  | d + 1 =>
    if trailRank trail (d + 1) < 7 then some (trailSet trail (d + 1) (trailRank trail (d + 1) + 1), d + 1)
    else trailNext trail d

/-- A record's trail, current depth and next triangle written. -/
def State.putTrail (s : State) (t : TraceSlot) (i trail depth tri : Nat) : State :=
  s.recPut t i 0x80 (bytesOf 18 trail ++ bytesOf 1 depth ++ bytesOf 1 tri)

/-- A saturating count of a record raised by one. -/
def State.recCount (s : State) (t : TraceSlot) (i off : Nat) : State :=
  s.recPut t i off (bytesOf 2 (min 65535 (s.recNum t i off 2 + 1)))

/-- A ray goes to a child: it waits at its fence, or enters it. -/
def Ray.toChild (r : Ray) (leaf : Bool) (target fence depth tri : Nat) : Ray :=
  { r with at_ :=
      if fence != 0 then .fence leaf target fence depth
      else if leaf then .leaf (r.leaves + BitVec.ofNat 64 (128 * target)) tri []
      else .node target depth }

/-- A ray put back to the root, with one more restart (15 R339, R344). -/
def State.restartRay (s : State) (core key slot : Nat) (t : TraceSlot) (i : Nat) : State :=
  ((s.recCount t i 0x74).stat core slot 2 1 statWhole).modRay core key fun r =>
    { r with at_ := .fetch [], stack := [], trailing := false }

/-- A ray goes on from where nothing is left below: its stack's top, a restart along the trail, or its end. -/
def nextPending (s : State) (core key : Nat) (t : TraceSlot) (r : Ray) : State :=
  let trail := s.recNum t r.index 0x80 18
  match r.stack with
  | c :: rest =>
    let s := s.putTrail t r.index (trailSet trail c.depth c.rank) c.depth 0
    s.modRay core key fun _ => ({ r with stack := rest }).toChild c.leaf c.target c.fence (c.depth + 1) 0
  | [] =>
    match if r.trailing then trailNext trail (s.recNum t r.index 0x92 1) else none with
    | some (trail, depth) =>
      (s.putTrail t r.index trail depth 0).restartRay core key r.slot t r.index
    | none => finishRay s core r.slot t r.index r.time (s.endEvent t r.index)

/-- A push onto the stack of 16, top first; the bottom falls off a full one (15 R339). -/
def Ray.push (r : Ray) (p : Pending) : Ray :=
  if r.stack.length < 16 then { r with stack := p :: r.stack }
  else { r with stack := p :: r.stack.take 15, trailing := true }

/-! ### Reads of the unit (15 R342-R344) -/

/-- What a read finds. -/
inductive TvuRead where
  | data (bs : List Byte) | wait | fault (va : Word) (k : FaultKind)

/-- Bytes read at a virtual address, sector by sector, at the ray's time and later. -/
def tvuRead (core ctx hint : Nat) : List (Nat × Nat) → State → Nat → List Byte → State × Nat × TvuRead
  | [], s, time, bs => (s, time, .data bs)
  | (a, n) :: rest, s, time, bs =>
    match s.engineTranslate [tlbCluster (clusterOfCore core)] ctx (BitVec.ofNat 64 a) .read with
    | (s, .error k) => (s, time, .fault (BitVec.ofNat 64 a) k)
    | (s, .ok pa) =>
      if s.absentAt pa n || s.links.removed.contains (packageOf pa) then (s, time, .wait)
      else
        let (s, xs, t) := s.laneLoad core time pa n hint
        tvuRead core ctx hint rest s (max time t) (bs ++ xs)

/-- A ray's read, with what it does when the read gives no data: the ray waits, or is held under a fault of unit 4. -/
def rayRead (s : State) (core key : Nat) (r : Ray) (va : Word) (n : Nat) (hint : Nat)
    (body : State → Ray → (Nat → Nat → Nat) → State) : State :=
  let ctx := ((AMap.get (s.core core).slots r.slot).bind fun t => (AMap.get s.allots t.allot).map (·.ctx)).getD 0
  match tvuRead core ctx hint (sectorCuts va.toNat (n / 128 + 2) n) s r.time [] with
  | (s, time, .data bs) => body s { r with time := time } fun off k => ofBytes ((bs.drop off).take k)
  | (s, _, .wait) => s
  | (s, _, .fault va k) =>
    match s.recordFault (dieOfCore core) ctx 4 .read k va (.ray core key) with
    | some s => s.modRay core key fun r => { r with faulted := true }
    | none => s

/-! ### Steps of the unit -/

/-- The context of an allotment runs and its bytes are on the core (15 R344). -/
def State.slotRuns (s : State) (t : TraceSlot) : Bool :=
  match AMap.get s.allots t.allot with
  | some a => s.ctxRuns a.ctx && !a.saved
  | none => false

/-- A ray with a place in the unit. -/
def Ray.runs (r : Ray) : Bool := match r.at_ with
  | .held _ _ _ => false
  | _ => r.placed

/-- Places of the unit in use (15 R338). -/
def Tvu.busy (u : Tvu) : Nat := (u.rays.filter fun (_, r) => r.runs).length

/-- A ray that comes from a ray queue or the resume list: one that meets R337 ends at once. -/
def State.enterRay (s : State) (core slot : Nat) (t : TraceSlot) (i : Nat) (resumed : Bool) : State :=
  let key := rayKey slot i
  let time := AMap.getD (s.core core).tvu.times key 0
  let s := s.recPut t i 0x70 [BitVec.ofNat 8 recTraversing]
  match rayVals (s.recNum t i) with
  | none => finishRay s core slot t i time 1
  | some _ =>
    let r : Ray := ⟨slot, i, .fetch [], 0, 0, 0, [], false, time, true, false⟩
    let s := s.modTvu core fun u => { u with rays := AMap.set u.rays key r }
    if resumed then s.restartRay core key slot t i else s

/-- The oldest handle of the next ray queue in rotation (15 R338). -/
def popRayQueue (s : State) (core : Nat) : List Nat → State
  | [] => s
  | slot :: rest =>
    match AMap.get (s.core core).slots slot with
    | none => popRayQueue s core rest
    | some t =>
      match AMap.get s.allots t.allot with
      | none => popRayQueue s core rest
      | some a =>
        let d := a.desc t.rayQueue
        if !s.slotRuns t || d.count = 0 then popRayQueue s core rest
        else
          let h := a.num (ringOff t.rayQueue (d.place d.head)) 8
          let i := natBits h 11 0
          let s := s.modAllot t.allot fun a => a.setDesc t.rayQueue { d with head := (d.head + 1) % 2 ^ 32 }
          let s := s.modTvu core fun u => { u with lastSlot := slot }
          if i < t.records && s.recState t i == recQueued then s.enterRay core slot t i false else s

/-- RAY_POP: a free place takes a ray that an answer has sent back, the resume list's first, or the oldest handle of a ray
queue, in rotation by slot (15 R338, R344, R354). -/
def execRayPop (s : State) : Host.Outcome State Fault Refusal :=
  let core := s.ev.unit
  let u := (s.core core).tvu
  .next (if 64 ≤ u.busy then s
    else match u.rays.find? fun (_, r) => !r.placed with
      | some (key, _) => s.modRay core key fun r => { r with placed := true }
      | none =>
        let live (x : Nat × Nat) : Bool := ((AMap.get (s.core core).slots x.1).map s.slotRuns).getD false
        match u.resume.find? live with
        | some (slot, i) =>
          let s := s.modTvu core fun u => { u with resume := u.resume.erase (slot, i) }
          match AMap.get (s.core core).slots slot with
          | some t => s.enterRay core slot t i true
          | none => s
        | none => popRayQueue s core ((List.range 8).map fun j => (u.lastSlot + 1 + j) % 8))

/-- The ray an event names, if it may take a step, and its slot. -/
def State.rayAt (s : State) : Option (Ray × TraceSlot) :=
  let core := s.ev.unit
  match AMap.get (s.core core).tvu.rays s.ev.item with
  | none => none
  | some r => match AMap.get (s.core core).slots r.slot with
    | none => none
    | some t => if r.runs && !r.faulted && s.slotRuns t then some (r, t) else none

/-- The quadwords of a header that a ray reads, one after another: its three arenas, and its generation's slot (15 Table 15.1). -/
def headerQuads (t : TraceSlot) : List Nat := [8, 0x10, 0x18, 0x20 + 0x10 * (t.gen % 2), 0x28 + 0x10 * (t.gen % 2)]

/-- A quadword of the header read, and after the last: STALE where the bound generation is gone, else the root at its fence (13 R300,
15 R332, R338). -/
def readHeader (s : State) (core key : Nat) (t : TraceSlot) (r : Ray) (got : List Nat) : State :=
  rayRead s core key r (t.header + BitVec.ofNat 64 (((headerQuads t)[got.length]?).getD 0)) 8 0 fun s r num =>
    match got, num 0 8 with
    | [nodes, leaves, fences, gen], root =>
      if gen != t.gen then finishRay s core r.slot t r.index r.time 3
      else
        let r := { r with nodes := BitVec.ofNat 64 nodes, leaves := BitVec.ofNat 64 leaves, fences := BitVec.ofNat 64 fences }
        s.modRay core key fun _ => r.toChild false (natBits root 31 0) (natBits root 47 32) 0 0
    | got, x => s.modRay core key fun _ => { r with at_ := .fetch (got ++ [x]) }

/-- A node read and its children ranked: the ray goes to the trail's rank and keeps the later ones (15 R338, R339). -/
def visitNode (s : State) (core key : Nat) (t : TraceSlot) (r : Ray) (index depth : Nat) : State :=
  rayRead s core key r (r.nodes + BitVec.ofNat 64 (128 * index)) 128 0 fun s r num =>
    let s := s.recCount t r.index 0x72
    match rayVals (s.recNum t r.index) with
    | none => nextPending s core key t r
    | some v =>
      let trail := s.recNum t r.index 0x80 18
      let rank := trailRank trail depth
      let ranked := (rankChildren v (s.recNum t r.index 0x25 1) depth num).zipIdx
      match ranked.drop rank with
      | [] => nextPending s core key t r
      | (c, _) :: later =>
        let r := later.reverse.foldl (fun r (c, k) => r.push ⟨c.leaf, c.target, c.fence, depth, k⟩) r
        let tri := s.recNum t r.index 0x93 1
        let s := s.putTrail t r.index trail depth tri
        s.modRay core key fun _ => r.toChild c.leaf c.target c.fence (depth + 1) tri

/-- NODE_VISIT: a ray reads a quadword of its header, or the node it stands at (15 R338). -/
def execNodeVisit (s : State) : Host.Outcome State Fault Refusal :=
  .next (match s.rayAt with
    | some (r, t) => match r.at_ with
      | .fetch got => readHeader s s.ev.unit s.ev.item t r got
      | .node index depth => visitNode s s.ev.unit s.ev.item t r index depth
      | _ => s
    | none => s)

/-- FENCE_PASS: a ray at a fence reads its entry, and enters the child once it is at least g (15 R342). A fence write is seen
within a bounded time, so a free choice asks the home although a copy would still serve (assumption 21). -/
def execFencePass (s : State) : Host.Outcome State Fault Refusal :=
  let core := s.ev.unit
  let key := s.ev.item
  .next (match s.rayAt with
    | some (r, t) => match r.at_ with
      | .fence leaf target id depth =>
        let (k, s) := s.choose 2
        rayRead s core key r (r.fences + BitVec.ofNat 64 (8 * id)) 8 (if k = 0 then 3 else 0) fun s r num =>
          if num 0 8 < t.gen then s.modRay core key fun x => { x with time := r.time }
          else s.modRay core key fun _ => r.toChild leaf target 0 depth (s.recNum t r.index 0x93 1)
      | _ => s
    | none => s)

/-- A candidate committed: tmax falls to its t (15 R341). -/
def State.commitHit (s : State) (t : TraceSlot) (i : Nat) (hit : List Byte) (back : Bool) : State :=
  let flags := s.recNum t i 0x71 1 / 4 * 4 + 1 + (if back then 2 else 0)
  ((s.recPut t i 0x40 hit).recPut t i 0x71 [BitVec.ofNat 8 flags]).recPut t i 0x1C (hit.take 4)

/-- A ray that waits at the warps with its candidate (15 R341, R346). -/
def offerHit (s : State) (core key : Nat) (t : TraceSlot) (r : Ray) (hit : List Byte) (back : Bool) (addr : Word)
    (tri : Nat) (data : List Byte) : State :=
  let i := r.index
  let flags := s.recNum t i 0x71 1 % 4 + (if back then 4 else 0)
  let s := (s.recPut t i 0x58 hit).recPut t i 0x71 [BitVec.ofNat 8 flags]
  let s := (s.recPut t i 0x76 [2#8]).recPut t i 0x70 [BitVec.ofNat 8 recAnyhit]
  let s := s.recPut t i 0x93 (bytesOf 1 (tri + 1))
  let s := s.modRay core key fun _ => { r with at_ := .held addr tri data }
  s.modAllot t.allot fun a => a.pushAll t.hitQueue r.time [s.handle t r.slot i 2]

/-- One triangle of a leaf whose bytes are read (15 R340, R341). -/
def testTriangle (s : State) (core key : Nat) (t : TraceSlot) (r : Ray) (addr : Word) (tri : Nat) (data : List Byte) :
    State :=
  let i := r.index
  let num (off k : Nat) : Nat := ofBytes ((data.drop off).take k)
  let rec_ := s.recNum t i
  let flags := rec_ 0x24 1
  let later (s : State) : State :=
    (s.recPut t i 0x93 (bytesOf 1 (tri + 1))).modRay core key fun _ => { r with at_ := .leaf addr (tri + 1) data }
  match (rayVals rec_).bind fun v => clusterTest v (flags / 4 % 2 == 1) num tri with
  | none => later s
  | some h =>
    let id := (num 0 4 + tri) % 2 ^ 32
    if !beats rec_ h.t id then later s
    else
      let hit := bytesOf 4 h.t ++ bytesOf 4 h.u ++ bytesOf 4 h.v ++ bytesOf 4 id ++ bytesOf 8 addr.toNat
      if num 6 1 % 2 == 1 || flags % 2 == 1 then
        let s := s.commitHit t i hit h.back
        if flags / 2 % 2 == 1 then finishRay s core r.slot t i r.time 0 else later s
      else offerHit s core key t r hit h.back addr tri data

/-- The next pair of triangles of a leaf, or the half of one that is left of it (15 R340, R344). -/
def testPair (s : State) (core key : Nat) (t : TraceSlot) (r : Ray) (addr : Word) (tri n : Nat) (data : List Byte) : State :=
  let s := testTriangle s core key t r addr tri data
  if tri % 2 != 0 || n ≤ tri + 1 then s
  else match AMap.get (s.core core).tvu.rays key with
    | some r => if r.at_ == .leaf addr (tri + 1) data then testTriangle s core key t r addr (tri + 1) data else s
    | none => s

/-- LEAF_TEST: a ray reads the next unit of its leaf, each once a visit and single-copy atomic by itself, or tests its next pair of
triangles (15 R334, R340, R343). -/
def execLeafTest (s : State) : Host.Outcome State Fault Refusal :=
  let core := s.ev.unit
  let key := s.ev.item
  .next (match s.rayAt with
    | some (r, t) => match r.at_ with
      | .leaf addr tri data =>
        let num (k : Nat) : Nat := ((data[k]?).getD 0).toNat
        let n := clusterTris (num 4) (num 5)
        let units := if n = 0 then 1 else ceilDiv (16 + 12 * num 5 + 3 * n) 128
        if data.length < 128 * units then
          rayRead s core key r (addr + BitVec.ofNat 64 data.length) 128 0 fun s r num =>
            s.modRay core key fun _ =>
              { r with at_ := .leaf addr tri (data ++ (List.range 128).map fun j => BitVec.ofNat 8 (num j 1)) }
        else if n ≤ tri then nextPending s core key t r
        else testPair s core key t r addr tri n data
      | _ => s
    | none => s)

/-- The rays of an allotment stop, their records at the resume list (15 R344): at a halt or a save. -/
def State.stopRays (s : State) (core allot : Nat) : State :=
  let u := (s.core core).tvu
  let here (slot : Nat) : Bool := ((AMap.get (s.core core).slots slot).map (·.allot)) == some allot
  let gone := u.rays.filter fun (_, r) => here r.slot && (match r.at_ with
    | .held _ _ _ => false
    | _ => true)
  gone.foldl (fun s (key, r) =>
    (s.leaveTvu core key r.time).modTvu core fun u => { u with resume := u.resume ++ [(r.slot, r.index)] }) s

/-! ### ASBIND (15 R351) -/

/-- Loads of quadwords by one lane, one after another: each at the warp's time as the one before left it (13 R303). -/
def quadLoads (i : Iss) : List Nat → State → List Nat → State × List Nat
  | [], s, xs => (s, xs)
  | pa :: rest, s, xs =>
    let p := ((s.warp? i.wid).map (·.pts)).getD i.w.pts
    let (s, ys) := loadOne { i with w := { i.w with pts := p } } 8 s ⟨pa, [(0, [])], none⟩
    quadLoads i rest s (xs ++ ys.map (·.2))

/-- Ordinary loads of quadwords by the warp's lowest active lane (15 R351, 12 R290). -/
def loadQuads (i : Iss) (s : State) (vas : List Word) (body : State → List Nat → Res) : Res :=
  if vas.any fun a => a.toNat % 8 != 0 then .trap .memAlign i.low
  else match s.translateAll (laneChain (coreOf i.wid)) i.w.ctx .read vas with
    | (s, .error (va, k)) => .hold s 0 .read va k
    | (s, .ok pas) =>
      if s.contributes i.wid i.c.lanes || pas.any fun pa => s.absentAt pa 8 then .wait s
      else
        let (s, xs) := quadLoads i pas s []
        body s xs

/-- Whether the pool and queues of a slot to be set meet R329. -/
def State.bindOk (s : State) (id : Nat) (a : Allot) (pool records rayQ hitQ : Nat) : Bool :=
  let slots := ((s.core a.core).slots.filter fun (_, t) => t.allot == id).map (·.2)
  let q (off : Nat) : Bool := off % 128 == 0 && a.queues.contains (off / 128)
  let cap (off : Nat) : Nat := 2 ^ (a.desc (off / 128)).k
  let shared := (slots.filter fun t => t.hitQueue == hitQ / 128).map (·.records)
  pool % 256 == 0 && 1 ≤ records && records ≤ 1024 && pool + 256 * records ≤ a.size
    && q rayQ && q hitQ && rayQ != hitQ && records ≤ cap rayQ && records + shared.sum ≤ cap hitQ
    && !(slots.any fun t => t.rayQueue == rayQ / 128 || t.hitQueue == rayQ / 128 || t.rayQueue == hitQ / 128)
    && !overlapsAny (s.claims id a ++ a.mappedRanges) pool (256 * records)

/-- ASBIND set. -/
def execAsbind (f : Fields) (s : State) : Host.Outcome State Fault Refusal :=
  irlek Enc.asbind f s fun i s => withAllot i s fun id a =>
    let slot := (i.uni 1).toNat
    let b := regNum f.op2
    let hdr := i.w.wreg b
    let pool := natBits (i.w.wreg (b + 2)).toNat 31 0
    let records := natBits (i.w.wreg (b + 2)).toNat 47 32
    let rayQ := natBits (i.w.wreg (b + 3)).toNat 31 0
    let hitQ := natBits (i.w.wreg (b + 3)).toNat 63 32
    let status (s : State) (n : Nat) : Res := .ok s (i.dest fun _ => BitVec.ofNat 64 n)
    if 7 < slot then status s 3
    else if (AMap.get (s.core a.core).slots slot).isSome then status s 2
    else if !a.present pool (256 * records) then .wait s
    else if !s.bindOk id a pool records rayQ hitQ then status s 3
    else loadQuads i s [hdr, hdr + 0x40] fun s xs =>
      let g := if i.w.wreg (b + 1) == ~~~0#64 then (xs[1]?).getD 0 else (i.w.wreg (b + 1)).toNat
      if natBits ((xs[0]?).getD 0) 15 8 != 1 || g = 0 then status s 4
      else loadQuads i s [hdr + BitVec.ofNat 64 (0x20 + 0x10 * (g % 2))] fun s xs =>
        if (xs[0]?).getD 0 != g then status s 4
        else
          let t : TraceSlot :=
            { allot := id, header := hdr, gen := g, pool := pool, records := records, rayQueue := rayQ / 128
              hitQueue := hitQ / 128, closed := false, stats := [0, 0, 0, g] }
          let s := (List.range records).foldl (fun s k => s.recNew t k 0x70 [BitVec.ofNat 8 recFree]) s
          status (s.modCore a.core fun c => { c with slots := AMap.set c.slots slot t }) 1

/-- The slot of a number, of the warp's own allotment. -/
def State.slotOf (s : State) (id : Nat) (a : Allot) (slot : Nat) : Option TraceSlot :=
  match AMap.get (s.core a.core).slots slot with
  | some t => if t.allot == id then some t else none
  | none => none

/-- ASBIND.close (15 R348, R351). -/
def execAsbindClose (f : Fields) (s : State) : Host.Outcome State Fault Refusal :=
  irlek Enc.asbindClose f s fun i s => withAllot i s fun id a =>
    let slot := (i.uni 1).toNat
    match s.slotOf id a slot with
    | some t =>
      if t.closed then .ok s (i.dest fun _ => 2)
      else
        let s := s.modCore a.core fun c => { c with slots := AMap.set c.slots slot { t with closed := true } }
        .ok (s.closeHits a.core t) (i.dest fun _ => 1)
    | none => .ok s (i.dest fun _ => 2)

/-- ASBIND.clr (15 R351). -/
def execAsbindClr (f : Fields) (s : State) : Host.Outcome State Fault Refusal :=
  irlek Enc.asbindClr f s fun i s => withAllot i s fun id a =>
    let slot := (i.uni 1).toNat
    match s.slotOf id a slot with
    | some t =>
      if !t.closed then .ok s (i.dest fun _ => 3)
      else if s.slotLive t then .ok s (i.dest fun _ => 4)
      else .ok (s.modCore a.core fun c => { c with slots := AMap.erase c.slots slot }) (i.dest fun _ => 1)
    | none => .ok s (i.dest fun _ => 2)

/-! ### TRACE, TRACEW and RAYSPAWN (15 R352, R353, R355) -/

/-- The lane accesses of a warp have taken their places in the order (15 R350); a contribution that waits for a slot is waited for
first. -/
def State.settleLanes (s : State) (wid : Nat) : State := s.landed wid fun _ => true

/-- The ray part of a record from a lane's operands (15 Tables 15.4, 15.7). -/
def rayPart (i : Iss) (quadOp controlOp payloadOp l : Nat) (opaque_ : Bool) (gen slot parent : Nat) : List Byte :=
  let q (k : Nat) : Word := i.next quadOp k l
  let ctl := (i.src controlOp l).toNat
  let flags := natBits ctl 34 32 ||| (if opaque_ then 1 else 0)
  let pay (k : Nat) : Word := match i.op payloadOp with
    | .v _ _ _ => i.next payloadOp k l
    | _ => 0
  (List.range 4).flatMap (fun k => bytesOf 8 (q k).toNat)
    ++ bytesOf 4 (natBits ctl 31 0) ++ bytesOf 1 flags ++ bytesOf 1 (natBits ctl 47 40) ++ bytesOf 1 gen ++ bytesOf 1 slot
    ++ bytesOf 2 parent ++ bytesOf 6 0 ++ bytesOf 8 (pay 0).toNat ++ bytesOf 8 (pay 1).toNat

/-- The lowest FREE record of a slot. -/
def State.freeRecordOf (s : State) (t : TraceSlot) : Option Nat :=
  (List.range t.records).find? fun i => s.recState t i == recFree

/-- A record taken for a ray and its handle pushed into the slot's ray queue. -/
def State.sendRay (s : State) (core slot : Nat) (t : TraceSlot) (k time : Nat) (part : List Byte) : State :=
  let s := s.recNew t k 0 (part ++ List.replicate 192 0)
  let s := s.recNew t k 0x70 [BitVec.ofNat 8 recQueued]
  let s := s.modTvu core fun u => { u with times := AMap.set u.times (rayKey slot k) time }
  s.modAllot t.allot fun a => a.pushAll t.rayQueue time [s.handle t slot k 0]

/-- The rays of an instruction's lanes sent in ascending order; each counts for the job. -/
def sendRays (i : Iss) (core slot job : Nat) (t : TraceSlot) (part : Nat → List Byte) : List Nat → State → State
  | [], s => s
  | l :: ls, s =>
    match s.freeRecordOf t with
    | none => s
    | some k =>
      let s := s.sendRay core slot t k i.w.pts (part l)
      let s := s.modTvu core fun u => { u with jobOf := AMap.set u.jobOf (rayKey slot k) (job, l) }
      sendRays i core slot job t part ls s

/-- TRACE or TRACEW: `slotOp` names the slot; the operands after it are the ray's. -/
def traceOp (e : Enc) (f : Fields) (s : State) (slotOp : Nat) (pair : Bool) : Host.Outcome State Fault Refusal :=
  irlek e f s fun i s => withAllot i s fun id a =>
    let slot := (i.uni slotOp).toNat
    match if 7 < slot then none else s.slotOf id a slot with
    | none => .trap .trSlot i.low
    | some t =>
      let k := i.act.count
      if t.closed then .trap .trSlot i.low
      else if t.records < k then .trap .trFit i.low
      else if s.contributes i.wid || ((List.range t.records).filter fun j => s.recState t j == recFree).length < k then .wait s
      else
        let s := s.settleLanes i.wid
        let (job, s) := s.fresh
        let dest := if pair then some (regNum f.op0) else none
        let s := s.modTvu a.core fun u => { u with jobs := AMap.set u.jobs job ⟨i.wid, counterOf f, k, dest, []⟩ }
        let part (l : Nat) : List Byte := rayPart i (slotOp + 1) (slotOp + 2) (slotOp + 3) l pair 0 slot 0xFFFF
        let s := sendRays i a.core slot job t part i.act.lanes s
        let ws := if pair then [Wr.vLater (regNum f.op0), Wr.vLater (regNum f.op0 + 1)] else []
        .ok (s.modWarp i.wid fun w => w.countUp (counterOf f)) ws

/-- TRACE (15 R352). -/
def execTrace (f : Fields) (s : State) : Host.Outcome State Fault Refusal := traceOp Enc.trace f s 0 false

/-- TRACEW (15 R353): OPAQUE is forced. -/
def execTracew (f : Fields) (s : State) : Host.Outcome State Fault Refusal := traceOp Enc.tracew f s 1 true

/-- The records that the active lanes' handles name, or the trap of R350. -/
def namedRecords (i : Iss) (s : State) (id core : Nat) (op : Nat) (ok : Nat → Bool) (once : Bool) :
    Except (Cause × Nat) (List (Nat × Nat × TraceSlot × Nat)) :=
  let look (l : Nat) : Option (Nat × TraceSlot × Nat) := s.validHandle core id (i.src op l)
  match i.act.lanes.find? fun l => (look l).isNone with
  | some l => .error (.trHandle, l)
  | none =>
    let named := i.act.lanes.filterMap fun l => (look l).map fun (slot, t, k) => (l, slot, t, k)
    let twice (x : Nat × Nat × TraceSlot × Nat) : Bool :=
      once && named.any fun y => y.1 != x.1 && y.2.1 == x.2.1 && y.2.2.2 == x.2.2.2
    match named.find? fun x => !ok (s.recState x.2.2.1 x.2.2.2) || twice x with
    | some x => .error (.trState, x.1)
    | none => .ok named

/-- A child of a lane's parent, or a refusal that the slot counts (15 R355). -/
def spawnOne (i : Iss) (core : Nat) (s : State) (l slot : Nat) (t : TraceSlot) (parent : Nat) : State × Bool :=
  let gen := s.recNum t parent 0x26 1
  if gen = 15 then (s.stat core slot 0 1 statLow, false)
  else match s.freeRecordOf t with
    | none => (s.stat core slot 0 1 statHigh, false)
    | some k => (s.sendRay core slot t k i.w.pts (rayPart i 2 3 4 l false (gen + 1) slot parent), true)

/-- The children of the lanes, in ascending order. -/
def spawnAll (i : Iss) (core : Nat) : List (Nat × Nat × TraceSlot × Nat) → State → Mask → State × Mask
  | [], s, m => (s, m)
  | (l, slot, t, k) :: rest, s, m =>
    let (s, ok) := spawnOne i core s l slot t k
    spawnAll i core rest s (if ok then m ||| Mask.of 64 (· == l) else m)

/-- RAYSPAWN (15 R355). -/
def execRayspawn (f : Fields) (s : State) : Host.Outcome State Fault Refusal :=
  irlek Enc.rayspawn f s fun i s => withAllot i s fun id a =>
    match namedRecords i s id a.core 1 (fun x => x == recAnyhit || x == recHeld) false with
    | .error (c, l) => .trap c l
    | .ok named =>
      if s.contributes i.wid then .wait s
      else
        let (s, m) := spawnAll i a.core named (s.settleLanes i.wid) 0
        .ok s (i.bits 0 m.has)

/-! ### HITACC, HITIGN and RAYTERM (15 R354) -/

/-- The ray of an ANYHIT record goes on after its candidate, at the larger of its time and the warp's; it needs a place in
the unit again. -/
def resumeHeld (i : Iss) (core slot k : Nat) (t : TraceSlot) (s : State) : State :=
  let full := 64 ≤ (s.core core).tvu.busy
  (s.recPut t k 0x70 [BitVec.ofNat 8 recTraversing]).modRay core (rayKey slot k) fun r =>
    { r with
      time := max r.time i.w.pts, placed := !full
      at_ := match r.at_ with
        | .held addr tri data => .leaf addr (tri + 1) data
        | x => x }

/-- HITACC: the candidate is committed, and the traversal ends or goes on. -/
def accept (i : Iss) (core : Nat) (end_ : Bool) (s : State) (slot : Nat) (t : TraceSlot) (k : Nat) : State :=
  let back := s.recNum t k 0x71 1 / 4 % 2 == 1
  let s := s.commitHit t k (bytesOf 24 (s.recNum t k 0x58 24)) back
  if end_ || s.recNum t k 0x24 1 / 2 % 2 == 1 then
    let time := ((AMap.get (s.core core).tvu.rays (rayKey slot k)).map (·.time)).getD 0
    finishRay s core slot t k (max time i.w.pts) 0
  else resumeHeld i core slot k t s

/-- An answer to each lane's record. -/
def answerOp (e : Enc) (f : Fields) (s : State) (ok : Nat → Bool) (settles : Bool)
    (g : Iss → Nat → State → Nat → TraceSlot → Nat → State) : Host.Outcome State Fault Refusal :=
  irlek e f s fun i s => withAllot i s fun id a =>
    match namedRecords i s id a.core 0 ok true with
    | .error (c, l) => .trap c l
    | .ok named =>
      if settles && s.contributes i.wid then .wait s
      else
        let s := if settles then s.settleLanes i.wid else s
        .ok (named.foldl (fun s (_, slot, t, k) => g i a.core s slot t k) s) []

/-- HITACC (15 R354). -/
def execHitacc (f : Fields) (s : State) : Host.Outcome State Fault Refusal :=
  answerOp Enc.hitacc f s (· == recAnyhit) true fun i core s slot t k => accept i core false s slot t k
/-- HITACC.end (15 R354). -/
def execHitaccEnd (f : Fields) (s : State) : Host.Outcome State Fault Refusal :=
  answerOp Enc.hitaccEnd f s (· == recAnyhit) true fun i core s slot t k => accept i core true s slot t k
/-- HITIGN (15 R354). -/
def execHitign (f : Fields) (s : State) : Host.Outcome State Fault Refusal :=
  answerOp Enc.hitign f s (· == recAnyhit) true fun i core s slot t k => resumeHeld i core slot k t s
/-- RAYTERM (15 R352, R354). -/
def execRayterm (f : Fields) (s : State) : Host.Outcome State Fault Refusal :=
  answerOp Enc.rayterm f s (fun x => x == recAnyhit || x == recHeld) false fun _ core s slot t k =>
    let key := rayKey slot k
    let s := if s.recState t k == recAnyhit then
        (s.modTvu core fun u => { u with rays := AMap.erase u.rays key }).jobRay core key none
      else s
    s.freeRecord core t k

/-! ### RLOAD (15 R356) -/

/-- What a quadword of a record may read as: what stands there, and of a record that the traversal unit holds whatever the
unit, or the instruction that sent the ray, wrote there (15 R356). -/
def State.recMay (s : State) (t : TraceSlot) (i unit : Nat) : List Nat :=
  let now := s.recNum t i (8 * unit) 8
  if s.recState t i == recTraversing then
    (((AMap.get s.allots t.allot).bind fun a => AMap.get a.written (t.off i + 8 * unit)).getD []) ++ [now]
  else [now]

/-- A quadword of each named record, each freely among what it may read as. -/
def loadRecords (unit : Nat) : List (Nat × Nat × TraceSlot × Nat) → State → AMap Nat → State × AMap Nat
  | [], s, xs => (s, xs)
  | (l, _, t, k) :: rest, s, xs =>
    let (x, s) := s.chooseFrom (s.recMay t k unit)
    loadRecords unit rest s (AMap.set xs l (x.getD 0))

/-- RLOAD: a unit of each lane's record. -/
def execRload (f : Fields) (s : State) : Host.Outcome State Fault Refusal :=
  irlek Enc.rload f s fun i s => withAllot i s fun id a =>
    match namedRecords i s id a.core 1 (fun _ => true) false with
    | .error (c, l) => .trap c l
    | .ok named =>
      let (s, xs) := loadRecords (immNum f.op2) named s []
      .ok s (i.dest fun l => BitVec.ofNat 64 (AMap.getD xs l 0))

/-- RLOAD.slot: a statistics unit (15 R331, R356). -/
def execRloadSlot (f : Fields) (s : State) : Host.Outcome State Fault Refusal :=
  irlek Enc.rloadSlot f s fun i s => withAllot i s fun id a =>
    let slot := (i.uni 1).toNat
    match if 7 < slot then none else s.slotOf id a slot with
    | none => .trap .trSlot i.low
    | some t => .ok s (i.dest fun _ => BitVec.ofNat 64 ((t.stats[immNum f.op2]?).getD 0))

end Sys2Proof.Machine
end

