-- ==== Sys2Proof/Machine/Builders.lean ====
section
/-! DEFINITION. Builder engines: planning a command, its writes, its completion, and the builder instructions (16 R357-R373). -/
namespace Sys2Proof.Machine

/-! ### Planning (16 R359-R366) -/

/-- A command's parameters (16 Table 16.2). -/
structure BParams where
  header : Nat
  stream : Nat
  g : Nat
  node0 : Nat
  nodeN : Nat
  unit0 : Nat
  unitN : Nat
  fence0 : Nat
  fenceN : Nat
  fd : Nat
  threshold : Nat
  split : Bool
  oldUnit0 : Nat
  oldUnitN : Nat
  reserved : Nat

/-- The parameters in seven values. -/
def bParams (ps : List Word) : BParams :=
  let p (k : Nat) : Nat := ((ps[k]?).getD 0).toNat
  let lo (k : Nat) : Nat := natBits (p k) 31 0
  let hi (k : Nat) : Nat := natBits (p k) 63 32
  { header := p 0, stream := p 1, g := p 2, node0 := lo 3, nodeN := hi 3, unit0 := lo 4, unitN := hi 4
    fence0 := natBits (p 5) 15 0, fenceN := natBits (p 5) 31 16, fd := natBits (p 5) 35 32
    threshold := natBits (p 5) 47 40, split := natBits (p 5) 48 48 == 1, oldUnit0 := lo 6, oldUnitN := hi 6
    reserved := natBits (p 5) 39 36 + natBits (p 5) 63 49 }

/-- The limits of the parameters (16 R359). -/
def BParams.ok (p : BParams) (streamed : Bool) : Bool :=
  p.header % 256 == 0 && (!streamed || p.stream % 64 == 0) && 1 ≤ p.fence0 && 1 ≤ p.fenceN
    && p.fence0 + p.fenceN ≤ 65536 && 1 ≤ p.fd && p.fd ≤ 6 && p.reserved == 0

/-- A header as a builder reads it (15 Table 15.1). -/
structure BHeader where
  bytes : List Byte
  nodes : Nat
  leaves : Nat
  fences : Nat
  latest : Nat

/-- The header read and checked: version and arenas, or status 6. -/
def readHdr (env : BEnv) (va : Nat) : BM BHeader := do
  let bs ← bRead env va 0x50
  let h : BHeader := ⟨bs, numIn bs 8 8, numIn bs 0x10 8, numIn bs 0x18 8, numIn bs 0x40 8⟩
  let canon (a : Nat) : Bool := canonical (BitVec.ofNat 64 a)
  if numIn bs 1 1 != 1 || h.nodes % 128 != 0 || h.leaves % 128 != 0 || h.fences % 8 != 0
      || !(canon h.nodes && canon h.leaves && canon h.fences) then bStatus 6 0
  else return h

/-- The root index and key count of the latest generation. -/
def BHeader.root (h : BHeader) : Nat := numIn h.bytes (0x28 + 0x10 * (h.latest % 2)) 4
def BHeader.keys (h : BHeader) : Nat := numIn h.bytes (0x48 + 4 * (h.latest % 2)) 4

/-- The spaces that builder commands of a context take in its engine save region (18 R396). -/
def State.buildAreas (s : State) (ctx : Nat) : List (Nat × Nat) :=
  let of (c : BCmd) : Option (Nat × Nat) := if c.ctx == ctx then c.area else none
  (s.dies.flatMap fun d => d.builders.flatMap fun b => b.queue.filterMap of)
  ++ s.saved.filterMap fun (_, x) => match x with
    | .build _ c => of c
    | _ => none

/-- A free space of a size in a context's engine save region: the lowest (18 R396). -/
def State.findArea (s : State) (ctx size : Nat) : Option Nat :=
  let used := s.buildAreas ctx
  let esz := ((AMap.get s.ctxs ctx).map (·.esz)).getD 0
  (0 :: used.map fun (a, n) => a + n).find? fun o => o + size ≤ esz && used.all fun (a, n) => o + size ≤ a || a + n ≤ o

/-- The space of a command with `n` stream entries; it waits until there is room (18 R396). -/
def bRoom (env : BEnv) (n : Nat) : BM Unit :=
  ExceptT.mk fun r =>
    let size := alignUp (256 + 16 * n) 4096
    match r.area, r.s.findArea env.ctx size with
    | some _, _ => (.ok (), r)
    | none, some o => (.ok (), { r with area := some (o, size) })
    | none, none => (.error .wait, r)

/-- The cluster of entry `i` of a stream (16 R357). -/
def readEntry (env : BEnv) (va i : Nat) : BM Clu := do
  let e ← bRead env (va + 0x40 + 16 * i) 16
  readCluster env (numIn e 0 8) (some (numIn e 8 4)) i 0

/-- A stream's capacity and clusters (16 R357): status 6 for a capacity outside its limits, 5 for no entry. -/
def readStream (env : BEnv) (va : Nat) : BM (Nat × List Clu) := do
  let bs ← bRead env va 16
  let cap := numIn bs 0 8
  let n := min cap (numIn bs 8 8)
  if cap < 1 || 2 ^ 24 < cap then bStatus 6 0
  else if n = 0 then bStatus 5 0
  else
    bRoom env n
    let cs ← (List.range n).mapM (readEntry env va)
    return (cap, cs)

/-- The units of a cluster map (16 R359). -/
def mapUnits (cap : Nat) : Nat := ceilDiv (4 * cap) 128

/-- L's cluster map: units by key, those without a cluster left out (16 R359). -/
def readMap (env : BEnv) (h : BHeader) (p : BParams) : BM (List (Nat × Nat)) := do
  let at_ := h.leaves + 128 * (p.oldUnit0 + p.oldUnitN - mapUnits h.keys)
  let bs ← bRead env at_ (4 * h.keys)
  return ((List.range h.keys).map fun k => (k, numIn bs (4 * k) 4)).filter fun x => x.2 != 0xFFFFFFFF

/-- A node of L with what it says of itself. -/
def oldInfo (idx : Nat) (bs : List Byte) : NodeInfo :=
  ⟨numIn bs 0x0F 1, 0, some ⟨idx, numIn bs 0x10 4, numIn bs 0x14 4, bs⟩, some (decodedArea bs)⟩

/-- The tree of L as it stands (15 R333, R335). `cluster` reads a leaf by its unit. -/
def loadTree (env : BEnv) (h : BHeader) (cluster : Nat → BM Clu) : Nat → Nat → Nat → BM BTree
  | 0, _, _ => return .node ⟨255, 0, none, none⟩ []
  | n + 1, idx, depth => do
    let bs ← bRead env (h.nodes + 128 * idx) 128
    let cb := numIn bs 0x10 4
    let lb := numIn bs 0x14 4
    let kids ← (List.range 8).mapM fun c => do
      let m := numIn bs (0x18 + c) 1
      if m / 64 = 1 && depth + 1 < 48 then do
        let t ← loadTree env h cluster n (cb + m % 64) (depth + 1)
        let fence := numIn bs (0x50 + 2 * c) 2
        return match t with
          | .node i ks => [(c, BTree.node { i with fence := fence } ks)]
          | t => [(c, t)]
      else if m / 64 = 2 && depth + 1 < 48 then do
        let x ← cluster (lb + m % 64)
        return [(c, BTree.leaf x)]
      else return []
    return .node (oldInfo idx bs) kids.flatten

/-- A subtree with its keys' new clusters; nodes left with no children stay, to be dropped (16 R364). -/
def refreshTree (new : AMap Clu) : Nat → BTree → Option BTree
  | _, .leaf c => (c.key.bind (AMap.get new)).map .leaf
  | 0, _ => none
  | n + 1, .node i ks => some (.node i (ks.filterMap fun (c, t) => (refreshTree new n t).map fun t => (c, t)))

/-- The qualities of a tree's nodes. -/
def BTree.qualities (t : BTree) : List Nat := (bfs treeFuel [t]).filterMap fun x => x.info?.map (·.q)

/-- A fenced subtree of L refitted, or rebuilt from its own entries; one of which no entry is left stays, empty, to be dropped
(16 R364). -/
def refitSub (new : AMap Clu) (threshold : Nat) (t : BTree) : BTree :=
  let old := t.clusters treeFuel
  let now (c : Clu) : Option Clu := c.key.bind (AMap.get new)
  let same (c : Clu) : Bool := ((now c).map fun x => (x.bytes.drop 4).take 2 == (c.bytes.drop 4).take 2).getD false
  let refitted := (refreshTree new treeFuel t).map (requality treeFuel)
  let low := (refitted.map fun t => t.qualities.any (· < threshold)).getD false
  if !old.all same || low then
    let cs := old.filterMap now
    if cs.isEmpty then .node ((t.info?).getD ⟨255, 0, none, none⟩) [] else emit treeFuel (mortonSort cs)
  else refitted.getD t

/-- The top part of L refitted over its fenced subtrees: those that a fence stands before in L (16 R364). A subtree within another
belongs to it. -/
def refitTop (new : AMap Clu) (threshold : Nat) : Nat → BTree → Option BTree
  | _, .leaf c => (c.key.bind (AMap.get new)).map .leaf
  | 0, t => some t
  | n + 1, .node i ks => some (.node i (ks.filterMap fun (c, t) =>
    if ((t.info?.map (·.fence)).getD 0) != 0 then some (c, refitSub new threshold t)
    else (refitTop new threshold n t).map fun t => (c, t)))

/-- A tree without the nodes that hold no cluster (16 R364). -/
def pruneTree : Nat → BTree → Option BTree
  | _, .leaf c => some (.leaf c)
  | 0, _ => none
  | n + 1, .node i ks =>
    let ks := ks.filterMap fun (c, t) => (pruneTree n t).map fun t => (c, t)
    if ks.isEmpty then none else some (.node i ks)

/-- A root with no children keeps its node (16 R364). -/
def orBare (t : BTree) (r : Option BTree) : BTree := r.getD (.node ((t.info?).getD ⟨255, 0, none, none⟩) [])

/-- The fence id of the root and of fenced subtree `j` in a pool of ids: the last is shared (16 R362). -/
def poolId (pool : List Nat) (j : Nat) : Nat := (pool[min j (pool.length - 1)]?).getD 0

/-- The writes of a slot (16 R362, steps 2 and 3): key count, slot, and the root's fence unless subtrees share it. -/
def slotWrites (p : BParams) (h : BHeader) (cap root fence : Nat) (rootFence : Bool) : List BWrite :=
  let k := p.g % 2
  [{ addr := BitVec.ofNat 64 (p.header + 0x48 + 4 * k), data := bytesOf 4 cap },
   { addr := BitVec.ofNat 64 (p.header + 0x20 + 16 * k), data := bytesOf 8 p.g ++ bytesOf 4 root ++ bytesOf 4 fence }]
  ++ (if rootFence then [fenceWrite h.fences p.g fence] else [])

/-- The last writes (16 R362, steps 5 and 6): the map, and the latest generation. -/
def lastWrites (p : BParams) (h : BHeader) (cap : Nat) : List BWrite :=
  mapWrites (h.leaves + 128 * (p.unit0 + p.unitN - mapUnits cap)) cap
  ++ [{ addr := BitVec.ofNat 64 (p.header + 0x40), data := bytesOf 8 p.g }]

/-- What planning a command comes to: its writes in order, of which the first `own` do not wait for the other side of a split one, the
count of its status, and the sorted entries it keeps (18 R396); or, for a command that is to be split, the items of each side and where
the two stand in the root (16 R366). -/
structure Plan where
  writes : List BWrite
  own : Nat := 0
  need : Nat
  entries : List Byte := []
  sides : Option (List Nat × List Nat × Nat × Nat) := none

/-- Sorted entries with the plan's place for each: its cluster's address and key, and the unit it goes to (18 R396). -/
def entryBytes (cs : List Clu) (ps : List PNode) : List Byte :=
  let at_ : AMap Nat := (ps.flatMap (·.clus)).foldl (fun m (u, c) => AMap.set m c.idx u) []
  cs.flatMap fun c => bytesOf 8 c.va ++ bytesOf 4 (c.key.getD 0) ++ bytesOf 4 (AMap.getD at_ c.idx 0)

/-- All the nodes of a tree laid out. -/
def Laid.all (l : Laid) : List PNode := l.top ++ l.subs.flatMap (·.2)

/-- A tree planned whole: numbered, its ranges checked, its writes in order, and the number of its nodes (16 R361-R363).
`count` is how many fenced subtrees took an id, dropped ones among them. -/
def planTree (p : BParams) (h : BHeader) (cap count : Nat) (compact : Bool) (t : BTree) (sorted : List Clu) : BM Plan :=
  let laid := layOut p.fd t p.node0 (p.node0 + 1) p.unit0
  let units := laid.unitEnd - p.unit0 + mapUnits cap
  let pool := (List.range p.fenceN).map (p.fence0 + ·)
  let ids := (List.range count).map fun j => poolId pool (j + 1)
  let shared := ids.contains p.fence0
  if p.nodeN < laid.nodes then bStatus 3 laid.nodes
  else if p.unitN < units then bStatus 4 units
  else
    return {
      writes := groupWrites h.nodes h.leaves compact laid.top
        ++ slotWrites p h cap p.node0 p.fence0 (!shared)
        ++ subWrites h.nodes h.leaves h.fences p.g compact ids laid.subs (fun _ => false)
        ++ lastWrites p h cap
      need := laid.nodes, entries := entryBytes sorted laid.all }

/-- A tree with fence ids for its root, taken as a fenced subtree, and for the subtrees below it. -/
def fenceTree (fd : Nat) (pool : List Nat) (t : BTree) : BTree × Nat :=
  match assignFences (fun j => poolId pool (j + 1)) treeFuel fd 0 (t.unfenced treeFuel) with
  | (.node i ks, n) => (.node { i with fence := poolId pool 0 } ks, n)
  | (t, n) => (t, n)

/-- The sides of a split BUILD, none where the split bit is ignored (16 R366). -/
def splitSides (p : BParams) (cs : List Clu) : Option (List Clu × List Clu) :=
  if !p.split || cs.length < 2 then none
  else match unionBox (cs.map fun c => (midpoint c.box, midpoint c.box)) with
    | none => none
    | some cb =>
      let e := cb.2.sub cb.1
      let pick (v : Vec3) : Int := if e.2.1 ≤ e.1 && e.2.2 ≤ e.1 then v.1 else if e.2.2 ≤ e.2.1 then v.2.1 else v.2.2
      let below (c : Clu) : Bool := decide (2 * pick (midpoint c.box) < pick cb.1 + pick cb.2)
      let a := cs.filter below
      let b := cs.filter fun c => !below c
      if a.isEmpty || b.isEmpty then none else some (a, b)

/-- A cluster whose key is not below the stream's CAP stands in no map (16 R370). -/
def keepKey (cap : Nat) (c : Clu) : Clu := { c with key := c.key.filter (· < cap) }

/-- A tree's clusters so. -/
def keepKeys (cap : Nat) : Nat → BTree → BTree
  | _, .leaf c => .leaf (keepKey cap c)
  | 0, t => t
  | n + 1, .node i ks => .node i (ks.map fun (c, t) => (c, keepKeys cap n t))

/-- BUILD (16 R360). One to be split goes on as its sides. -/
def planBuild (env : BEnv) (p : BParams) : BM Plan := do
  if !p.ok true then bStatus 6 0
  let h ← readHdr env p.header
  if p.g != h.latest + 1 then bStatus 2 0
  let (cap, cs) ← readStream env p.stream
  match splitSides p cs with
  | some (a, b) => return { writes := [], need := 0, sides := some (a.map (·.idx), b.map (·.idx), 0, 1) }
  | none =>
    let sorted := mortonSort cs
    let pool := (List.range p.fenceN).map (p.fence0 + ·)
    let (t, n) := fenceTree p.fd pool (emit treeFuel (sorted.map fun (k, c) => (k, keepKey cap c)))
    planTree p h cap n false t (sorted.map (·.2))

/-- REFIT (16 R364): the units of L refitted or rebuilt, the fence ids given afresh, emptied nodes dropped, each still with the id
it took, and the qualities found. -/
def planRefit (env : BEnv) (p : BParams) : BM Plan := do
  if !p.ok true then bStatus 6 0
  let h ← readHdr env p.header
  if p.g != h.latest + 1 || h.latest = 0 then bStatus 2 0
  let (cap, cs) ← readStream env p.stream
  let map ← readMap env h p
  let inv : AMap Nat := map.foldl (fun m (k, u) => AMap.set m u k) []
  let new : AMap Clu := cs.foldl (fun m c => AMap.set m (c.key.getD 0) c) []
  if new.any fun (k, _) => !(map.any fun x => x.1 == k) then bStatus 5 0
  let cluster (u : Nat) : BM Clu := readCluster env (h.leaves + 128 * u) (AMap.get inv u) 0 u
  let t ← loadTree env h cluster 48 h.root 0
  let pool := (List.range p.fenceN).map (p.fence0 + ·)
  let (t', n) := fenceTree p.fd pool ((refitTop new p.threshold treeFuel t).getD t)
  let t := requality treeFuel (orBare t' (pruneTree treeFuel t'))
  planTree p h cap n false (keepKeys cap treeFuel t) ((mortonSort cs).map (·.2))

/-- REFIT.inplace (16 R364): every node rewritten whole; the count is that of the fenced subtrees below the threshold. -/
def planInplace (env : BEnv) (p : BParams) : BM Plan := do
  if !p.ok false then bStatus 6 0
  let h ← readHdr env p.header
  if p.g != h.latest || h.latest = 0 || numIn h.bytes 2 1 % 2 != 1 then bStatus 2 0
  bRoom env 0
  let cluster (u : Nat) : BM Clu := readCluster env (h.leaves + 128 * u) none 0 u
  let t ← loadTree env h cluster 48 h.root 0
  let t := requality treeFuel (orBare t (pruneTree treeFuel t))
  let low := (t.fenced treeFuel).filter fun x => x.qualities.any (· < p.threshold)
  let write (x : BTree) : List BWrite :=
    match x.info?.bind (·.old) with
    | none => []
    | some o =>
      let refs := x.kids.filterMap fun (c, k) => match k with
        | .leaf u => some (⟨c, true, u.unit, 0, u.box⟩ : Ref)
        | .node i _ => (k.box treeFuel).map fun b => ⟨c, false, (i.old.map (·.idx)).getD 0, i.fence, b⟩
      let addr := h.nodes + 128 * o.idx
      [{ addr := BitVec.ofNat 64 addr
         data := nodeBytes addr ((x.info?.map (·.q)).getD 255) (some o.childBase) (some o.leafBase) refs }]
  return { writes := (bfs treeFuel [t]).flatMap write, need := low.length }

/-- The nodes that the sides of a split COMPACT copy, with their positions: the root's two children, where it has two and both are
internal, as a split BUILD leaves them; of any other root the bit is ignored, since the topology stays (DESIGN CHOICE, assumption
109). -/
def compactSides (p : BParams) (t : BTree) : Option (Nat × Nat × Nat × Nat) :=
  let idx (x : BTree) : Nat := ((x.info?.bind (·.old)).map (·.idx)).getD 0
  match p.split, t.kids with
  | true, [(c0, a), (c1, b)] => if a.isNode && b.isNode then some (idx a, idx b, c0, c1) else none
  | _, _ => none

/-- The keys of L's units. -/
def unitKeys (map : List (Nat × Nat)) : AMap Nat := map.foldl (fun m (k, u) => AMap.set m u k) []

/-- COMPACT (16 R365). One to be split goes on as its sides. -/
def planCompact (env : BEnv) (p : BParams) : BM Plan := do
  if !p.ok false then bStatus 6 0
  let h ← readHdr env p.header
  if p.g != h.latest + 1 || h.latest = 0 then bStatus 2 0
  bRoom env 0
  let inv := unitKeys (← readMap env h p)
  let cluster (u : Nat) : BM Clu := copyCluster env (h.leaves + 128 * u) (AMap.get inv u) u
  let t ← loadTree env h cluster 48 h.root 0
  match compactSides p t with
  | some (a, b, c0, c1) => return { writes := [], need := 0, sides := some ([a], [b], c0, c1) }
  | none =>
    let pool := (List.range p.fenceN).map (p.fence0 + ·)
    let (t, n) := fenceTree p.fd pool t
    planTree p h h.keys n true t []

/-- A command planned by its kind. -/
def planCmd (env : BEnv) (c : BCmd) : BM Plan :=
  let p := bParams c.params
  match c.kind with
  | .build => planBuild env p
  | .refit => planRefit env p
  | .inplace => planInplace env p
  | .compact => planCompact env p

/-! ### The sides of a split command (16 R366) -/

/-- The tree of a side: built from its own entries, or read from L, with the header, the key count, what the root keeps, and its sorted
entries. -/
def sideTree (env : BEnv) (kind : BuildKind) (p : BParams) (x : BSide) : BM (BHeader × Nat × NodeInfo × BTree × List Clu) := do
  let h ← readHdr env p.header
  if kind == .compact then do
    let inv := unitKeys (← readMap env h p)
    let cluster (u : Nat) : BM Clu := copyCluster env (h.leaves + 128 * u) (AMap.get inv u) u
    let root ← bRead env (h.nodes + 128 * h.root) 128
    let t ← loadTree env h cluster 48 (x.items.head?.getD 0) 1
    return (h, h.keys, oldInfo h.root root, t, [])
  else do
    let cap := numIn (← bRead env p.stream 8) 0 8
    let cs ← x.items.mapM (readEntry env p.stream)
    let sorted := mortonSort cs
    return (h, cap, ⟨255, 0, none, none⟩, emit treeFuel (sorted.map fun (k, c) => (k, keepKey cap c)), sorted.map (·.2))

/-- The first half of a range, rounded down, is die 0's. -/
def halfOf (n : Nat) : Nat := n / 2

/-- The fence ids of a side: the root has the first of all. -/
def BParams.sidePool (p : BParams) (first : Bool) : List Nat :=
  let ids := (List.range p.fenceN).map (p.fence0 + ·)
  let l := if first then (ids.take (halfOf p.fenceN)).drop 1 else ids.drop (halfOf p.fenceN)
  if l.isEmpty then [p.fence0] else l

/-- The number of a side's root: the two stand next to the root, since a node names its internal children by consecutive indexes. -/
def BParams.sideRoot (p : BParams) (first : Bool) : Nat := if first then p.node0 + 1 else p.node0 + 2

/-- A side laid out in its half of each range. -/
def BParams.sideLaid (p : BParams) (first : Bool) (t : BTree) : Laid :=
  if first then layOut p.fd t (p.sideRoot true) (p.node0 + 3) p.unit0
  else layOut p.fd t (p.sideRoot false) (p.node0 + halfOf p.nodeN) (p.unit0 + halfOf p.unitN)

/-- A side's writes: its nodes and clusters, each fenced subtree within it with its fence, and then its own fence, where nothing shares
that with it (16 R362). -/
def sideWrites (p : BParams) (h : BHeader) (compact first : Bool) (l : Laid) (count : Nat) : List BWrite :=
  let pool := p.sidePool first
  let ids := (List.range count).map fun j => poolId pool (j + 1)
  let own := poolId pool 0
  groupWrites h.nodes h.leaves compact l.top
    ++ subWrites h.nodes h.leaves h.fences p.g compact ids l.subs (· == p.fence0)
    ++ (if ids.contains own || own == p.fence0 then [] else [fenceWrite h.fences p.g own])

/-- A side planned: its plan, and what it has found. -/
def planSide (env : BEnv) (kind : BuildKind) (p : BParams) (x : BSide) : BM (BHeader × Nat × NodeInfo × Plan × BLaid) := do
  let (h, cap, root, tree, sorted) ← sideTree env kind p x
  let (t, n) := fenceTree p.fd (p.sidePool x.first) tree
  let l := p.sideLaid x.first t
  let units := l.unitEnd - (if x.first then p.unit0 else p.unit0 + halfOf p.unitN) + (if x.first then 0 else mapUnits cap)
  let box := (t.box treeFuel).getD ((0, 0, 0), (0, 0, 0))
  let writes := sideWrites p h (kind == .compact) x.first l n
  return (h, cap, root, { writes := writes, own := writes.length, need := l.nodes, entries := entryBytes sorted l.all },
    ⟨l.nodes, units, box.1, box.2, none⟩)

/-- The leading side's plan, once the other has laid out its half: its own writes, and after both sides' the root, the slot and the
last writes; or a status, the other side's where that has one, or 3 or 4 where a half of a range is short (16 R363, R366). -/
def planLead (env : BEnv) (kind : BuildKind) (p : BParams) (x : BSide) (other : Option BLaid) : BM Plan := do
  let (h, cap, root, plan, mine) ← planSide env kind p x
  match other with
  | none => throw .wait
  | some o =>
    match o.failed with
    | some (code, need) => bStatus code need
    | none =>
      let half := halfOf p.nodeN
      let uhalf := halfOf p.unitN
      let nodes := 1 + mine.nodes + o.nodes
      if half < mine.nodes + 2 || p.nodeN - half < o.nodes - 1 then bStatus 3 nodes
      else if uhalf < mine.units || p.unitN - uhalf < o.units then bStatus 4 (mine.units + o.units)
      else
        let ref (slot : Nat) (first : Bool) (l : BLaid) : Ref :=
          ⟨slot, false, p.sideRoot first, poolId (p.sidePool first) 0, (l.lo, l.hi)⟩
        let top : PNode :=
          { idx := p.node0, info := root, childBase := some (p.node0 + 1), leafBase := none, clus := []
            refs := [ref x.places.1 true mine, ref x.places.2 false o] }
        return { plan with
          writes := plan.writes ++ groupWrites h.nodes h.leaves (kind == .compact) [top]
            ++ slotWrites p h cap p.node0 p.fence0 true ++ lastWrites p h cap
          need := nodes }

/-! ### Running a command (16 R362, R367, R368) -/

/-- The command that a builder works on, if it may take a step: one that is split and has its other side on the other die before all
others, of those the one that came first, and else the command at the head of the queue. -/
def State.buildAt (s : State) (b : Nat) : Option BCmd :=
  let ready (c : BCmd) : Bool := s.ctxRuns c.ctx && !c.faulted && !c.stopped
  let first (best : Option BCmd) (c : BCmd) : Option BCmd := match best with
    | some d => if c.half.getD c.id < d.half.getD d.id then some c else best
    | none => some c
  (((s.builder b).queue.filter fun c => c.side.isSome && ready c).foldl first none).orElse fun _ =>
    ((s.builder b).queue.head?).filter ready

/-- A command in a builder's queue changed. -/
def State.modBuild (s : State) (b id : Nat) (f : BCmd → BCmd) : State :=
  s.modBuilder b fun x => { x with queue := x.queue.map fun c => if c.id == id then f c else c }

/-- A command held under a recorded fault of a unit, or waiting for a place in the fault queue. -/
def State.faultBuild (s : State) (b : Nat) (c : BCmd) (unit : Nat) (acc : Acc) (va : Word) (k : FaultKind) : State :=
  match s.recordFault (b / 4) c.ctx unit acc k va (.builder c.id) with
  | some s => s.modBuild b c.id fun c => { c with faulted := true }
  | none => s

/-- How far a command has come: whether it has started, and how many writes are left (16 R368). -/
def BCmd.progress (c : BCmd) : List Byte := bytesOf 8 (if c.started then 1 else 0) ++ bytesOf 8 c.plan.length

/-- What a command keeps in the first 256 bytes of its space, with where it stands there: its word, its parameters, and how far it has
come; the half of a split one keeps how far that has come. Where each stands is the model's choice (assumption 110; 18 R396). -/
def BCmd.statePieces (c : BCmd) : List (Nat × List Byte) :=
  let pad (bs : List Byte) (n : Nat) : List Byte := bs ++ List.replicate (n - bs.length) 0
  if c.half.isSome then [(0xC0, pad c.progress 64)]
  else
    let bs := bytesOf 20 c.word.toNat ++ List.replicate 12 0 ++ (c.params.take 7).flatMap (fun x => bytesOf 8 x.toNat) ++ c.progress
    (0, pad bs 0xC0) :: if c.side.isSome then [] else [(0xC0, List.replicate 64 0)]

/-- A command that goes on from a progress point: its writes from there, or its planning again. -/
def BCmd.from_ (c : BCmd) (started : Bool) (left : Nat) : BCmd :=
  if !c.started then c
  else if !started then { c with started := false, reads := [], plan := [], own := 0 }
  else
    let done := c.plan.length - left
    { c with plan := c.plan.drop done, own := c.own - done }

/-- A command with its word, its parameters and its progress as the first bytes of its space give them (18 R396). -/
def BCmd.fromState (c : BCmd) (rd : Nat → Nat → Nat) : BCmd :=
  if c.half.isSome then c.from_ (rd 0xC0 8 != 0) (rd 0xC8 8)
  else
    { c with
      word := BitVec.ofNat 160 (rd 0 20)
      params := c.params.zipIdx.map fun (x, i) => if i < 7 then BitVec.ofNat 64 (rd (32 + 8 * i) 8) else x }.from_
      (rd 88 8 != 0) (rd 96 8)

/-- Where a command's space begins (18 R391, R396). -/
def State.areaBase (s : State) (c : BCmd) : Word :=
  (((AMap.get s.ctxs c.ctx).map (·.esb)).getD 0) + BitVec.ofNat 64 ((c.area.map (·.1)).getD 0)

/-- A command of a context is a half of another. -/
def BCmd.halfOf (c : BCmd) (id : Nat) : Bool := c.half == some id

/-- The half of a command that is still to run, on a builder or saved. -/
def State.halfOf (s : State) (id : Nat) : Option BCmd :=
  let of (c : BCmd) : Option BCmd := if c.halfOf id then some c else none
  (s.dies.findSome? fun d => d.builders.findSome? fun b => b.queue.findSome? of).orElse fun _ =>
    s.saved.findSome? fun (_, x) => match x with
      | .build _ c => of c
      | _ => none

/-- The builder of a die with the fewest commands, the lowest number on a tie. -/
def State.fewest (s : State) (die : Nat) : Nat :=
  let n (b : Nat) : Nat := (s.builder b).queue.length
  (List.range 4).foldl (fun best k => if n (die * 4 + k) < n best then die * 4 + k else best) (die * 4)

/-- That builder, if it has room: none where all four queues hold 16. -/
def State.pickBuilder (s : State) (die : Nat) : Option Nat :=
  if (s.builder (s.fewest die)).queue.length < 16 then some (s.fewest die) else none

/-- A command divided: its sides go on on one builder of each die, that of die 0 leading (16 R366). -/
def State.splitBuild (s : State) (b : Nat) (c : BCmd) (x : List Nat × List Nat × Nat × Nat) : State :=
  let (id, s) := s.fresh
  let side (first : Bool) (items : List Nat) (before : Nat) : Option BSide := some ⟨first, items, x.2.2, before, none⟩
  let lead := { c with reads := [], side := side true x.1 0 }
  let half := { c with
    id := id, half := some c.id, reads := [], statusReg := none, statusAddr := none, side := side false x.2.1 x.1.length }
  (s.modBuild b c.id fun _ => if b < 4 then lead else half).modBuilder (s.fewest (1 - b / 4)) fun y =>
    { y with queue := y.queue ++ [if b < 4 then half else lead] }

/-- A command with what it has found: a half with what the other side is to know of it; any other begun, with its status. A Nibex
command's status is a write after the others (17 R383). -/
def BCmd.begun (c : BCmd) (plan : Plan) (laid : Option BLaid) (status : Nat) : BCmd :=
  match c.side, laid with
  | some x, some l => { c with reads := [], side := some { x with laid := some l }, plan := plan.writes }
  | _, _ =>
    let tail : List BWrite := match c.statusAddr with
      | some a => [{ addr := a, data := bytesOf 8 status }]
      | none => []
    { c with started := true, reads := [], plan := plan.writes ++ tail, own := plan.own, status := BitVec.ofNat 64 status }

/-- A command begins to write, and with it its half, unless it ends with a status that leaves everything unwritten (16 R366). -/
def State.beginBuild (s : State) (b : Nat) (c : BCmd) : State :=
  let s := s.modBuild b c.id fun _ => c
  if c.half.isSome then s
  else s.modBuilds (·.halfOf c.id) fun h =>
    { h with started := true, plan := if c.status.toNat % 2 ^ 32 = 1 then h.plan else [] }

/-- What a planning step leaves of a command: what it has read, at what time, and its space. -/
def BCmd.planned (c : BCmd) (r : BRun) : BCmd := { c with reads := c.reads ++ r.got.reverse, time := r.time, area := r.area }

/-- A command planned as it stands: whole, or a side of a split one. -/
def planStep (env : BEnv) (other : Option BLaid) (c : BCmd) : BM (Plan × Option BLaid) :=
  let p := bParams c.params
  match c.side with
  | none => do return (← planCmd env c, none)
  | some x =>
    if x.first then do return (← planLead env c.kind p x other, none)
    else do
      let (_, _, _, plan, laid) ← planSide env c.kind p x
      return (plan, some laid)

/-- A command begun, once its state and its sorted entries stand in its space (18 R396). -/
def State.enterBuild (s : State) (b : Nat) (c : BCmd) (entries : List Byte) : State :=
  let at_ := 256 + 16 * ((c.side.map (·.before)).getD 0)
  let pieces := if c.area.isNone then [] else c.statePieces ++ if entries.isEmpty then [] else [(at_, entries)]
  match s.sendOut [tlbBuilder b] c.ctx 3 c.id (s.areaBase c) pieces with
  | (s, some (va, k)) => s.faultBuild b c 7 .readWrite va k
  | (s, none) => s.beginBuild b c

/-- What the half of a command has found. -/
def State.laidOf (s : State) (id : Nat) : Option BLaid := (s.halfOf id).bind fun h => h.side.bind (·.laid)

/-- BUILDER_COMMAND_START: the parameters checked, the clusters read and the tree planned (16 R360). The reads may be made a few in
a step; what has been read stays when a fault holds the command (16 R368). Its state and sorted entries go to the engine save
region (18 R396). A split command plans each of its sides on that side's builder (16 R366). -/
def execBuilderCommandStart (s : State) : Host.Outcome State Fault Refusal :=
  let b := s.ev.unit
  .next (match s.buildAt b with
    | none => s
    | some c =>
      if c.started || ((c.side.bind (·.laid)).isSome) then s
      else
        let r := ((planStep ⟨c.ctx, b, c.old⟩ (s.laidOf c.id) c).run).run
          ⟨s, c.time, c.reads, [], if s.burst = 0 then 2 ^ 64 else s.burst, c.area⟩
        let c := c.planned r.2
        let s := r.2.s.modBuild b c.id fun _ => c
        match r.1 with
        | .ok (plan, laid) => match plan.sides with
          | some x => s.splitBuild b c x
          | none => s.enterBuild b (c.begun plan laid (1 + plan.need * 2 ^ 32)) plan.entries
        | .error (.status code need) =>
          s.enterBuild b (c.begun { writes := [], need := 0 } (c.half.map fun _ => ⟨0, 0, (0, 0, 0), (0, 0, 0), some (code, need)⟩)
            (code + need * 2 ^ 32)) []
        | .error (.fault va k) => s.faultBuild b c 5 .read va k
        | .error .wait => s)

/-- A write of a command may be made: all but those of a split one that come after both sides' (16 R366). -/
def State.mayWrite (s : State) (c : BCmd) : Bool := c.half.isSome || 0 < c.own || (s.halfOf c.id).isNone

/-- The bytes of a write: of the cluster map, what has been written so far says (16 R370). -/
def BCmd.bytesOf (c : BCmd) (x : BWrite) : List Byte :=
  match x.map with
  | some (cap, j) => mapPiece c.map cap j
  | none => x.data

/-- A cluster of a command is written: its key names it from now on (16 R370). -/
def State.named (s : State) (c : BCmd) (x : BWrite) : State :=
  match x.names with
  | some (k, u) => s.modBuildId (c.half.getD c.id) fun l => { l with map := AMap.set l.map k u }
  | none => s

/-- BUILDER_WRITE_PHASE: the next write, after every earlier one has taken its place (16 R362). -/
def execBuilderWritePhase (s : State) : Host.Outcome State Fault Refusal :=
  let b := s.ev.unit
  .next (match s.buildAt b with
    | none => s
    | some c => match c.started && s.mayWrite c, c.plan with
      | true, x :: rest =>
        match s.engineTranslate [tlbBuilder b] c.ctx x.addr .write with
        | (s, .error k) => s.faultBuild b c 5 .write x.addr k
        | (s, .ok pa) =>
          let bs := c.bytesOf x
          if s.absentAt pa bs.length then s
          else
            let (s, t) := s.engineWrite c.time pa bs 0
            let times := s.addTime c.times c.die pa t
            (s.modBuild b c.id fun c =>
              { c with plan := rest, own := c.own - 1, time := max c.time t, times := times }).named c x
      | _, _ => s)

/-- The owner of a builder command is told of its completion (10 R224, 13 R309); ESYNC does not cover it (16 R367). -/
def State.builtDone (s : State) (c : BCmd) : State :=
  match c.owner with
  | .warp wid k => s.countDown wid k (if c.ord.release then c.times.at_ c.ord.scope else 0)
  | .nibex q serial => s.nibexDone q serial c.times.domain

/-- BUILDER_COMPLETE: the status, and then the counter (16 R362, R371). A half leaves its times to the command that leads it. -/
def execBuilderComplete (s : State) : Host.Outcome State Fault Refusal :=
  let b := s.ev.unit
  .next (match s.buildAt b with
    | none => s
    | some c => match c.started, c.plan with
      | true, [] =>
        let s := s.modBuilder b fun x => { x with queue := x.queue.filter (·.id != c.id) }
        match c.half with
        | some id => s.modBuildId id fun l => { l with time := max l.time c.time, times := l.times.max_ c.times }
        | none =>
          let s := match c.statusReg with
            | some n => s.laterW c.owner n c.status
            | none => s
          (s.builtDone c).launchWork c.launch c.times.domain
      | _, _ => s)

/-! ### BUILD, REFIT and COMPACT (16 R367, R371) -/

/-- A builder command sent. -/
def sendBuild (e : Enc) (f : Fields) (s : State) (kind : BuildKind) : Host.Outcome State Fault Refusal :=
  irlek e f s fun i s =>
    let die := dieOf i.wid
    match (if (ordOf f).acquire && s.contributesIn i.wid (ordOf f).scope i.c.lanes then none else s.pickBuilder die) with
    | none => .wait s
    | some b =>
      let k := counterOf f
      let base := regNum f.op1
      let ord := ordOf f
      let (id, s) := s.fresh
      let c : BCmd :=
        { id := id, half := none, kind := kind, word := encodeFields e.opcode f, params := (List.range 7).map fun j => i.w.wreg (base + j), owner := .warp i.wid k
          statusReg := some (regNum f.op0), statusAddr := none, ctx := i.w.ctx, launch := some i.w.launch, die := die
          ord := ord, time := i.w.pts, old := s.unsettled i.w i.wid ord.acquire ord.scope, reads := [], area := none, started := false, plan := []
          status := 0, times := ScopeTimes.zero, faulted := false, stopped := false }
      let s := s.modBuilder b fun x => { x with queue := x.queue ++ [c] }
      .ok (s.modWarp i.wid fun w => w.countUp k) [.wLater (regNum f.op0)]

/-- BUILD (16 R371). -/
def execBuild (f : Fields) (s : State) : Host.Outcome State Fault Refusal := sendBuild Enc.build f s .build
/-- REFIT (16 R364). -/
def execRefit (f : Fields) (s : State) : Host.Outcome State Fault Refusal := sendBuild Enc.refit f s .refit
/-- REFIT.inplace (16 R364). -/
def execRefitInplace (f : Fields) (s : State) : Host.Outcome State Fault Refusal := sendBuild Enc.refitInplace f s .inplace
/-- COMPACT (16 R365). -/
def execCompact (f : Fields) (s : State) : Host.Outcome State Fault Refusal := sendBuild Enc.compact f s .compact

/-! ### CLEMIT (16 R370) -/

/-- The physical addresses of a stream's quadwords and of the entries that lanes will reserve. -/
def clemitAt (i : Iss) (s : State) (hdr : Word) : State × Except (Word × FaultKind) (List Nat × List Nat) :=
  let chain := laneChain (coreOf i.wid)
  match s.translateAll chain i.w.ctx .readWrite [hdr, hdr + 8, hdr + 0x10] with
  | (s, .error e) => (s, .error e)
  | (s, .ok pas) =>
    let cap := (s.quad ((pas[0]?).getD 0)).toNat
    let count := (s.quad ((pas[1]?).getD 0)).toNat
    let entries := ((List.range i.act.count).filter fun r => count + r < cap).map fun r =>
      hdr + BitVec.ofNat 64 (0x40 + 16 * (count + r))
    match s.translateAll chain i.w.ctx .readWrite entries with
    | (s, .error e) => (s, .error e)
    | (s, .ok es) => (s, .ok (pas, es))

/-- A lane's entry, or its count among the lost (16 R370). -/
def clemitOne (i : Iss) (lostPa : Nat) : AccessStep := fun s x =>
  x.lanes.foldl (fun r y =>
    let core := coreOf i.wid
    let p := ((r.1.warp? i.wid).map (·.pts)).getD i.w.pts
    if x.pa = lostPa then
      let (s, _, t) := (r.1.noteFlight i.wid lostPa .later).laneAtomic core p lostPa 0 8 fun n => (n + 1) % 2 ^ 64
      (s.raisePts i.wid t, r.2)
    else
      let s := (r.1.noteFlight i.wid x.pa .later).noteFlight i.wid (x.pa + 8) .later
      let (s, t) := s.laneStore core p x.pa 0 (y.2.flatMap (bytesOf 8))
      (s.raisePts i.wid t, r.2)) (s, [])

/-- The lanes' reservations: one update of COUNT a lane, in ascending order and one after another, after each has read CAP; the
lanes that got an entry, and their number (12 R279, 16 R370). -/
def clemitReserve (i : Iss) (s : State) (capPa countPa : Nat) : State × List Nat :=
  let core := coreOf i.wid
  let (s, bs, t) := s.laneLoad core i.w.pts capPa 8 0
  let cap := ofBytes bs
  let s := s.raisePts i.wid t
  i.act.lanes.foldl (fun r l =>
    let p := ((r.1.warp? i.wid).map (·.pts)).getD i.w.pts
    let (s, old, t) := (r.1.noteFlight i.wid countPa .later).laneAtomic core p countPa 0 8 fun x => (x + 1) % 2 ^ 64
    (s.raisePts i.wid t, if old < cap then r.2 ++ [l] else r.2)) (s, [])

/-- CLEMIT (16 R370): the reservations, and then the lanes' entries and counts. -/
def execClemit (f : Fields) (s : State) : Host.Outcome State Fault Refusal :=
  irlek Enc.clemit f s fun i s =>
    let hdr := i.uni 1
    let ws (got : Nat → Nat) : List Wr := i.bits 0 fun l => got l == 1
    match i.w.sending with
    | some x => i.makes s 8 x.stamp x.left x.got (clemitOne i x.stamp) id ws
    | none => match i.act.lanes.find? fun l => (i.src 2 l).toNat % 128 != 0 || hdr.toNat % 64 != 0 with
      | some l => .trap .memAlign l
      | none => match clemitAt i s hdr with
        | (s, .error (va, k)) => .hold s 0 .readWrite va k
        | (s, .ok (pas, es)) =>
          if s.contributes i.wid i.c.lanes || (pas ++ es).any fun pa => s.absentAt pa 8 then .wait s
          else
            let at_ (k : Nat) : Nat := (pas[k]?).getD 0
            let (s, kept) := clemitReserve i s (at_ 0) (at_ 1)
            let lost := i.act.lanes.filter fun l => !kept.contains l
            let entry (l : Nat) : List Nat := [(i.src 2 l).toNat, (i.src 3 l).toNat % 2 ^ 32]
            let stores := ((kept.zip es).map fun (l, e) => (⟨e, [(l, entry l)], none⟩ : Access))
            let losses := if lost.isEmpty then [] else [(⟨at_ 2, lost.map fun l => (l, []), none⟩ : Access)]
            let got := kept.foldl (fun m l => AMap.set m l 1) []
            i.makes s 8 (at_ 2) (stores ++ losses) got (clemitOne i (at_ 2)) id ws

/-! ### SFWAIT and GENADV (16 R372, R373) -/

/-- SFWAIT: a fence entry read once; the plain form waits until it is at least g. -/
def fenceWait (e : Enc) (f : Fields) (s : State) (retry : Bool) : Host.Outcome State Fault Refusal :=
  irlek e f s fun i s =>
    let id := (i.uni 2).toNat
    if id = 0 then .ok s (i.bits 0 fun _ => true)
    else loadQuads i s [i.uni 1 + 0x18] fun s xs =>
      loadQuads i s [BitVec.ofNat 64 ((xs[0]?).getD 0 + 8 * id)] fun s ys =>
        let ok := (i.uni 3).toNat ≤ (ys[0]?).getD 0
        if ok || retry then .ok s (i.bits 0 fun _ => ok) else .wait s

/-- SFWAIT (16 R372). -/
def execSfwait (f : Fields) (s : State) : Host.Outcome State Fault Refusal := fenceWait Enc.sfwait f s false
/-- SFWAIT.try (16 R372). -/
def execSfwaitTry (f : Fields) (s : State) : Host.Outcome State Fault Refusal := fenceWait Enc.sfwaitTry f s true

/-- GENADV (16 R373). -/
def execGenadv (f : Fields) (s : State) : Host.Outcome State Fault Refusal :=
  irlek Enc.genadv f s fun i s => withAllot i s fun id a =>
    let slot := (i.uni 1).toNat
    let status (s : State) (n : Nat) : Res := .ok s (i.dest fun _ => BitVec.ofNat 64 n)
    match if 7 < slot then none else s.slotOf id a slot with
    | none => status s 2
    | some t => loadQuads i s [t.header + 0x40] fun s xs =>
      let g := if i.uni 2 == ~~~0#64 then (xs[0]?).getD 0 else (i.uni 2).toNat
      loadQuads i s [t.header + BitVec.ofNat 64 (0x20 + 0x10 * (g % 2))] fun s ys =>
        if s.slotLive t then status s 3
        else if g = 0 || (ys[0]?).getD 0 != g then status s 4
        else
          let t := { t with gen := g, stats := t.stats.set 3 g }
          status (s.modCore a.core fun c => { c with slots := AMap.set c.slots slot t }) 1

end Sys2Proof.Machine
end

