-- ==== Sys2Proof/Machine/Issue.lean ====
section
/-! DEFINITION. Issue: PC groups, the head bundle, the pick of a warp, and one issue of a warp (04 R76-R82). The meaning of an instruction is handed in as `run`. -/
namespace Sys2Proof.Machine

/-- What an instruction does to the machine. -/
abbrev Run := Instr → State → Host.Outcome State Fault Refusal

/-- A PC group inside a body: its block and PC, and its lanes (04 R77). -/
structure Group where
  hdr : Word
  pc : Word
  lanes : Mask
  deriving DecidableEq, Repr

/-- The PC groups of a warp that are inside bodies, lowest PC first. Lanes at one PC that came there through different
headers, where blocks overlap, stay separate groups: their bundles' ends, demands and reconvergence points differ
(DESIGN CHOICE, assumption 100). -/
def Warp.groupsOf (w : Warp) (may : Lane → Bool) : List Group :=
  let keys := (w.lanes.filter fun x => may x && x.stage == .inBody).map fun x => (x.pc, x.hdr)
  let sorted := sortBy (fun a b : Word × Word => a.1.toNat ≤ b.1.toNat) keys.eraseDups
  sorted.map fun (pc, h) => ⟨h, pc, w.where fun x => may x && x.stage == .inBody && x.pc == pc && x.hdr == h⟩

/-- Those that take part in issue. -/
def Warp.groups (w : Warp) : List Group := w.groupsOf w.issuable

/-- A warp may issue: its context runs or the halt walk has not come to it, its allotment on the core is cleared, its
gang's saved tiles are back, and nothing stops the warp itself: it has not given registers or a reservation up at the sluice,
and neither a trap nor an eviction has stopped it (04 R85, R93, 05 R113, 08 R178, 18 R407, R411). -/
def State.mayIssue (s : State) (wid : Nat) (w : Warp) : Bool :=
  s.haltStepOf w.ctx < (if w.gang.isSome then 4 else 2)
  && ((s.allotOf wid w).map fun (_, a) => a.cleared && !a.saved).getD false
  && ((w.gang.bind (AMap.get s.gangs)).map fun g => !g.restore).getD true
  && !w.stop && !w.draining && w.spilled.isEmpty && w.refillRes.isEmpty && w.asked == .none && w.live != 0
  && (s.moveOf 4 wid).isNone

/-- One group tried: its parcel decoded and its instruction run, or the trap or fault of its decode (03 R60). The outcome's
`waited` says whether it stayed where it is. -/
def State.tryGroup (run : Run) (s : State) (wid : Nat) (w : Warp) (g : Group) : Host.Outcome State Fault Refusal :=
  let s := { s with waited := false }
  match s.fetchHeader wid w g.hdr with
  | (s, .error (va, k)) => .next (s.holdBundle ⟨wid, g.lanes, g.hdr, 0, g.pc, g.pc⟩ w.ctx 1 .execute va k)
  | (s, .ok hw) =>
    match s.decodeAt wid w g.hdr hw g.pc with
    | (s, .fault va k) => .next (s.holdBundle ⟨wid, g.lanes, g.hdr, hw, g.pc, g.pc⟩ w.ctx 1 .execute va k)
    | (s, .trap t) => .next (s.takeTrap wid t g.lanes g.lanes 0 g.pc)
    | (s, .instr i next) => run i { s with cur := some ⟨wid, g.lanes, g.hdr, hw, g.pc, next⟩ }

/-- The groups of a warp tried in turn: those that are ready, and the state with what the others noted while they wait. A
group that a translation fault would hold is ready: it meets its fault when it issues (14 R325). -/
def readyGroups (run : Run) (wid : Nat) : List Group → State → List Group → Host.Outcome (State × List Group) Fault Refusal
  | [], s, ready => .next (s, ready)
  | g :: gs, s, ready =>
    match s.warp? wid with
    | none => .next (s, ready)
    | some w =>
      if w.faultPcs.contains g.pc then readyGroups run wid gs s ready
      else match s.tryGroup run wid w g with
        | .next s' =>
          let held := ((s'.warp? wid).map fun v => v.faultPcs.contains g.pc).getD false
          if s'.waited && !held then readyGroups run wid gs s' ready else readyGroups run wid gs s (ready ++ [g])
        | .fault e => .fault e
        | .refused e => .refused e

/-- The greatest bypass count of a group. -/
def Warp.bypassOf (w : Warp) (g : Group) : Nat :=
  (g.lanes.lanes.map fun l => ((w.lanes[l]?).map (·.bypass)).getD 0).foldl max 0

/-- The head bundle among the ready groups, which stand lowest PC first (04 R77). -/
def Warp.head (w : Warp) (ready : List Group) : Option Group :=
  let top := (ready.map w.bypassOf).foldl max 0
  if top ≥ 32 then ready.find? fun g => w.bypassOf g == top else ready.head?

/-- The bypass counts after a pick (04 R77). -/
def Warp.countBypass (w : Warp) (head : Group) (ready : List Group) : Warp :=
  let inReady (l : Nat) : Bool := ready.any fun g => g.lanes.has l
  { w with lanes := w.lanes.zipIdx.map fun (x, l) =>
      if !x.live || x.held then x
      else if head.lanes.has l then { x with bypass := 0 }
      else if inReady l then { x with bypass := min 63 (x.bypass + 1) } else x }

/-- Passes of a bundle: one a 16-lane group it has a lane in (04 R79). -/
def passes (m : Mask) : Nat :=
  ((List.range 4).filter fun e => m.toNat >>> (16 * e) % 2 ^ 16 != 0).length

/-- Cycles a pass takes (04 R79, 07 R155). -/
def passCycles (op : Nat) : Nat :=
  if 0x1C0 ≤ op && op ≤ 0x1CA then 4
  else if op = 0x10C || op = 0x10D then 8
  else if op = 0x120 || op = 0x121 || op = 0x122 || op = 0x124 then 2 else 1

/-- A quarter has picked: the warps that this pick was to pass by are free of it (04 R95), and the core's accesses have come to
this cycle and quarter (08 R183). -/
def State.picked (s : State) (wid : Nat) : State :=
  let free (x : Nat) (w : Warp) : Warp := if x / 16 == wid / 16 then { w with yieldNext := false } else w
  let s := { s with warps := s.warps.map fun (x, w) => (x, free x w) }
  s.modCore (coreOf wid) fun c => { c with turn := some ((s.die (dieOf wid)).cycles, quarterOf wid) }

/-- What the issue itself leaves: the age, the datapath's busy bound, and the yield bit as YIELD 0 (04 R79-R81). -/
def State.issued (s : State) (wid : Nat) (g : Group) (i : Option Instr) : State :=
  let now := (s.die (dieOf wid)).cycles
  let ef := i.bind Instr.enc
  let cyc := passes g.lanes * passCycles ((ef.map fun (e, _) => e.opcode).getD 0)
  let s := s.modCore (coreOf wid) fun c => { c with busy := c.busy.set (quarterOf wid) (now + cyc) }
  let yields := (ef.map fun (_, f) => f.yield).getD false
  s.modWarp wid fun w => { w with issuedAt := now, yieldNext := w.yieldNext || yields }

/-- The instruction a group would issue, if its parcel decodes. -/
def State.groupInstr (s : State) (wid : Nat) (w : Warp) (g : Group) : Option Instr :=
  match s.fetchHeader wid w g.hdr with
  | (s, .ok hw) => match (s.decodeAt wid w g.hdr hw g.pc).2 with
    | .instr i _ => some i
    | _ => none
  | _ => none

/-- A bundle goes on with its accesses (12 R275). -/
def State.resend (run : Run) (s : State) (w : Warp) (x : Sending) : Host.Outcome State Fault Refusal :=
  match decodeIrlek w.width w.nw x.word with
  | .error _ => .next s
  | .ok i => match run i { s with cur := some x.cur } with
    | .next s => .next { s with cur := none, waited := false }
    | .fault e => .fault e
    | .refused e => .refused e

/-- One issue of a warp: a bundle some of whose accesses are still to be made goes on; else its head bundle runs; with no ready
group nothing issues, and what waiting groups noted stands. -/
def issueWarp (run : Run) (wid : Nat) (s : State) : Host.Outcome State Fault Refusal :=
  match s.warp? wid with
  | none => .next s
  | some w =>
    match w.sending with
    | some x => s.resend run w x
    | none =>
      if !s.mayIssue wid w then .next s
      else match readyGroups run wid w.groups s [] with
        | .fault e => .fault e
        | .refused e => .refused e
        | .next (s, ready) =>
          match s.warp? wid with
          | none => .next s
          | some w =>
            match w.head ready with
            | none => .next { s with cur := none, waited := false }
            | some g =>
              let i := s.groupInstr wid w g
              let w := { (w.countBypass g ready) with yieldNext := false }
              match ((s.picked wid).setWarp wid w).tryGroup run wid w g with
              | .next s => .next { (s.issued wid g i) with cur := none, waited := false }
              | .fault e => .fault e
              | .refused e => .refused e

/-- Whether a warp offers a head bundle (04 R77); none while a bundle of it is still at its accesses. -/
def offers (run : Run) (s : State) (wid : Nat) : Bool :=
  match s.warp? wid with
  | none => false
  | some w =>
    s.mayIssue wid w && w.sending.isNone && match readyGroups run wid w.groups s [] with
      | .next (_, ready) => !ready.isEmpty
      | _ => true

/-- The issue class of a warp's launch (04 R80). -/
def State.classOf (s : State) (w : Warp) : Nat := ((s.launchOf w).map s.launchClass).getD 7

/-- A warp is within its yield (04 R95). -/
def Warp.yields (w : Warp) (now : Nat) : Bool := w.yieldNext || w.yieldUntil.any fun t => now < t

/-- A quarter may pick in this cycle: its datapath is free, and no quarter of a higher number, nor itself, has issued in it,
so that the core's accesses of one cycle come by quarter (04 R79, 08 R183). -/
def State.mayPick (s : State) (core quarter : Nat) : Bool :=
  let now := (s.die (dieOfCore core)).cycles
  let c := s.core core
  (c.busy[quarter]?).getD 0 ≤ now && c.turn.all fun (t, q) => t != now || q < quarter

/-- The warp a quarter picks: first those aged 4,096 cycles or more, the oldest first, then the lowest issue class, the
greatest age, the lowest slot; one within its yield stands back while another offers, and is never picked for its age
alone. Where every warp that offers is within its yield, the order among them is the same without the first step
(DESIGN CHOICE, assumption 101) (04 R80, R95). -/
def quarterPick (run : Run) (s : State) (core quarter : Nat) : Option Nat :=
  let now := (s.die (dieOfCore core)).cycles
  if !s.mayPick core quarter then none
  else
    let offering := (s.warps.filter fun (wid, _) => coreOf wid == core && quarterOf wid == quarter && offers run s wid)
    let awake := offering.filter fun (_, w) => !w.yields now
    let pool := if awake.isEmpty then offering else awake
    let age (w : Warp) : Nat := now - w.issuedAt
    let better (a b : Nat × Warp) : Bool :=
      let oldA := age a.2 ≥ 4096 && !a.2.yields now
      let oldB := age b.2 ≥ 4096 && !b.2.yields now
      if oldA != oldB then oldA
      else if oldA && age a.2 != age b.2 then age b.2 < age a.2
      else if s.classOf a.2 != s.classOf b.2 then s.classOf a.2 < s.classOf b.2
      else if age a.2 != age b.2 then age b.2 < age a.2 else a.1 < b.1
    (pool.foldl (fun best x => match best with
      | none => some x
      | some b => if better x b then some x else some b) none).map (·.1)

/-- A blocked queue operation still stands at its queue: its bundle is at its PC, be it that the warp runs a handler or that a lane is
held, and its instruction still operates there and takes no trap (09 R202, R203). -/
def State.stillBlocked (s : State) (b : Blocked) : Bool :=
  match s.warp? b.wid with
  | none => false
  | some w => (w.groupsOf Lane.live).any fun g =>
    g.pc == b.pc && match (s.groupInstr b.wid w g).bind Instr.enc with
      | none => false
      | some (e, f) =>
        let act := activeLanes w f g.lanes
        let q := if b.push then (ringOps e f).2 else (ringOps e f).1
        let there := match q.map fun n => s.bound b.wid w n b.push with
          | some (.ok (id, _, x)) => id == b.allot && x.line == b.line
          | _ => false
        there && act != 0 && (s.ringBinding b.wid w e f).isNone && match s.ringReady b.wid w g.pc e f act.count with
          | .trap _ => false
          | _ => true

/-- The blocked operations of a core that still stand at their queues. -/
def State.pruneBlocked (s : State) (core : Nat) : State :=
  if (s.core core).blocked.isEmpty then s
  else s.modCore core fun c => { c with blocked := c.blocked.filter s.stillBlocked }

/-- The queue operations of a warp that find their queues unable to serve them take their places there, whichever of its
groups it would issue (09 R203). -/
def State.noteBlocked (run : Run) (s : State) (wid : Nat) : State :=
  match s.warp? wid with
  | none => s
  | some w =>
    if !s.mayIssue wid w || w.sending.isSome || !s.mayPick (coreOf wid) (quarterOf wid) then s
    else match readyGroups run wid w.groups s [] with
      | .next (s', _) =>
        let there := (s'.core (coreOf wid)).blocked
        if there == (s.core (coreOf wid)).blocked then s else s.modCore (coreOf wid) fun c => { c with blocked := there }
      | _ => s

/-- The blocked operations at their queues now, on every core that has warps. -/
def State.queuesFound (run : Run) (s : State) : State :=
  let s := ((s.warps.map fun (wid, _) => coreOf wid).eraseDups).foldl State.pruneBlocked s
  (s.warps.map (·.1)).foldl (State.noteBlocked run) s

end Sys2Proof.Machine
end

