-- ==== Sys2Proof/Machine/Control.lean ====
section
/-! DEFINITION. Control transfers, breakpoints, traps, handler-level instructions and clocks (03 R41-R44, 04 R84-R96, 18 R401-R406). -/
namespace Sys2Proof.Machine

/-- Where the lanes that do not transfer go. -/
def Iss.rest (i : Iss) : Mask := i.c.lanes &&& ~~~i.act

/-- The target H + 8 × t of an immediate operand (04 R89). -/
def Iss.target (i : Iss) (k : Nat) : Word :=
  match i.op k with
  | .imm t => i.c.hdr + BitVec.ofInt 64 (8 * immSigned t)
  | _ => 0

/-- What the checks of a transfer's targets find, in ascending lane order: the first lane that fails (03 R41). -/
inductive Targets where
  | good | bad (lane : Nat) | fault (va : Word) (k : FaultKind)

/-- Check the target of each lane, each distinct address once. -/
def checkTargets (wid : Nat) (w : Warp) : List (Nat × Word) → List Word → State → State × Targets
  | [], _, s => (s, .good)
  | (l, a) :: ts, seen, s =>
    if seen.contains a then checkTargets wid w ts seen s
    else match s.checkTarget wid w .transfer a with
      | (s, .good) => checkTargets wid w ts (a :: seen) s
      | (s, .bad) => (s, .bad l)
      | (s, .fault va k) => (s, .fault va k)

/-- Active lanes go to the headers given, once every target is good; the others go to N(H) (03 R41, 04 R89). `ws` are the
instruction's writes, such as a link. -/
def transfer (i : Iss) (s : State) (goal : Nat → Word) (ws : List Wr) : Res :=
  let moves := i.act.lanes.map fun l => (l, goal l)
  match checkTargets i.wid i.w moves [] s with
  | (s, .fault va k) => .hold s 1 .execute va k
  | (_, .bad l) => .stay .badTarget l fun w => w.goNext i.c i.rest
  | (s, .good) =>
    .move s ws fun w =>
      (moves.foldl (fun w (l, a) => w.goHeader (Mask.of 64 (· == l)) a .transfer) w).goNext i.c i.rest

/-- NOP (04 R95). -/
def execNop (f : Fields) (s : State) : Host.Outcome State Fault Refusal := irlek Enc.nop f s fun _ s => .ok s []

/-- BRA (04 R90). -/
def execBra (f : Fields) (s : State) : Host.Outcome State Fault Refusal :=
  irlek Enc.bra f s fun i s => transfer i s (fun _ => i.target 0) []

/-- BRC: by a predicate, lane by lane (04 R90). -/
def execBrc (f : Fields) (s : State) : Host.Outcome State Fault Refusal :=
  irlek Enc.brc f s fun i s =>
    let cond (l : Nat) : Bool := match f.op0 with
      | .p n => (i.w.preg n.toNat).has l
      | _ => false
    transfer i s (fun l => if cond l then i.target 1 else i.target 2) []

/-- BRW: all active lanes together, to the target or to N(H) (04 R90). -/
def branchWarp (e : Enc) (f : Fields) (s : State) (cond : Iss → Bool) : Host.Outcome State Fault Refusal :=
  irlek e f s fun i s =>
    if cond i then transfer i s (fun _ => i.target 1) [] else .move s [] fun w => w.goNext i.c i.c.lanes

/-- The active lanes whose predicate operand 0 is true. -/
def Iss.condition (i : Iss) : Mask :=
  match i.op 0 with
  | .p n => i.act &&& i.w.preg n.toNat
  | _ => 0

/-- BRW.any (04 R90). -/
def execBrwAny (f : Fields) (s : State) : Host.Outcome State Fault Refusal :=
  branchWarp Enc.brwAny f s fun i => i.condition != 0
/-- BRW.all (04 R90). -/
def execBrwAll (f : Fields) (s : State) : Host.Outcome State Fault Refusal :=
  branchWarp Enc.brwAll f s fun i => i.condition == i.act
/-- BRW.none (04 R90). -/
def execBrwNone (f : Fields) (s : State) : Host.Outcome State Fault Refusal :=
  branchWarp Enc.brwNone f s fun i => i.condition == 0
/-- BRW.wz (04 R90). -/
def execBrwWz (f : Fields) (s : State) : Host.Outcome State Fault Refusal :=
  branchWarp Enc.brwWz f s fun i => i.uni 0 == 0
/-- BRW.wnz (04 R90). -/
def execBrwWnz (f : Fields) (s : State) : Host.Outcome State Fault Refusal :=
  branchWarp Enc.brwWnz f s fun i => i.uni 0 != 0

/-- JMPI (04 R90). -/
def execJmpi (f : Fields) (s : State) : Host.Outcome State Fault Refusal :=
  irlek Enc.jmpi f s fun i s => transfer i s (i.src 0) []
/-- RET: as JMPI (04 R90). -/
def execRet (f : Fields) (s : State) : Host.Outcome State Fault Refusal :=
  irlek Enc.ret f s fun i s => transfer i s (i.src 0) []

/-- The link of a call: N(H) in every active lane (04 R91). -/
def Iss.link (i : Iss) : List Wr := i.dest fun _ => nextHeader i.c.hdr (headerOf i.c.hword)

/-- CALL (04 R91). -/
def execCall (f : Fields) (s : State) : Host.Outcome State Fault Refusal :=
  irlek Enc.call f s fun i s => transfer i s (fun _ => i.target 1) i.link
/-- CALLI: the address is read before the link is written (04 R91). -/
def execCalli (f : Fields) (s : State) : Host.Outcome State Fault Refusal :=
  irlek Enc.calli f s fun i s => transfer i s (i.src 1) i.link

/-- JOIN: active lanes go to the block's reconvergence header and are held there (04 R84, R92). -/
def execJoin (f : Fields) (s : State) : Host.Outcome State Fault Refusal :=
  irlek Enc.join f s fun i s =>
    match reconvTarget i.c.hdr (headerOf i.c.hword) with
    | none => .stay .badTarget i.low fun w => w.goNext i.c i.rest
    | some rc =>
      match s.checkTarget i.wid i.w .transfer rc with
      | (s, .fault va k) => .hold s 1 .execute va k
      | (_, .bad) => .stay .badTarget i.low fun w => w.goNext i.c i.rest
      | (s, .good) =>
        .move s [] fun w =>
          ((w.goHeader i.act rc .transfer).modLanes i.act fun x => { x with held := true }).goNext i.c i.rest

/-- Lanes exit; with no live lane left the warp drains: its slices return at once (04 R93). -/
def Warp.exitLanes (w : Warp) (m : Mask) : Warp :=
  let w := (w.modLanes m fun x => { x with live := false, held := false, hlane := false, tret := false }).trimRes
  if w.live = 0 then { w with draining := true, v := [], res := [], spilled := [], refillRes := [], handler := false }
  else w.settleHandler

/-- A warp drains: its gang's rendezvous count it as arrived from now on (11 R241, R242). -/
def State.drainGang (s : State) (wid : Nat) (w : Warp) : State :=
  match w.gang with
  | some g => (s.modWarp wid fun w => { w with draining := true }).settleGang g wid
  | none => s

/-- EXIT (04 R93). -/
def execExit (f : Fields) (s : State) : Host.Outcome State Fault Refusal :=
  irlek Enc.exit f s fun i s =>
    .move (if i.w.live &&& ~~~i.act = 0 then s.drainGang i.wid i.w else s) [] fun w => (w.goNext i.c i.rest).exitLanes i.act

/-- YIELD n: the warp stands back for the n cycles after the bundle's last pass, or at its quarter's next pick where n is 0;
a YIELD that still runs is not cut short by a later one (04 R95). -/
def execYield (f : Fields) (s : State) : Host.Outcome State Fault Refusal :=
  irlek Enc.yield f s fun i s =>
    let n := (i.uni 0).toNat
    let t := (s.die (dieOf i.wid)).cycles + passes i.c.lanes + n
    let until_ (w : Warp) : Option Nat := some (max t (w.yieldUntil.getD 0))
    .ok (s.modWarp i.wid fun w => if n = 0 then { w with yieldNext := true } else { w with yieldUntil := until_ w }) []

/-- Where a bundle resumes after its instruction: the next parcel, or N(H) from the end of the body. -/
def Cur.after (c : Cur) : Word :=
  let hd := headerOf c.hword
  if c.next == bodyEnd c.hdr hd then nextHeader c.hdr hd else c.next

/-- BRK: the lanes that executed it go past it and the warp takes BREAK with the tag (04 R85, R96). -/
def execBrk (f : Fields) (s : State) : Host.Outcome State Fault Refusal :=
  irlek Enc.brk f s fun i _ => .raise .break_ (i.uni 0).toNat i.c.after fun w => w.advance i.c i.act

/-- TRAP: the bundle goes to N(H) and the warp takes TRAP with the tag (18 R398, R403). -/
def execTrap (f : Fields) (s : State) : Host.Outcome State Fault Refusal :=
  irlek Enc.trap f s fun i _ =>
    .raise .trap (i.uni 0).toNat (nextHeader i.c.hdr (headerOf i.c.hword)) fun w => w.goNext i.c i.c.lanes

/-! ### Handler level (18 R401-R405) -/

/-- Where TEPC leads: into the body of a block, to a header, to a translation fault, or nowhere (18 R404). -/
inductive Resumption where
  | body (h : Word) | header | fault (va : Word) (k : FaultKind) | bad

/-- TEPC found: in the block the lanes left, as a header, or in the block that holds it. A translation fault on its own parcel
is met first; one on the header or the code of its block only where no block is found to hold it (03 R41, 18 R404). -/
def State.resumption (s : State) (wid : Nat) (w : Warp) (guess pc : Word) : State × Resumption :=
  if !canonical pc || pc.toNat % 2 != 0 then (s, .bad)
  else match s.fetchBytes (coreOf wid) w.ctx w.launch pc 2 with
    | (s, .error (va, k)) => (s, .fault va k)
    | (s, .ok _) =>
      match s.inBlock wid w guess pc with
      | .yes => (s, .body guess)
      | first =>
        match s.checkTarget wid w .transfer pc with
        | (s, .good) => (s, .header)
        | (s, .fault va k) => (s, .fault va k)
        | (s, .bad) =>
          match s.blockOf wid w pc, first with
          | .ok h, _ => (s, .body h)
          | .error _, .fault va k => (s, .fault va k)
          | .error (some (va, k)), _ => (s, .fault va k)
          | .error none, _ => (s, .bad)

/-- HRET (18 R404). -/
def execHret (f : Fields) (s : State) : Host.Outcome State Fault Refusal :=
  irlek Enc.hret f s (level := true) fun i s =>
    let guess := ((i.w.lanes[i.low]?).map (·.homeHdr)).getD 0
    match s.resumption i.wid i.w guess i.w.tepc with
    | (s, .fault va k) => .hold s 1 .execute va k
    | (_, .bad) => .stay .badTarget i.low fun w => w.goNext i.c i.rest
    | (s, .body h) => .move s [] fun w => (w.goNext i.c i.rest).trapReturn i.act (some h)
    | (s, .header) => .move s [] fun w => (w.goNext i.c i.rest).trapReturn i.act none

/-- A system register (18 Table 18.7). -/
def Warp.sysReg (w : Warp) (n : Nat) : Word :=
  match n with
  | 1 => w.hvec
  | 2 => w.tcause
  | 3 => w.tinfo
  | 4 => w.tepc
  | 5 => w.tmask
  | _ => if w.handler then 1 else 0

/-- A writable system register written: HVEC or TEPC (18 Table 18.7). -/
def Warp.setSysReg (w : Warp) (n : Nat) (x : Word) : Warp :=
  if n = 1 then { w with hvec := x } else if n = 4 then { w with tepc := x } else w

/-- SRD: the registers TCAUSE, TINFO, TEPC and TMASK need handler level (18 R401, R405). -/
def execSrd (f : Fields) (s : State) : Host.Outcome State Fault Refusal :=
  let n := immNum f.op1
  irlek Enc.srd f s (level := 2 ≤ n && n ≤ 5) fun i s => .ok s (i.dest fun _ => i.w.sysReg n)

/-- SWR: TEPC needs handler level (18 R401, R405). -/
def execSwr (f : Fields) (s : State) : Host.Outcome State Fault Refusal :=
  let n := immNum f.op0
  irlek Enc.swr f s (level := n == 4) fun i s => .ok (s.modWarp i.wid fun w => w.setSysReg n (i.uni 1)) []

/-- SWR.t: H + 8 × t (18 R405). -/
def execSwrT (f : Fields) (s : State) : Host.Outcome State Fault Refusal :=
  let n := immNum f.op0
  irlek Enc.swrT f s (level := n == 4) fun i s => .ok (s.modWarp i.wid fun w => w.setSysReg n (i.target 1)) []

/-- CLOCK.cyc: the die's common-clock cycles since reset (18 R406). -/
def execClockCyc (f : Fields) (s : State) : Host.Outcome State Fault Refusal :=
  irlek Enc.clockCyc f s fun i s => .ok s (i.dest fun _ => BitVec.ofNat 64 (s.die (dieOf i.wid)).cycles)
/-- CLOCK.ns: global time in ns, as the counter of the issuing die has it (17 R387, 18 R406). -/
def execClockNs (f : Fields) (s : State) : Host.Outcome State Fault Refusal :=
  irlek Enc.clockNs f s fun i s => .ok s (i.dest fun _ => BitVec.ofNat 64 (s.nsAt (dieOf i.wid)))

end Sys2Proof.Machine
end

