-- ==== Sys2Proof/Machine/Crypto.lean ====
section
/-! DEFINITION. The functions that the spec names by their standards: KMAC256 (17 R379, 19 R423), SHA3-512 (19 R417) and AES-256-GCM (19 R420). Their steps are those of FIPS 202, SP 800-185, FIPS 197 and SP 800-38D, which the spec only names (PRESUMED, assumption 91). -/
namespace Sys2Proof.Machine

/-! ### Keccak-f[1600] -/

/-- Lane (x, y) of a state, at x + 5y. -/
def laneOf (a : List (BitVec 64)) (x y : Nat) : BitVec 64 := (a[x % 5 + 5 * (y % 5)]?).getD 0

/-- A state given lane by lane. -/
def lanesBy (g : Nat → Nat → BitVec 64) : List (BitVec 64) := (List.range 25).map fun i => g (i % 5) (i / 5)

/-- Rotations by lane, at x + 5y. -/
def rhoOffsets : List Nat :=
  [0, 1, 62, 28, 27, 36, 44, 6, 55, 20, 3, 10, 43, 25, 39, 41, 45, 15, 21, 8, 18, 2, 61, 56, 14]

/-- The constants of the 24 rounds. -/
def iotaConstants : List (BitVec 64) :=
  [0x0000000000000001, 0x0000000000008082, 0x800000000000808A, 0x8000000080008000, 0x000000000000808B, 0x0000000080000001,
   0x8000000080008081, 0x8000000000008009, 0x000000000000008A, 0x0000000000000088, 0x0000000080008009, 0x000000008000000A]
  ++ [0x000000008000808B, 0x800000000000008B, 0x8000000000008089, 0x8000000000008003, 0x8000000000008002, 0x8000000000000080,
   0x000000000000800A, 0x800000008000000A, 0x8000000080008081, 0x8000000000008080, 0x0000000080000001, 0x8000000080008008]

/-- A round. -/
def keccakRound (a : List (BitVec 64)) (rc : BitVec 64) : List (BitVec 64) :=
  let sums := (List.range 5).map fun x => (List.range 5).foldl (fun s y => s ^^^ laneOf a x y) 0
  let at_ (x : Nat) : BitVec 64 := (sums[x % 5]?).getD 0
  let a := lanesBy fun x y => laneOf a x y ^^^ at_ (x + 4) ^^^ (at_ (x + 1)).rotateLeft 1
  let b := lanesBy fun x y =>
    let u := (x + 3 * y) % 5
    (laneOf a u x).rotateLeft ((rhoOffsets[u + 5 * x]?).getD 0)
  let a := lanesBy fun x y => laneOf b x y ^^^ (~~~(laneOf b (x + 1) y) &&& laneOf b (x + 2) y)
  match a with
  | l :: ls => (l ^^^ rc) :: ls
  | [] => []

/-- The permutation. -/
def keccak (a : List (BitVec 64)) : List (BitVec 64) := iotaConstants.foldl keccakRound a

/-! ### cSHAKE256 and KMAC256 -/

/-- Bytes taken in a block of `w` lanes at a time. -/
def absorb (w : Nat) : Nat → List Byte → List (BitVec 64) → List (BitVec 64)
  | 0, _, a => a
  | n + 1, bs, a =>
    let lane (i : Nat) : BitVec 64 := if i < w then BitVec.ofNat 64 (ofBytes ((bs.drop (8 * i)).take 8)) else 0
    absorb w n (bs.drop (8 * w)) (keccak (a.zipIdx.map fun (l, i) => l ^^^ lane i))

/-- The first block of `w` lanes that a sponge gives for a message, filled up behind its domain bits. -/
def spongeBlock (w domain : Nat) (bs : List Byte) : List Byte :=
  let pad := 8 * w - bs.length % (8 * w)
  let tail := if pad = 1 then [BitVec.ofNat 8 (domain + 0x80)]
    else BitVec.ofNat 8 domain :: List.replicate (pad - 2) 0 ++ [0x80#8]
  let all := bs ++ tail
  ((absorb w (all.length / (8 * w)) all (List.replicate 25 0)).take w).flatMap fun l => bytesOf 8 l.toNat

/-- SHA3-512 of bytes, as a number of 64 bytes (19 R417). -/
def sha3 (bs : List Byte) : Nat := ofBytes ((spongeBlock 9 6 bs).take 64)

/-- The first 136 bytes of cSHAKE256's output for a message already prefixed. -/
def shakeBlock (bs : List Byte) : List Byte := spongeBlock 17 4 bs

/-- The bytes of a number, the most significant first, at least one. -/
def bigEndian (x : Nat) : List Byte :=
  let n := max 1 (((List.range 16).filter fun i => 256 ^ i ≤ x).length)
  (bytesOf n x).reverse
def leftEncode (x : Nat) : List Byte := BitVec.ofNat 8 (bigEndian x).length :: bigEndian x
def rightEncode (x : Nat) : List Byte := bigEndian x ++ [BitVec.ofNat 8 (bigEndian x).length]
def encodeString (s : List Byte) : List Byte := leftEncode (8 * s.length) ++ s

/-- Bytes behind the length of a block, filled up to whole blocks. -/
def bytePad (s : List Byte) : List Byte :=
  let x := leftEncode 136 ++ s
  x ++ List.replicate ((136 - x.length % 136) % 136) 0

/-- The characters of a name as bytes. -/
def asciiBytes (s : String) : List Byte := s.toList.map fun c => BitVec.ofNat 8 c.toNat

/-- The first 16 bytes of KMAC256 of a message under a 256-bit key, with a customisation string, for an output of `bits` bits. -/
def kmacFirst (key : Nat) (name : String) (msg : List Byte) (bits : Nat) : List Byte :=
  (shakeBlock (bytePad (encodeString (asciiBytes "KMAC") ++ encodeString (asciiBytes name))
    ++ bytePad (encodeString (bytesOf 32 key)) ++ msg ++ rightEncode bits)).take 16

/-- The first 128 bits of KMAC256 as a number (17 R379, 19 R423). The output length that they are taken of, which enters the
function, the spec does not give: a free value of whole bytes. -/
def kmac256 (key : Nat) (name : String) (msg : List Byte) : Nat :=
  ofBytes (kmacFirst key name msg (128 + 8 * Config.kmacBytesMore))

/-! ### AES-256 -/

/-- Multiplication by x in the field of the cipher. -/
def xtime (b : Nat) : Nat := if 128 ≤ b then (2 * b % 256) ^^^ 0x1B else 2 * b

/-- A product in that field. -/
def gfMul (a b : Nat) : Nat :=
  ((List.range 8).foldl (fun (r, x) i => (if b.testBit i then r ^^^ x else r, xtime x)) (0, a)).1

/-- The inverse in that field, 0 of 0: the 254th power. -/
def gfInv (a : Nat) : Nat :=
  let sq (x : Nat) : Nat := gfMul x x
  ((List.range 7).foldl (fun (r, x) _ => let y := sq x; (gfMul r y, y)) (1, a)).1

/-- The substitution of a byte. -/
def subByte (b : Nat) : Nat :=
  let x := gfInv b
  let rot (k : Nat) : Nat := (x * 2 ^ k % 256) + x / 2 ^ (8 - k)
  x ^^^ rot 1 ^^^ rot 2 ^^^ rot 3 ^^^ rot 4 ^^^ 0x63

/-- The words of the key schedule, four bytes each, the latest first. -/
def keyWords : Nat → Nat → Nat → List (List Nat) → List (List Nat)
  | 0, _, _, ws => ws
  | n + 1, i, rc, ws =>
    let prev := ws.headD []
    let old := (ws[7]?).getD []
    let t := if i % 8 = 0 then
        match (prev.drop 1 ++ prev.take 1).map subByte with
        | b :: bs => (b ^^^ rc) :: bs
        | [] => []
      else if i % 8 = 4 then prev.map subByte else prev
    keyWords n (i + 1) (if i % 8 = 0 then xtime rc else rc) (List.zipWith (· ^^^ ·) t old :: ws)

/-- The 15 round keys of a key, 16 bytes each. -/
def roundKeys (key : List Nat) : List (List Nat) :=
  let start := ((List.range 8).map fun i => (key.drop (4 * i)).take 4).reverse
  let ws := (keyWords 52 8 1 start).reverse
  (List.range 15).map fun r => ((ws.drop (4 * r)).take 4).flatten

/-- Rows shifted: byte r + 4c comes from column c + r. -/
def rotateRows (s : List Nat) : List Nat :=
  (List.range 16).map fun i => (s[i % 4 + 4 * ((i / 4 + i % 4) % 4)]?).getD 0

/-- Columns mixed. -/
def mixColumns (s : List Nat) : List Nat :=
  (List.range 16).map fun i =>
    let b (k : Nat) : Nat := (s[i / 4 * 4 + (i + k) % 4]?).getD 0
    xtime (b 0) ^^^ (xtime (b 1) ^^^ b 1) ^^^ b 2 ^^^ b 3

/-- One block of 16 bytes enciphered. -/
def aesBlock (keys : List (List Nat)) (x : List Nat) : List Nat :=
  let add (s k : List Nat) : List Nat := List.zipWith (· ^^^ ·) s k
  let s := ((keys.drop 1).take 13).foldl (fun s k => add (mixColumns (rotateRows (s.map subByte))) k) (add x (keys.headD []))
  add (rotateRows (s.map subByte)) ((keys[14]?).getD [])

/-! ### GCM -/

/-- Bytes of a block as a number, the first the most significant. -/
def blockNum (bs : List Nat) : Nat := bs.foldl (fun a b => a * 256 + b) 0
def numBlock (x : Nat) : List Nat := (List.range 16).map fun i => x / 256 ^ (15 - i) % 256

/-- A product of blocks, whose first bit is the lowest power. -/
def ghashMul (x y : Nat) : Nat :=
  ((List.range 128).foldl (fun (z, v) i =>
    (if x.testBit (127 - i) then z ^^^ v else z, if v % 2 = 1 then v / 2 ^^^ 0xE1 * 2 ^ 120 else v / 2)) (0, y)).1

/-- Blocks of 16 bytes, the last filled with zeros. -/
def blocks16 (bs : List Nat) : List (List Nat) :=
  (List.range (ceilDiv bs.length 16)).map fun i =>
    let b := (bs.drop (16 * i)).take 16
    b ++ List.replicate (16 - b.length) 0

/-- AES-256-GCM of bytes under a key and a 12-byte nonce, with no further data: the ciphertext, then its 16-byte tag (19 R420). -/
def aesGcm (key nonce msg : List Byte) : List Byte :=
  let nat (bs : List Byte) : List Nat := bs.map BitVec.toNat
  let keys := roundKeys (nat key)
  let h := blockNum (aesBlock keys (List.replicate 16 0))
  let j := blockNum (nat nonce) * 2 ^ 32 + 1
  let counter (i : Nat) : List Nat := aesBlock keys (numBlock (j + i))
  let c := List.zipWith (· ^^^ ·) (nat msg) ((List.range (ceilDiv msg.length 16)).flatMap fun i => counter (i + 1))
  let y := (blocks16 c ++ [numBlock (8 * c.length)]).foldl (fun y b => ghashMul (y ^^^ blockNum b) h) 0
  let tag := List.zipWith (· ^^^ ·) (counter 0) (numBlock y)
  (c ++ tag).map (BitVec.ofNat 8)

end Sys2Proof.Machine
end

