-- ==== Sys2Proof/Machine/Sluice.lean ====
section
/-! DEFINITION. Entering a block: header checks, counter waits and admission at the sluice; spills and refills; release of held lanes (03 R42, 04 R84, R87, 05 R107, R110-R113). -/
namespace Sys2Proof.Machine

/-- A warp that nothing keeps from moving (as for issue). -/
def State.mayEnter (s : State) (wid : Nat) (w : Warp) : Bool := s.mayIssue wid w

/-- The lanes of a warp that stand at a header in a stage. -/
def Warp.atHeader (w : Warp) (h : Word) (st : Stage) : Mask :=
  w.where fun x => w.issuable x && x.stage == st && x.hdr == h

/-- Pending releases applied: a bundle of every live lane, those that wait at the header's sluice already among them, reaches
admission (05 R107). -/
def Warp.applyPending (w : Warp) (h : Word) : Warp :=
  if w.live &&& ~~~w.atHeader h .queued = 0 then { w with v := w.v.filter fun (_, r) => !r.pending } else w

/-- Steps 1 and 2 of R42 for the lanes that have arrived at a header: its checks, its counters, and then a place at the
sluice. With no such lanes, or a counter not yet 0, nothing happens. -/
def enterHeader (s : State) (wid : Nat) (h : Word) : State :=
  match s.warp? wid with
  | none => s
  | some w =>
    let m := w.atHeader h .arrived
    if m = 0 || !s.mayEnter wid w || w.faultPcs.contains h then s
    else if !targetOk h then s.takeTrap wid .badTarget m m (BitVec.ofNat 64 (m.lowest.getD 0)) h
    else match s.fetchHeader wid w h with
      | (s, .error (va, k)) =>
        match s.recordFault (dieOf wid) w.ctx 1 .execute k va (.entry wid h) with
        | some s => s.modWarp wid fun w => { w with faultPcs := h :: w.faultPcs }
        | none => s
      | (s, .ok x) =>
        let hd := headerOf x
        let low := BitVec.ofNat 64 (m.lowest.getD 0)
        let ways := m.lanes.filterMap fun l => (w.lanes[l]?).map (·.way)
        if !ways.all (kindOk hd.kind) then s.takeTrap wid .badTarget m m low h
        else if hd.reserved != 0 || hd.reconv % 4 != 0 then s.takeTrap wid .illegalField m m 0 h
        else
          let ks := (List.range 12).filter fun k => hd.wait.testBit k
          if !(ks.all fun k => w.counter k == 0) then s
          else
            let w := (ks.foldl Warp.acquireCounter w).modLanes m fun y => { y with stage := .queued }
            (s.setWarp wid (w.applyPending h)).askSluice (coreOf wid) (.bundle wid h hd.demand)

/-- HEADER_WAIT_PASS: the lanes at a header proceed once every named counter reads 0 (03 R42). -/
def execHeaderWaitPass (s : State) : Host.Outcome State Fault Refusal := .next (enterHeader s s.ev.unit s.ev.word)

/-- The header that lanes of a warp have arrived at and can pass now, or meet a trap or a fault at: they are ready for it (04 R77). -/
def State.passable (s : State) (wid : Nat) (w : Warp) : Option Word :=
  (((w.lanes.filter fun x => x.live && x.stage == .arrived).map (·.hdr)).eraseDups).find? fun h =>
    (enterHeader s wid h).warp? wid != some w

/-! ### The pool (05 R110-R112) -/

/-- The slices of a core's pool. -/
def poolSlices : Nat := 4096

/-- Free shared slices: those outside the carves, less what warps hold and reserve beyond their floors (05 R110). A draining
warp, whose slices have returned, has no carve and no claim (DESIGN CHOICE, assumption 103). -/
def State.freeSlices (s : State) (core : Nat) : Nat :=
  poolSlices - ((s.warps.filter fun (wid, w) => coreOf wid == core && !w.draining).map
    fun (_, w) => max w.claim w.floor * w.slices).sum

/-- The shared slices that `d` more registers take (05 R111). -/
def Warp.needs (w : Warp) (d : Nat) : Nat := ((w.claim + d - w.floor) - (w.claim - w.floor)) * w.slices

/-- The registers a request asks for. -/
def State.requestSize (s : State) : SluiceReq → Nat
  | .bundle _ _ d => d
  | .refill wid => ((s.warp? wid).map fun w => w.spilled.length + (w.refillRes.map (·.2)).sum).getD 0

/-- The warp of a request. -/
def SluiceReq.wid : SluiceReq → Nat
  | .bundle w _ _ => w
  | .refill w => w

/-- Whether a request fits now. -/
def State.fits (s : State) (core : Nat) (r : SluiceReq) : Bool :=
  match s.warp? r.wid with
  | some w => w.needs (s.requestSize r) ≤ s.freeSlices core
  | none => true

/-- A refill that a translation fault holds (18 R392). -/
def State.refillHeld (s : State) : SluiceReq → Bool
  | .refill wid => s.heldBy (.save 5 wid)
  | .bundle _ _ _ => false

/-- Eligible unless its own warp holds a reservation for another bundle and it does not fit (05 R112). -/
def State.eligible (s : State) (core : Nat) (r : SluiceReq) : Bool :=
  match s.warp? r.wid with
  | some w => (w.res.isEmpty || s.fits core r) && !s.refillHeld r
  | none => true

/-- The oldest eligible request: by the cycle of its arrival, then the lower quarter, then the lower slot (05 R112). -/
def State.nextAtSluice (s : State) (core : Nat) : Option SluiceReq :=
  let le (a b : Nat × SluiceReq) : Bool := a.1 < b.1 || (a.1 == b.1 && a.2.wid % 64 ≤ b.2.wid % 64)
  ((sortBy le (s.core core).sluice).map (·.2)).find? (s.eligible core)

/-- The register part of a warp some of whose registers are spilled to it already: those stay, and keep their bits. -/
def Warp.savePieces (w : Warp) (pend : Nat) : List (Nat × List Byte) :=
  let kept (n : Nat) : Bool := w.spilled.contains n
  if w.spilled.isEmpty then w.registerPieces
  else
    [(0, bitmap fun n => w.mapped n || kept n),
     (0x20, bitmap fun n => if kept n then pend.testBit n else ((AMap.get w.v n).map (·.pending)).getD false)]
    ++ w.registerPieces.filter fun (off, _) => 0x40 ≤ off

/-- The pending bits of the registers that a warp has spilled, as its save area holds them. -/
def State.spilledPending (s : State) (chain : List Nat) (w : Warp) : State × Except (Word × FaultKind) Nat :=
  if w.spilled.isEmpty then (s, .ok 0)
  else match s.readVirt chain w.ctx (s.saveBase w + 0x20) 32 with
    | (s, .error e) => (s, .error e)
    | (s, .ok bs) => (s, .ok (ofBytes bs))

/-- The vector registers that a bundle whose accesses are made in part has still to write. -/
def Warp.sendingDests (w : Warp) : List Nat :=
  match w.sending with
  | none => []
  | some x => match decodeIrlek w.width w.nw x.word with
    | .error _ => []
    | .ok i => ((i.enc.map fun (e, f) => vectorDests e f)).getD []

/-- The registers of a warp beyond its floor that may be spilled now, highest first: one with a write in flight, by an engine or by
a bundle still at its accesses, is taken only after its write has landed (05 R112). -/
def Warp.spillable (w : Warp) : List Nat :=
  ((w.v.map (·.1)).reverse.filter fun n => !w.awaitV.contains n && !w.sendingDests.contains n).take (w.v.length - w.floor)

/-- The pending bits that a spill or a save of a warp takes over; none are read again where the transfer has begun. -/
def State.bitsFor (s : State) (chain : List Nat) (what wid : Nat) (w : Warp) : State × Except (Word × FaultKind) Nat :=
  if (s.moveOf what wid).isSome then (s, .ok 0) else s.spilledPending chain w

/-- A victim of the sluice, spilled toward its floor: its reservation returned, its registers beyond the floor written to its
save area with its bitmaps and control quadword, and its refill placed at the sluice (05 R112, R113). A register that an engine
has still to write stays, and a later spill takes it. A translation fault holds the warp with all that it has until the spill has
gone on to its end (18 R392). -/
def State.spill (s : State) (core wid : Nat) : State :=
  match s.warp? wid with
  | none => s
  | some w =>
    let chain := [tlbCluster (clusterOf wid)]
    let fault (s : State) (va : Word) (k : FaultKind) : State :=
      (s.recordFault (dieOf wid) w.ctx 7 .readWrite k va (.save 4 wid)).getD s
    let vs := ((s.moveOf 4 wid).map (·.regs)).getD w.spillable
    if vs.isEmpty && w.res.isEmpty then s
    else match s.bitsFor chain 4 wid w with
      | (s, .error (va, k)) => fault s va k
      | (s, .ok pend) =>
        let here (off : Nat) : Bool := off ≤ 0x40 || (0xC00 ≤ off && vs.contains ((off - 0xC00) / (8 * w.width)))
        match s.sendOut chain w.ctx 4 wid (s.saveBase w) ((w.savePieces pend).filter fun (off, _) => here off) vs with
        | (s, some (va, k)) => fault s va k
        | (s, none) =>
          (s.setWarp wid { w with
            v := w.v.filter fun (n, _) => !vs.contains n
            spilled := w.spilled ++ vs, refillRes := joinRes w.refillRes w.res, res := [] }).askSluice core (.refill wid)

/-- The warps that may be spilled, the youngest first; of those placed or resumed in one cycle, the highest slot first (DESIGN
CHOICE, assumption 104) (05 R112). -/
def State.victims (s : State) (core own : Nat) : List Nat :=
  let may := s.warps.filter fun (wid, w) =>
    coreOf wid == core && wid != own && !w.draining && !w.gangWait && w.floor < w.claim && !s.heldBy (.save 4 wid)
  (sortBy (fun a b : Nat × Warp => b.2.placed < a.2.placed || (a.2.placed == b.2.placed && b.1 ≤ a.1)) may).map (·.1)

/-- Victims spilled in turn until a request fits. -/
def spillUntil (core : Nat) (r : SluiceReq) : List Nat → State → State
  | [], s => s
  | v :: vs, s => if s.fits core r then s else spillUntil core r vs (s.spill core v)

/-- A request leaves the sluice. -/
def State.dropRequest (s : State) (core : Nat) (r : SluiceReq) : State :=
  s.modCore core fun c => { c with sluice := c.sluice.filter fun x => x.2 != r }

/-- A bundle admitted: its reservation, and step 4 of R42: into the body, or on to N(H) (03 R42, 05 R111). Lanes that came to
the header while others of their warp waited at the sluice there are of one bundle with them, under one demand (DESIGN
CHOICE, assumption 105). A group that a debugger moved is admitted register by register (04 R87). -/
def State.letIn (s : State) (wid : Nat) (h : Word) (d : Nat) : State :=
  match s.warp? wid with
  | none => s
  | some w =>
    let m := w.atHeader h .queued
    let id := w.nextBundle
    if m = 0 then
      let g := w.where fun x => w.issuable x && x.stage == .inBody && x.changed && x.pc == h
      if g = 0 then s
      else
        let own := (w.groupBundles g).head?
        let b := own.getD id
        s.setWarp wid { w.modLanes g fun x => { x with bundle := b } with
          nextBundle := if own.isSome then id else id + 1, res := AMap.upd w.res b 0 (· + d) }
    else match s.fetchHeader wid w h with
      | (s, .error _) => s.setWarp wid (w.modLanes m fun x => { x with stage := .arrived })
      | (s, .ok x) =>
        let hd := headerOf x
        if hd.len = 0 then s.setWarp wid (w.goHeader m (nextHeader h hd) .fallThrough)
        else
          let w := w.modLanes m fun y => { y with stage := .inBody, pc := h + 8, bundle := id }
          s.setWarp wid { w with nextBundle := id + 1, res := if d = 0 then w.res else AMap.set w.res id d }

/-- A spill of a core that a fault stopped goes on, once that fault is answered (18 R392). -/
def State.goOnSpill (s : State) (core : Nat) : State :=
  match s.moving.find? fun m => m.what == 4 && coreOf m.id == core && !s.heldBy (.save 4 m.id) with
  | some m => s.spill core m.id
  | none => s

/-- The sluice would admit its oldest eligible bundle as things stand, with nothing spilled for it (04 R77, 05 R112). -/
def State.admissible (s : State) (core : Nat) : Bool :=
  match s.nextAtSluice core with
  | some (.bundle wid h d) => (s.modWarp wid fun w => w.applyPending h).fits core (.bundle wid h d)
  | _ => false

/-- SLUICE_ADMIT: the oldest eligible bundle is admitted, after victims are spilled where it does not fit (05 R112). -/
def execSluiceAdmit (s : State) : Host.Outcome State Fault Refusal :=
  let core := s.ev.unit
  let s := s.goOnSpill core
  match s.nextAtSluice core with
  | some (.bundle wid h d) =>
    let r := SluiceReq.bundle wid h d
    let s := s.modWarp wid fun w => w.applyPending h
    let s := spillUntil core r (s.victims core wid) s
    .next (if s.fits core r then (s.dropRequest core r).letIn wid h d else s)
  | _ => .next s

/-- A spilled warp's registers and reservation restored, as its save area now gives them: a register whose mapped bit has been
cleared there comes back unmapped (05 R103, R113). -/
def State.refill (s : State) (core wid : Nat) : State :=
  match s.warp? wid with
  | none => s.dropRequest core (.refill wid)
  | some w =>
    let rd (s : State) (rs : List (Nat × Nat)) : State × Except (Word × FaultKind) (List Byte) :=
      s.takeIn [tlbCluster (clusterOf wid)] w.ctx 5 wid (s.saveBase w) rs
    let fault (s : State) (va : Word) (k : FaultKind) : State :=
      (s.recordFault (dieOf wid) w.ctx 7 .readWrite k va (.save 5 wid)).getD s
    match rd s [(0, 0x48)] with
    | (s, .error (va, k)) => fault s va k
    | (s, .ok head) =>
      let mapped := ofBytes (head.take 32)
      let pending := ofBytes ((head.drop 32).take 32)
      let quad := ofBytes ((head.drop 64).take 8)
      let regs := w.spilled.filter mapped.testBit
      match rd s ((0, 0x48) :: regs.map fun n => (0xC00 + n * 8 * w.width, 8 * w.width)) with
      | (s, .error (va, k)) => fault s va k
      | (s, .ok bs) =>
        let lane (i l : Nat) : Word := BitVec.ofNat 64 (ofBytes ((bs.drop (0x48 + 8 * (i * w.width + l))).take 8))
        let v := regs.zipIdx.foldl (fun v (n, i) =>
          AMap.set v n ⟨(List.range w.width).map (lane i), pending / 2 ^ n % 2 == 1⟩) w.v
        let back := joinRes w.res (resized w.refillRes (quad % 512))
        let w := { (w.takeQuad quad) with v := v, res := back, spilled := [], refillRes := [] }
        ((s.setWarp wid w.trimRes).dropRequest core (.refill wid)).dropMove 5 wid

/-- SLUICE_REFILL: a spilled warp's refill, when it is the oldest eligible request (05 R113). -/
def execSluiceRefill (s : State) : Host.Outcome State Fault Refusal :=
  let core := s.ev.unit
  match s.nextAtSluice core with
  | some (.refill wid) =>
    let s := spillUntil core (.refill wid) (s.victims core wid) s
    .next (if s.fits core (.refill wid) then s.refill core wid else s)
  | _ => .next s

/-- Every live lane is held at a point or stands at or above it; a lane held at a lower point counts as below (04 R84). -/
def Warp.reached (w : Warp) (rc : Word) : Bool :=
  w.lanes.all fun x => !x.live || (x.held && x.pc == rc) || (rc.toNat ≤ x.pc.toNat)

/-- A point whose held lanes may be released. -/
def Warp.releasable (w : Warp) : Option Word :=
  (((w.lanes.filter fun x => x.live && x.held).map (·.pc)).eraseDups).find? w.reached

/-- JOIN_RELEASE: the lanes held at a point are released together, once the condition holds (04 R84). -/
def execJoinRelease (s : State) : Host.Outcome State Fault Refusal :=
  let rc := s.ev.word
  .next (s.modWarp s.ev.unit fun w =>
    if w.reached rc then
      { w with lanes := w.lanes.map fun x => if x.live && x.held && x.pc == rc then { x with held := false } else x }
    else w)

end Sys2Proof.Machine
end

