-- ==== Sys2Proof/Machine/Dispatcher.lean ====
section
/-! DEFINITION. The dispatcher: launch descriptors, placing teams, dictionary loads, allotments, drains and the end of teams (03 R50-R53, 04 R67-R75, R93, 05 R114, 08 R178-R180, 17 R384-R386). -/
namespace Sys2Proof.Machine

/-! ### Accesses of a front end (17 R383, R384) -/

/-- How an access of a front end ends. -/
inductive FeRes (α : Type) where
  | ok (x : α) | wait | fault (va : Word) (k : FaultKind)

/-- A range cut at 8-byte boundaries: addresses and lengths. -/
def quadCuts (va : Word) : Nat → Nat → List (Word × Nat)
  | 0, _ => []
  | fuel + 1, n =>
    if n = 0 then []
    else
      let k := min n (8 - va.toNat % 8)
      (va, k) :: quadCuts (va + BitVec.ofNat 64 k) fuel (n - k)

/-- A front end's time raised to that of an access. -/
def State.raiseFront (s : State) (die t : Nat) : State := s.modDie die fun d => { d with feuTime := max d.feuTime t }

/-- Pieces read at the front end's time, which each read raises. -/
def fePieces (die ctx : Nat) : List (Word × Nat) → State → List Byte → State × FeRes (List Byte)
  | [], s, bs => (s, .ok bs)
  | (va, n) :: rest, s, bs =>
    match s.engineTranslate [tlbFront die] ctx va .read with
    | (s, .error k) => (s, .fault va k)
    | (s, .ok pa) =>
      if s.absentAt pa n then (s, .wait)
      else
        let (s, x, t) := s.engineRead (s.die die).feuTime pa n [] 0
        fePieces die ctx rest (s.raiseFront die t) (bs ++ bytesOf n x)

/-- Bytes read by a die's front end in a context. -/
def State.feRead (s : State) (die ctx : Nat) (va : Word) (n : Nat) : State × FeRes (List Byte) :=
  fePieces die ctx (quadCuts va (n / 8 + 2) n) s []

/-- Eight bytes read by a front end. -/
def State.feQuad (s : State) (die ctx : Nat) (va : Word) : State × FeRes Word :=
  match s.feRead die ctx va 8 with
  | (s, .ok bs) => (s, .ok (BitVec.ofNat 64 (ofBytes bs)))
  | (s, .wait) => (s, .wait)
  | (s, .fault va k) => (s, .fault va k)

/-- Bytes written by a front end at a time no lower than its own. -/
def feStores (die ctx time : Nat) : List (Word × Nat) → State → List Byte → State × FeRes Unit
  | [], s, _ => (s, .ok ())
  | (va, n) :: rest, s, bs =>
    match s.engineTranslate [tlbFront die] ctx va .write with
    | (s, .error k) => (s, .fault va k)
    | (s, .ok pa) =>
      if s.absentAt pa n then (s, .wait)
      else
        let (s, t) := s.engineWrite (max time (s.die die).feuTime) pa (bs.take n) 0
        feStores die ctx time rest (s.raiseFront die t) (bs.drop n)

/-- A quadword written by a front end. -/
def State.feStore (s : State) (die ctx time : Nat) (va x : Word) : State × FeRes Unit :=
  feStores die ctx time (quadCuts va 3 8) s (bytesOf 8 x.toNat)

/-! ### Launch descriptors (17 R384) -/

/-- The warps of a team (04 R68). -/
def Launch.warps (l : Launch) : Nat := l.teamLanes / l.width

/-- The roles of a team; without a split the whole team is one role of floor 0 (04 R71, 05 R110). -/
def Launch.roleList (l : Launch) : List Role := if l.roles.isEmpty then [⟨l.entry, l.warps, 0, l.gang⟩] else l.roles

/-- A launch as its descriptor gives it (17 Table 17.6). -/
def descLaunch (ctx die : Nat) (d : List Byte) (args : List Word) (dc deadline window : Nat) (queue : Option Nat)
    (owner : Owner) : Launch where
  ctx := ctx
  die := die
  entry := BitVec.ofNat 64 (numIn d 0 8)
  dictBase := BitVec.ofNat 64 (numIn d 8 8)
  dictN := numIn d 0x10 2
  width := 16 <<< min (numIn d 0x12 1) 2
  gang := numIn d 0x13 1
  teamLanes := numIn d 0x14 4
  teams := numIn d 0x18 4
  units := numIn d 0x1C 1
  nw := numIn d 0x1D 1
  barriers := numIn d 0x1E 2
  peak := numIn d 0x20 1 + 256 * numIn d 0x24 1
  maxDemand := numIn d 0x21 1
  roles := (List.range (min (numIn d 0x22 1) 4)).map fun r =>
    ⟨BitVec.ofNat 64 (numIn d (0x40 + 16 * r) 8), numIn d (0x48 + 16 * r) 2, numIn d (0x4A + 16 * r) 1,
      numIn d (0x4B + 16 * r) 1⟩
  strict := numIn d 0x23 1 % 2 == 1
  args := args
  dc := dc
  deadline := deadline
  window := window
  queue := queue
  boosted := false
  owner := owner
  serial := 0
  started := 0
  next := 0
  teamsDone := 0
  time := 0
  doneTime := 0
  placedAt := 0

/-- A gang size the part knows (04 R70). -/
def gangOk (g : Nat) : Bool := g == 0 || (2 ≤ g && g ≤ 8)

/-- The first of checks 1 to 5 of R384 that a descriptor fails, or 0. The reserved bytes are those that Table 17.6 lists no
content for, the last four of every role included. -/
def descCode (d : List Byte) (l : Launch) : Nat :=
  let reserved := numIn d 0x25 0x1B != 0 || numIn d 0x23 1 / 2 != 0
    || (List.range 4).any fun r => numIn d (0x4C + 16 * r) 4 != 0
  let rolesBad := 4 < numIn d 0x22 1 || (!l.roles.isEmpty && l.gang != 0)
    || l.roleList.any (fun r => r.warps < 1 || !gangOk r.gang || (r.gang != 0 && r.warps % r.gang != 0))
    || (l.roleList.map (·.warps)).sum * l.width != l.teamLanes
  if reserved then 0x16
  else if 2 < numIn d 0x12 1 || l.teamLanes < 1 || 65536 < l.teamLanes || l.teamLanes % l.width != 0 || l.teams < 1 then 0x11
  else if rolesBad then 0x12
  else if 96 < l.units || 256 < l.barriers || l.nw < 1 || 16 < l.nw then 0x13
  else if l.dictBase.toNat % 256 != 0 || 1024 < l.dictN then 0x14
  else 0

/-! ### Where the warps of a team go (04 R73-R75) -/

/-- The role of a team warp: its number, its warp number in the role, and the role (04 R71). -/
def roleOf : List Role → Nat → Nat → Option (Nat × Nat × Role)
  | [], _, _ => none
  | r :: rs, k, i => if i < r.warps then some (k, i, r) else roleOf rs (k + 1) (i - r.warps)

/-- Whether a launch has gangs. -/
def Launch.hasGangs (l : Launch) : Bool := l.roleList.any fun r => r.gang != 0

/-- The first warp of each role, with the role. -/
def Launch.roleStarts (l : Launch) : List (Nat × Role) :=
  (l.roleList.foldl (fun (o, rs) r => (o + r.warps, rs ++ [(o, r)])) ((0, []) : Nat × List (Nat × Role))).2

/-- The team warps of each of k team cores, in ascending order, where k meets conditions 1 to 3 of R73 as far as they do not
ask for free cores (04 R73, R74). -/
def Launch.split (l : Launch) (k : Nat) : Option (List (List Nat)) :=
  let n := l.warps
  let shares : Option (List (List Nat)) :=
    if l.hasGangs && 4 < k && k % 4 != 0 then none
    else if l.roles.isEmpty then
      let m0 := ceilDiv n k
      let m := if l.gang != 0 && 4 < k then
          ((List.range 8).map (m0 + ·)).find? fun m => 4 * m % l.gang == 0
        else some m0
      m.map fun m => (List.range k).map fun j => (List.range (min n ((j + 1) * m) - j * m)).map (j * m + ·)
    else if l.roleList.any fun r => r.warps % k != 0 || (r.gang != 0 && 4 < k && 4 * r.warps / k % r.gang != 0) then none
    else some ((List.range k).map fun j => l.roleStarts.flatMap fun (o, r) =>
      (List.range (r.warps / k)).map fun i => o + j * r.warps / k + i)
  shares.filter fun ss => ss.all fun c => c.length ≤ 64

/-- The pool test of R114, over floors, peaks and slices a register. -/
def poolTest (ws : List (Nat × Nat × Nat)) : Bool :=
  let carve : Int := ((ws.map fun (f, _, x) => f * x).sum : Nat)
  let top := ws.map fun (f, p, x) => ((p : Int) - f) * x
  match top with
  | [] => true
  | t :: ts => carve + ts.foldl max t ≤ 4096

/-- What a team warp brings to the pool test. -/
def Launch.poolOf (l : Launch) (i : Nat) : Nat × Nat × Nat :=
  (((roleOf l.roleList 0 i).map fun (_, _, r) => r.floor).getD 0, l.peak, l.width / 16)

/-- Some number of empty cores takes the team (17 R384 check 7). -/
def Launch.fitsEmpty (l : Launch) : Bool :=
  (List.range 16).any fun k => ((l.split (k + 1)).map fun ss => ss.all fun c => poolTest (c.map l.poolOf)).getD false

/-- Free warp slots of a quarter. -/
def State.freeSlots (s : State) (core q : Nat) : Nat :=
  16 - (s.warps.filter fun (wid, _) => coreOf wid == core && quarterOf wid == q).length

/-- The quarter with the most free slots, the lowest on a tie (04 R75). -/
def State.firstQuarter (s : State) (core : Nat) : Nat :=
  [1, 2, 3].foldl (fun b q => if s.freeSlots core b < s.freeSlots core q then q else b) 0

/-- How many of `n` local warps go to each quarter (04 R75). -/
def quarterNeeds (b n : Nat) : List Nat :=
  (List.range 4).map fun q => ((List.range n).filter fun i => (i + b) % 4 == q).length

/-- The warps on a core that count in its pool. -/
def State.poolWarps (s : State) (core : Nat) : List (Nat × Nat × Nat) :=
  (s.warps.filter fun (wid, w) => coreOf wid == core && !w.draining).map fun (_, w) => (w.floor, w.peak, w.slices)

/-- Scratchpad units and barriers in use on a core (08 R178, 10 R228). -/
def State.unitsUsed (s : State) (core : Nat) : Nat :=
  ((s.allots.filter fun (_, a) => a.core == core && !a.saved).map fun (_, a) => a.units).sum
def State.barriersUsed (s : State) (core : Nat) : Nat :=
  ((s.allots.filter fun (_, a) => a.core == core && !a.saved).map fun (_, a) => a.nBarriers).sum

/-! ### Dictionary banks (03 R51-R53) -/

/-- A bank's dictionary is that of a launch. -/
def Bank.serves (b : Bank) (l : Launch) : Bool := b.ctx == l.ctx && b.base == l.dictBase && b.n == l.dictN

/-- A bank is held by a warp resident on its core (03 R51). -/
def State.bankHeld (s : State) (core : Nat) (b : Bank) : Bool :=
  s.warps.any fun (wid, w) => coreOf wid == core && ((s.launchOf w).map b.serves).getD false

/-- A bank of a core holds a launch's dictionary: one in use, or one loaded since the launch (03 R52, R53). -/
def State.bankReady (s : State) (core : Nat) (l : Launch) : Bool :=
  (s.core core).banks.any fun b => match b with
    | some b => b.serves l && b.ready && (s.bankHeld core b || l.serial ≤ b.loaded)
    | none => false

/-- A bank that may be loaded with a launch's dictionary: not held, not waiting for the answer to a fault, kept for no other launch
whose load met one, and the one that has that dictionary already where one does, so that a core holds a dictionary once (03
R51-R53). -/
def State.bankLoadable (s : State) (core i : Nat) (l : Launch) : Bool :=
  let free (b : Bank) : Bool := !s.bankHeld core b && !b.faulted && (b.ready || b.serial == l.serial)
  match (s.core core).banks[i]? with
  | some (some b) => free b && (b.serves l || !((s.core core).banks.any fun x => x.any fun x => x.serves l))
  | some none => !((s.core core).banks.any fun x => x.any fun x => x.serves l)
  | none => false

/-- The load of a bank for a launch met a fault and is not complete: the launch stays in the dispatcher with that bank alone (03
R53). -/
def State.loadHeld (s : State) (l : Launch) : Bool :=
  s.cores.any fun (_, c) => c.banks.any fun x => x.any fun b => !b.ready && b.serial == l.serial

/-- The bank whose load for a launch met a fault. -/
def State.loadsHere (s : State) (core i : Nat) (l : Launch) : Bool :=
  (((s.core core).banks[i]?).getD none).any fun b => !b.ready && b.serial == l.serial

/-- The bank that a warp used is freed on its core when no warp there holds it any more (03 R51, R52). -/
def State.freeBank (s : State) (core : Nat) (l : Option Launch) : State :=
  match l with
  | none => s
  | some l =>
    if (s.core core).banks.any fun x => x.any fun b => b.serves l && b.ready && !s.bankHeld core b then
      s.modCore core fun c => { c with banks := c.banks.map fun x => x.filter fun b => !b.serves l }
    else s

/-- DICTIONARY_LOAD: the image of a waiting or returning launch of a context that runs is read into a bank that may be loaded; a fault
is held with the bank (03 R53). -/
def execDictionaryLoad (s : State) : Host.Outcome State Fault Refusal :=
  let core := s.ev.unit
  let i := s.ev.item
  .next (match AMap.get s.launches s.ev.third with
    | none => s
    | some l =>
      if !s.ctxRunning l.ctx || s.bankReady core l || !s.bankLoadable core i l || s.loadHeld l && !s.loadsHere core i l then s
      else
        let put (s : State) (ready faulted : Bool) (words : List (BitVec 160)) : State :=
          s.modCore core fun c => { c with banks := c.banks.set i (some ⟨l.ctx, l.dictBase, l.dictN, words, ready, faulted, s.stamp, l.serial⟩) }
        match s.readImage core l.ctx s.ev.third l.dictBase (20 * l.dictN) with
        | (s, .ok bs) =>
          put s true false ((List.range l.dictN).map fun j => BitVec.ofNat 160 (ofBytes ((bs.drop (20 * j)).take 20)))
        | (s, .error (va, k)) =>
          match s.recordFault (dieOfCore core) l.ctx 1 .read k va (.dictionary core i) with
          | some s => put s false true []
          | none => s)

/-! ### Finding cores (04 R73) -/

/-- Condition 4 of R73 and the slots of condition 1, for one core and the warps put there. -/
def State.coreFits (s : State) (l : Launch) (core : Nat) (share : List Nat) : Bool :=
  let needs := quarterNeeds (s.firstQuarter core) share.length
  needs.zipIdx.all (fun (n, q) => n ≤ s.freeSlots core q)
  && poolTest (s.poolWarps core ++ share.map l.poolOf)
  && s.unitsUsed core + l.units ≤ 96 && s.barriersUsed core + l.barriers ≤ 256
  && (s.bankReady core l || s.bankLoadable core 0 l || s.bankLoadable core 1 l)

/-- Shares given to cores in order, each to the first that fits. -/
def takeCores (fits : Nat → List Nat → Bool) (cands : List Nat) : List (List Nat) → List Nat → Option (List Nat)
  | [], got => some got
  | x :: xs, got =>
    match cands.find? fun c => !got.contains c && fits c x with
    | none => none
    | some c => takeCores fits cands xs (got ++ [c])

/-- Groups of shares given to whole clusters in order. -/
def takeClusters (fits : Nat → List Nat → Bool) (cands : List Nat) : List (List (List Nat)) → List Nat → Option (List Nat)
  | [], got => some got
  | g :: gs, got =>
    match cands.findSome? fun cl =>
      if got.any fun c => clusterOfCore c == cl then none
      else takeCores fits ((List.range 4).map (4 * cl + ·)) g [] with
    | none => none
    | some cs => takeClusters fits cands gs (got ++ cs)

/-- Shares in groups of four. -/
def fours {α : Type} (l : List α) : List (List α) := (List.range (ceilDiv l.length 4)).map fun i => (l.drop (4 * i)).take 4

/-- Cores of one die for the shares of a team, die 0 and the lowest first; with gangs, in clusters (04 R73, R74). -/
def findCores (fits : Nat → List Nat → Bool) (gangs : Bool) (shares : List (List Nat)) : Option (List Nat) :=
  [0, 1].findSome? fun die =>
    if gangs then takeClusters fits ((List.range 40).map (40 * die + ·)) (fours shares) []
    else takeCores fits ((List.range 160).map (160 * die + ·)) shares []

/-! ### Save indices (18 R392) -/

/-- The save indices of a context in use. -/
def State.warpIdx (s : State) (ctx : Nat) : List Nat :=
  ((s.warps.filter fun (_, w) => w.ctx == ctx).map fun (_, w) => w.saveIdx)
  ++ s.saved.filterMap fun (_, x) => match x with
    | .warp w _ _ _ => if w.ctx == ctx then some w.saveIdx else none
    | _ => none

/-- A warp of a team is there, resident or saved, drained or not. -/
def State.teamWarpHere (s : State) (team tw : Nat) : Bool :=
  (s.warps.any fun (_, w) => w.team == team && w.teamWarp == tw)
  || s.saved.any fun (_, x) => match x with
    | .warp w _ _ _ => w.team == team && w.teamWarp == tw
    | _ => false

def State.gangIdx (s : State) (ctx : Nat) : List Nat :=
  (s.gangs.filter fun (_, g) => g.ctx == ctx && g.members.any (s.teamWarpHere g.team)).map fun (_, g) => g.saveIdx
def State.allotIdx (s : State) (ctx : Nat) : List Nat :=
  (s.allots.filter fun (_, a) => a.ctx == ctx).map fun (_, a) => a.saveIdx

/-- The lowest `n` free indices of a pool, where it has as many. -/
def freeIdx (used : List Nat) (bound n : Nat) : Option (List Nat) :=
  let l := ((List.range (min bound (used.length + n))).filter fun i => !used.contains i).take n
  if l.length = n then some l else none

/-- The gangs of a team: role, number and members (04 R70, R71). -/
def Launch.gangList (l : Launch) : List (Nat × Nat × List Nat) :=
  l.roleStarts.zipIdx.flatMap fun ((o, r), k) =>
    if r.gang = 0 then []
    else (List.range (r.warps / r.gang)).map fun j => (k, j, (List.range r.gang).map fun i => o + j * r.gang + i)

/-- Every save index that a team on k cores needs is free: for its warps, its gangs and its cores. -/
def State.teamIdx (s : State) (l : Launch) (k : Nat) : Option (List Nat × List Nat × List Nat) :=
  match AMap.get s.ctxs l.ctx with
  | none => none
  | some c =>
    match freeIdx (s.warpIdx l.ctx) c.wsn l.warps, freeIdx (s.gangIdx l.ctx) c.gsn l.gangList.length,
        freeIdx (s.allotIdx l.ctx) c.asn k with
    | some a, some b, some d => some (a, b, d)
    | _, _, _ => none

/-- The smallest number of cores, below a bound, on which a team fits now, and the cores; none while a bank of its launch waits
for the answer to a fault (03 R53, 04 R73, 18 R392). -/
def State.placeable (s : State) (l : Launch) (below : Nat) : Option (List Nat) :=
  if s.loadHeld l then none
  else (List.range (min 16 (below - 1))).findSome? fun k =>
    match l.split (k + 1), s.teamIdx l (k + 1) with
    | some shares, some _ => findCores (s.coreFits l) l.hasGangs shares
    | _, _ => none

/-! ### The order of waiting teams (17 R385) -/

/-- Issue class, then earliest deadline (none last), then acceptance. -/
def State.launchBefore (s : State) (a b : Launch) : Bool :=
  let dl (l : Launch) : Nat := if l.deadline = 0 then 2 ^ 64 else l.deadline
  let ca := s.launchClass a
  let cb := s.launchClass b
  if ca != cb then ca < cb else if dl a != dl b then dl a < dl b else a.serial ≤ b.serial

/-- The launches with teams to place, first to last. -/
def State.waitingLaunches (s : State) : List (Nat × Launch) :=
  sortBy (fun a b => s.launchBefore a.2 b.2) (s.launches.filter fun (_, l) => l.next < l.teams && s.ctxStarts l.ctx)

/-- The first team has waited 1 ms of global time. -/
def State.starves (s : State) (l : Launch) : Bool := l.started + 1000000 ≤ s.nsAt l.die

/-- The order lets a launch's next team be placed: no team before it fits, and the first does not hold back the others. -/
def State.mayPlace (s : State) (lid : Nat) : Bool :=
  match s.waitingLaunches with
  | [] => false
  | first :: rest =>
    first.1 == lid ||
      (!s.starves first.2 && rest.any (fun x => x.1 == lid)
        && ((first :: rest).takeWhile fun x => x.1 != lid).all fun x => (s.placeable x.2 17).isNone)

/-- DISPATCH_STARVATION: the first team of the order has waited 1 ms: no later one is placed, and evictions are requested for
it (17 R385). -/
def execDispatchStarvation (s : State) : Host.Outcome State Fault Refusal :=
  .next (match s.waitingLaunches with
    | (id, l) :: _ =>
      if s.starves l && l.die == s.ev.unit then s.modDie l.die fun d => { d with starving := some id } else s
    | [] => s)

/-- ISSUE_CLASS_BOOST: the global time has reached a launch's deadline less the boost window (17 R386). -/
def execIssueClassBoost (s : State) : Host.Outcome State Fault Refusal :=
  .next (s.modLaunch s.ev.unit fun l =>
    if l.deadline != 0 && l.deadline ≤ s.nsAt l.die + l.window then { l with boosted := true } else l)

/-! ### Placing a team (04 R72-R75, 17 R384) -/

/-- The stochastic-rounding state of a lane at warp start, by team and team lane (02 R31). -/
def srSeed (t L : Nat) : BitVec 32 := srStore (BitVec.ofNat 32 ((t * 65536 + L + 1) * 0x9E3779B9))

/-- A lane at its warp's start, at the entry header. -/
def Lane.start (entry : Word) (t L : Nat) : Lane where
  pc := entry
  live := true
  held := false
  bypass := 0
  hdr := entry
  stage := .arrived
  way := .launch
  bundle := 0
  homeHdr := 0
  homeBundle := 0
  changed := false
  sr := srSeed t L
  hlane := false
  tret := false

/-- A warp at its start (04 R67, 05 Table 5.1, 07 R156, 18 Table 18.7). -/
def Warp.start (ctx launch team width nw : Nat) (lanes : List Lane) : Warp where
  ctx := ctx
  launch := launch
  team := team
  teamWarp := 0
  teamCore := 0
  role := 0
  roleWarp := 0
  gang := none
  gangNumber := none
  width := width
  nw := nw
  strict := false
  saveIdx := 0
  lanes := lanes
  v := []
  w := []
  p := []
  t := []
  q := []
  counters := []
  relTimes := []
  mode := 0
  zlane := false
  pts := 0
  ptsSince := 0
  handler := false
  stop := false
  pend := false
  hvec := 0
  tcause := 0
  tinfo := 0
  tepc := 0
  tmask := 0
  task := ⟨false, 0, 0⟩
  barWaits := []
  search := none
  floor := 0
  peak := 255
  res := []
  nextBundle := 1
  spilled := []
  refillRes := []
  placed := 0
  issuedAt := 0
  yieldUntil := none
  yieldNext := false
  draining := false
  asked := .none
  askedAt := 0
  awaitV := []
  awaitW := []
  owed := []
  flight := []
  sending := none
  cmdTimes := ⟨0, 0, 0⟩
  faultPcs := []
  gangWait := false

/-- The allotment of a team on one core as it is given, before it is cleared (08 R178, 10 R228, R229). -/
def Launch.allot (l : Launch) (lid team core j warps save : Nat) : Allot where
  ctx := l.ctx
  launch := lid
  team := team
  core := core
  teamCore := j
  units := l.units
  warps := warps
  seats := []
  saveIdx := save
  cleared := false
  saved := false
  mem := []
  lines := []
  maps := []
  spTimes := []
  queues := []
  deques := []
  edges := []
  barriers := []
  nBarriers := l.barriers
  written := []

/-- A gang at placement, not formed (11 R241). -/
def Launch.gangAt (l : Launch) (lid team role number cluster save : Nat) (members : List Nat) : Gang where
  ctx := l.ctx
  launch := lid
  team := team
  role := role
  number := number
  cluster := cluster
  members := members
  saveIdx := save
  latch := none
  arrived := []
  relArrived := []
  waiters := []
  waiting := false
  age := 0
  turn := 0
  tiles := none
  released := false
  restore := false

/-- A team warp as it starts: at its role's entry header, with the launch arguments (04 R71, 17 R384), resident from now on
(13 R304). -/
def Launch.warpAt (l : Launch) (lid team teamNo tw j save now time : Nat) (gang : Option Nat) : Warp :=
  let (role, rw, r) := (roleOf l.roleList 0 tw).getD (0, tw, ⟨l.entry, 0, 0, 0⟩)
  let lanes := (List.range l.width).map fun i => Lane.start r.entry teamNo (tw * l.width + i)
  let w := Warp.start l.ctx lid team l.width l.nw lanes
  let w := { w with
    teamWarp := tw, teamCore := j, role := role, roleWarp := rw, gang := gang, strict := l.strict, saveIdx := save
    gangNumber := if r.gang = 0 then none else some (rw / r.gang)
    floor := r.floor, peak := l.peak, placed := now, issuedAt := now, pts := time, ptsSince := now }
  (l.args.zipIdx.take 8).foldl (fun w (x, k) => w.setW k x) w

/-- The lowest free slot of a quarter (04 R75). -/
def State.lowestSlot (s : State) (core q : Nat) : Nat :=
  let base := core * 64 + q * 16
  ((List.range 16).find? fun k => (s.warp? (base + k)).isNone).getD 0 + base

/-- A share of a team put on its core: its allotment and its warps (04 R75, 08 R178). -/
def State.placeShare (s : State) (l : Launch) (lid tid core j : Nat) (share : List Nat) (aidx : Nat) (idx : List Nat)
    (gangOf : Nat → Option Nat) : State :=
  let (aid, s) := s.fresh
  let s := { s with allots := AMap.set s.allots aid (l.allot lid tid core j share.length aidx) }
  let b := s.firstQuarter core
  let now := (s.die (dieOfCore core)).cycles
  share.zipIdx.foldl (fun s (tw, i) =>
    let wid := s.lowestSlot core ((i + b) % 4)
    (s.setWarp wid (l.warpAt lid tid l.next tw j ((idx[tw]?).getD 0) now l.time (gangOf tw))).modAllot aid fun a =>
      { a with seats := AMap.set a.seats tw (wid % 64) }) s

/-- A team placed whole on its cores; its launch has one team fewer to place. The warps start at the front-end time of the
die that accepted the launch (13 R314). -/
def State.placeTeam (s : State) (lid : Nat) (l : Launch) (shares : List (List Nat)) (cores : List Nat)
    (idx : List Nat × List Nat × List Nat) : State :=
  let l := { l with time := (s.die l.die).feuTime }
  let (tid, s) := s.fresh
  let coreOfWarp (tw : Nat) : Nat := ((shares.zip cores).find? fun (sh, _) => sh.contains tw).map (·.2) |>.getD 0
  let s := { s with teams := AMap.set s.teams tid ⟨lid, l.next, .placed, cores, s.ns, [], l.warps⟩ }
  let base := s.uid
  let gangs := l.gangList.zipIdx.map fun ((r, j, ms), k) =>
    (base + k, l.gangAt lid tid r j (clusterOfCore (coreOfWarp ((ms.head?).getD 0))) ((idx.2.1[k]?).getD 0) ms)
  let s := { s with uid := base + gangs.length, gangs := gangs.foldl (fun m (k, g) => AMap.set m k g) s.gangs }
  let gangOf (tw : Nat) : Option Nat := (gangs.find? fun (_, g) => g.members.contains tw).map (·.1)
  let s := (shares.zip cores).zipIdx.foldl (fun s ((sh, c), j) =>
    s.placeShare l lid tid c j sh ((idx.2.2[j]?).getD 0) idx.1 gangOf) s
  let now := (s.die (dieOfCore ((cores.head?).getD 0))).cycles
  { s with
    launches := AMap.set s.launches lid { l with next := l.next + 1, placedAt := now }
    evicts := s.evicts.filter fun e => e.team != lid }

/-- The cores meet R73 for a team: on one die, all different, in clusters where it has gangs, each with room and its bank
loaded (03 R52). -/
def State.coresOk (s : State) (l : Launch) (shares : List (List Nat)) (cores : List Nat) : Bool :=
  cores.length == shares.length && cores.eraseDups.length == cores.length
  && cores.all (fun c => c < 320 && dieOfCore c == dieOfCore ((cores.head?).getD 0))
  && (!l.hasGangs || (fours cores).all fun g => g.all fun c => clusterOfCore c == clusterOfCore ((g.head?).getD 0))
  && (cores.zip shares).all fun (c, sh) => s.coreFits l c sh && s.bankReady c l

/-- TEAM_PLACEMENT: the next team of a launch goes on the smallest number of cores that takes it, if the order lets it and
every bank is loaded (04 R72-R75, 17 R385). -/
def execTeamPlacement (s : State) : Host.Outcome State Fault Refusal :=
  let lid := s.ev.unit
  let cores := s.ev.nums
  .next (match AMap.get s.launches lid with
    | none => s
    | some l =>
      match l.split cores.length, s.teamIdx l cores.length with
      | some shares, some idx =>
        if cores.length < 1 || 16 < cores.length || !s.mayPlace lid || s.loadHeld l || (s.placeable l cores.length).isSome
            || !s.coresOk l shares cores then s
        else s.placeTeam lid l shares cores idx
      | _, _ => s)

/-- ALLOTMENT_CLEAR: the whole allotment reads zero and every line is present (08 R178). -/
def execAllotmentClear (s : State) : Host.Outcome State Fault Refusal :=
  .next (s.modAllot s.ev.unit fun a => if a.cleared then a else { a with mem := [], lines := [], cleared := true })

/-! ### Drains (04 R93) -/

/-- An owner renamed. -/
def Owner.rename (a b : Nat) : Owner → Owner
  | .warp w k => .warp (if w = a then b else w) k
  | x => x

/-- What a fault record holds, renamed. -/
def Held.rename (a b : Nat) : Held → Held
  | .lanes w pc => .lanes (if w = a then b else w) pc
  | .entry w h => .entry (if w = a then b else w) h
  | .drain w => .drain (if w = a then b else w)
  | .control w => .control (if w = a then b else w)
  | .reply w => .reply (if w = a then b else w)
  | .save k w => .save k (if w = a && (k = 0 || 4 ≤ k) then b else w)
  | x => x

/-- A warp known by another number wherever something refers to it: commands, entries, rays, waiting contributions, launches
and fault records. It leaves its core's sluice and queues. -/
def State.renameWarp (s : State) (a b : Nat) : State :=
  let r (w : Nat) : Nat := if w = a then b else w
  { s with
    clusters := s.clusters.map fun (k, c) =>
      (k, { c with
        cpe := c.cpe.map fun (n, x) => (n, { x with owner := x.owner.rename a b })
        entries := c.entries.map fun (n, e) =>
          (n, { e with wid := r e.wid, seat := if e.wid = a && b < savedWid then b else e.seat }) })
    cores := s.cores.map fun (k, c) =>
      (k, { c with
        sluice := c.sluice.filter fun x => x.2.wid != a
        blocked := c.blocked.filter fun x => x.wid != a
        tvu := { c.tvu with jobs := c.tvu.jobs.map fun (n, j) => (n, { j with wid := r j.wid }) } })
    dies := s.dies.map fun d =>
      { d with
        builders := d.builders.map fun x => { x with queue := x.queue.map fun c => { c with owner := c.owner.rename a b } }
        faults := d.faults.map fun (n, f) => (n, { f with held := f.held.rename a b })
        traps := d.traps.map fun t => { t with wid := r t.wid } }
    slotWaits := s.slotWaits.map fun x => { x with wid := r x.wid }
    launches := s.launches.map fun (n, l) => (n, { l with owner := l.owner.rename a b })
    links := { s.links with waiting := s.links.waiting.map fun (p, w, pc) => (p, r w, pc) } }

/-- Gangs of a team whose warps are all gone and whose tiles have returned. -/
def State.reapGangs (s : State) (team : Nat) : State :=
  { s with gangs := s.gangs.filter fun (_, g) =>
      !(g.team == team && g.tiles.isNone && !(g.members.any (s.teamWarpHere team))) }

/-- A warp that drains or is saved is a victim of no request any more, and a request that has ended on its core makes room for a new
one (18 R412). -/
def State.dropVictim (s : State) (wid : Nat) : State :=
  let past (e : Evict) : Bool := e.ended && e.cores.contains (coreOf wid)
  { s with evicts := (s.evicts.filter fun e => !past e).map fun e => { e with victims := e.victims.filter (· != wid) } }

/-- A drained warp leaves its slot: its indices, slot, uniform registers and hold on its bank return, its rendezvous counts it
out, and its writes count in its launch (04 R93, 11 R241, 18 R392). -/
def State.leaveSlot (s : State) (wid : Nat) (w : Warp) : State :=
  let s := { ((s.renameWarp wid nobody).dropVictim wid) with warps := AMap.erase s.warps wid }
  let s := match w.gang with
    | some g => s.settleGang g wid
    | none => s
  let s := s.freeBank (coreOf wid) (s.launchOf w)
  ((s.reapGangs w.team).modLaunch w.launch fun l => { l with doneTime := max l.doneTime (max w.pts w.cmdTimes.domain) })

/-- What a warp that drains does next, if it can (04 R93, 09 R212): with no live lane it performs TASKDONE for a task it holds, and once
its twelve counters read 0 it releases its slot. A fault of the TASKDONE is held with the warp. -/
def State.drains (s : State) (wid : Nat) (w : Warp) : Option State :=
  if !w.draining || w.faultPcs.contains 0 || 6 < s.haltStepOf w.ctx then none
  else if w.task.valid then
    match s.rootUpdate wid w.ctx w.task.root (rootReturn w.task.tw) with
    | .done s _ => some (s.setTask wid { w.task with valid := false })
    | .wait _ => none
    | .fault s va k => (s.recordFault (dieOf wid) w.ctx 0 .readWrite k va (.drain wid)).map fun s =>
        s.modWarp wid fun w => { w with faultPcs := 0 :: w.faultPcs }
  else if w.idle && w.owed.isEmpty then some (s.leaveSlot wid w) else none

/-- WARP_DRAIN_END (04 R93). -/
def execWarpDrainEnd (s : State) : Host.Outcome State Fault Refusal :=
  let wid := s.ev.unit
  .next (((s.warp? wid).bind (s.drains wid)).getD s)

/-! ### The end of an allotment and of a team (08 R180) -/

/-- Every mapping of an allotment written back and deregistered, as SPUNMAP does. -/
def State.unmapAll (s : State) (id : Nat) : State :=
  match AMap.get s.allots id with
  | none => s
  | some a => (a.maps.map (·.1)).foldl (fun s e => s.unmapRange id e) s

/-- Trace slots of an allotment end with it (15 R331). -/
def State.endSlots (s : State) (core id : Nat) : State :=
  let gone := (((s.core core).slots.filter fun (_, t) => t.allot == id).map (·.1))
  let keep {α : Type} (m : AMap α) : AMap α := m.filter fun (k, _) => !gone.contains (k / 4096)
  s.modCore core fun c =>
    { c with
      slots := c.slots.filter fun (_, t) => t.allot != id
      blocked := c.blocked.filter fun b => b.allot != id
      tvu := { c.tvu with
        rays := keep c.tvu.rays, times := keep c.tvu.times, jobOf := keep c.tvu.jobOf
        resume := c.tvu.resume.filter fun (k, _) => !gone.contains k } }

/-- A command that names an allotment is in flight or stopped, or a matrix entry of its team. -/
def State.allotBusy (s : State) (id : Nat) (a : Allot) : Bool :=
  (s.clusters.any fun (_, c) => c.cpe.any (fun (_, x) => x.allot == some id)
    || c.entries.any fun (_, e) => s.entryTeam e == a.team)
  || s.saved.any fun (_, x) => match x with
    | .cmd _ c => c.allot == some id
    | .gang g es => !es.isEmpty && ((AMap.get s.gangs g).map (·.team)) == some a.team
    | _ => false

/-- A team ends when its last allotment is freed; its launch may complete with it (04 R93, 08 R180). -/
def State.endTeam (s : State) (team launch : Nat) : State :=
  if s.allots.any fun (_, a) => a.team == team then s
  else
    let s := (s.reapGangs team)
    let s := { s with teams := AMap.erase s.teams team }
    (s.modLaunch launch fun l => { l with teamsDone := l.teamsDone + 1 }).finishLaunch launch

/-- An allotment may be freed: the team's warps on the core have drained and no command names it (08 R180). -/
def State.freeable (s : State) (id : Nat) (a : Allot) : Bool :=
  (s.warpsOn a).isEmpty && !s.allotBusy id a && !a.saved && a.maps.all fun (k, _) => a.readyToWriteBack k

/-- ALLOTMENT_FREE: once the team's warps on the core have drained and no command names the allotment, its mappings are
written back and deregistered and it is freed (08 R180). -/
def execAllotmentFree (s : State) : Host.Outcome State Fault Refusal :=
  let id := s.ev.unit
  .next (match AMap.get s.allots id with
    | none => s
    | some a =>
      if !s.freeable id a then s
      else
        let s := (s.unmapAll id).endSlots a.core id
        ({ s with allots := AMap.erase s.allots id }).endTeam a.team a.launch)

/-! ### Accepting a launch (17 R384, R390) -/

/-- Launches of a die that the front end holds: accepted and not complete (17 R390). -/
def State.pendingOn (s : State) (die : Nat) : Nat := (s.launches.filter fun (_, l) => l.die == die).length

/-- The entry headers read in turn: the first that is no header of kind 0xC refuses the launch (17 R384 check 6). -/
def checkEntries (die ctx : Nat) : List Word → State → State × FeRes Nat
  | [], s => (s, .ok 0)
  | e :: es, s =>
    match s.feQuad die ctx e with
    | (s, .fault va k) => (s, .fault va k)
    | (s, .wait) => (s, .wait)
    | (s, .ok h) => if e.toNat % 8 != 0 || (headerOf h).kind != 0xC then (s, .ok 0x10) else checkEntries die ctx es s

/-- A descriptor read and checked by a die's front end, and its launch accepted where no check fails: the result of R384. -/
def State.submit (s : State) (die ctx : Nat) (desc : Word) (args : List Word) (dc deadline window : Nat)
    (queue : Option Nat) (owner : Owner) : State × FeRes Nat :=
  match s.feRead die ctx desc 128 with
  | (s, .fault va k) => (s, .fault va k)
  | (s, .wait) => (s, .wait)
  | (s, .ok d) =>
    let l := descLaunch ctx die d args dc deadline window queue owner
    let code := descCode d l
    if code != 0 then (s, .ok code)
    else match checkEntries die ctx (l.roleList.map (·.entry)) s with
      | (s, .ok 0) =>
        if !l.fitsEmpty then (s, .ok 0x15)
        else
          let (id, s) := s.fresh
          let s := { s with stamp := s.stamp + 1 }
          let l := { l with serial := s.stamp, started := s.nsAt l.die }
          ({ s with launches := AMap.set s.launches id l }, .ok 0)
      | r => r

end Sys2Proof.Machine
end

