-- ==== Sys2Proof/Machine/FrontEnd.lean ====
section
/-! DEFINITION. Work queues and their front ends: slots, Nibex programs, tickets and notifies, LAUNCH and NOTIFY (17 R374-R390). -/
namespace Sys2Proof.Machine

/-! ### Queues (17 R374-R379) -/

/-- The die whose front end serves a queue. -/
def dieOfQueue (q : Nat) : Nat := q / 128

/-- The address of a command slot. -/
def Queue.slotAddr (k : Queue) (i : Nat) : Word := k.ring + BitVec.ofNat 64 (64 * (i % 2 ^ k.k))

/-- A range lies wholly in one of a queue's windows (17 R383). -/
def Queue.inWindow (k : Queue) (va : Word) (n : Nat) : Bool :=
  k.windows.any fun w => w.base ≤ va.toNat && va.toNat + n ≤ w.base + w.len

/-- The peer that owns a queue's context. -/
def State.queueOwner (s : State) (k : Queue) : Nat := ((AMap.get s.ctxs k.ctx).map (·.owner)).getD 0

/-- A queue stops with an error code: no further command runs, and the owner is informed (17 R377). -/
def State.stopQueue (s : State) (q code : Nat) : State :=
  match AMap.get s.queues q with
  | none => s
  | some k =>
    (s.modQueue q fun k => { k with status := code, stopped := true, running := none, notified := false }).post
      ⟨s.queueOwner k, 4, [q, code]⟩

/-- A queue's step held under a recorded fault of unit 6, or waiting for a place in the fault queue (17 R383). -/
def State.faultQueue (s : State) (q : Nat) (k : Queue) (acc : Acc) (va : Word) (kind : FaultKind) : State :=
  match s.recordFault (dieOfQueue q) k.ctx 6 acc kind va (.frontEnd q) with
  | some s => s.modQueue q fun k => { k with faulted := true }
  | none => s

/-- A queue whose front end may take a step for it (17 R377, R383, 18 R407). -/
def State.queueRuns (s : State) (k : Queue) : Bool :=
  !k.stopped && !k.faulted && !k.destroying && s.ctxStarts k.ctx

/-- The start of a command: its registers are 0 (17 R381). -/
def Queue.start (k : Queue) (quad0 deadline : Word) : Queue :=
  { k with
    serial := k.serial + 1
    running := some ⟨k.rd, k.serial + 1, List.replicate 8 0, 0, 0, deadline.toNat, quad0⟩ }

/-- The slot at RD examined (17 R377): it runs, is not published yet, or stops the queue. Quadword 0 is read first, and the
deadline before the program starts (17 R376, R385). -/
def State.examineSlot (s : State) (q : Nat) : State :=
  match AMap.get s.queues q with
  | none => s
  | some k =>
    if !s.queueRuns k || k.running.isSome then s
    else if !k.classL && !k.commits.contains (k.rd % 2 ^ k.k) then s.modQueue q fun k => { k with notified := false }
    else
      let die := dieOfQueue q
      match s.feQuad die k.ctx (k.slotAddr k.rd) with
      | (s, .fault va kind) => s.faultQueue q k .read va kind
      | (s, .wait) => s
      | (s, .ok x) =>
        let e := (k.rd + 1) % 2 ^ 32
        let seq := natBits x.toNat 31 0
        if seq = e then
          if natBits x.toNat 55 48 != 1 || natBits x.toNat 47 32 != 0 then s.stopQueue q 3
          else match s.feQuad die k.ctx (k.slotAddr k.rd + 8) with
            | (s, .fault va kind) => s.faultQueue q k .read va kind
            | (s, .wait) => s
            | (s, .ok d) => s.modQueue q fun k => k.start x d
        else if seq = 0 || seq = (e + 2 ^ 32 - 2 ^ k.k) % 2 ^ 32 then s.modQueue q fun k => { k with notified := false }
        else s.stopQueue q 1

/-- FEU_SLOT_EXAMINE (17 R377). -/
def execFeuSlotExamine (s : State) : Host.Outcome State Fault Refusal := .next (s.examineSlot s.ev.unit)

/-- QUEUE_RESTART: the supervisor sets RD of a stopped queue and clears STATUS (17 R377). -/
def execQueueRestart (s : State) : Host.Outcome State Fault Refusal :=
  .next (s.modQueue s.ev.unit fun k =>
    if k.stopped then { k with rd := s.ev.item % 2 ^ 64, status := 0, stopped := false, notified := true } else k)

/-! ### Peers (17 R375, R378, R379) -/

/-- The identifier of the peer whose access an event is, as its link header gives it: a UALink peer's accelerator number, or an Ultra
Ethernet peer's fabric address (19 R421). -/
def State.peerId (s : State) : Nat := if s.ev.ether then 2 ^ 63 + s.ev.unit % 2 ^ 48 else 2 ^ 62 + s.ev.unit % 2 ^ 10

/-- A peer that the queue's owner admits, or the owner. -/
def State.admits (s : State) (k : Queue) (peer : Nat) : Bool := peer == s.queueOwner k || k.peers.contains peer

/-- A link access without effect is answered with an error completion. -/
def State.refusePeer (s : State) (peer : Nat) : State := s.post ⟨peer, 1, []⟩

/-- A queue that has a window: one that is being destroyed has none (19 R424). -/
def State.liveQueue (s : State) (q : Nat) : Option Queue := (AMap.get s.queues q).filter fun k => !k.destroying

/-- A read of TICKET: it reserves a slot, or says that the ring is full; class L reads all ones (17 R378). -/
def State.readTicket (s : State) (peer q : Nat) : State :=
  match s.liveQueue q with
  | none => s.refusePeer peer
  | some k =>
    if !s.admits k peer then s.refusePeer peer
    else if !k.classL && k.tk < k.rd + 2 ^ k.k then
      (s.modQueue q fun k => { k with tk := (k.tk + 1) % 2 ^ 64 }).post ⟨peer, 0, [k.tk]⟩
    else s.post ⟨peer, 0, [2 ^ 64 - 1]⟩

/-- TICKET: a peer's read of offset 0 of a queue window (17 R378). -/
def execTicket (s : State) : Host.Outcome State Fault Refusal := .next (s.readTicket s.peerId s.ev.item)

/-- The tag of a notify record (17 R379). -/
def notifyTag (key : Nat) (rec : List Byte) : Nat := kmac256 key "HY960 NOTIFY" (rec.take 16)

/-- A notify record: an accepted one stores its nonce and sets its slot's commit bit, and the front end's time passes the
peer's writes; for a slot committed already it only advances the nonce; any other is dropped and counted (17 R379, R388). -/
def State.takeNotify (s : State) (peer q : Nat) (r : List Byte) : State :=
  match s.liveQueue q with
  | none => s.refusePeer peer
  | some k =>
    if !s.admits k peer then s.refusePeer peer
    else if k.classL || r.length != 32 then s.post ⟨peer, 2, []⟩
    else
      let slot := numIn r 1 7
      let nonce := numIn r 8 8
      let ok := numIn r 16 16 == notifyTag k.key r && numIn r 0 1 == q && k.nonce < nonce
        && k.rd ≤ slot && slot < k.tk
      let c := slot % 2 ^ k.k
      if ok && k.commits.contains c then (s.modQueue q fun k => { k with nonce := nonce }).post ⟨peer, 2, []⟩
      else if ok then
        ((s.modQueue q fun k => { k with nonce := nonce, notified := true, commits := k.commits ++ [c] }).raiseFront
          (dieOfQueue q) s.links.time).post ⟨peer, 2, []⟩
      else (s.modQueue q fun k => { k with badNotify := (k.badNotify + 1) % 2 ^ 64 }).post ⟨peer, 2, []⟩

/-- NOTIFY_RECORD: a peer's write of the 32 bytes at 0x040 of a queue window (17 R379). -/
def execNotifyRecord (s : State) : Host.Outcome State Fault Refusal := .next (s.takeNotify s.peerId s.ev.item s.ev.bytes)

/-! ### A Nibex step (17 R381, R383) -/

/-- How a step ends: registers written and instructions skipped, a wait, a held fault, the queue stopped, or the command
ended. -/
inductive NRes where
  | go (s : State) (x : List Word) (goal : Nat)
  | wait (s : State)
  | hold (s : State) (acc : Acc) (va : Word) (k : FaultKind)
  | stop (s : State) (code : Nat)
  | done (s : State)

/-- What a step is given: its queue, the command, and the instruction's registers and immediate. -/
structure Nx where
  q : Nat
  k : Queue
  r : Running
  f : NibexFields

def Nx.die (n : Nx) : Nat := dieOfQueue n.q
/-- x_a and x_b. -/
def Nx.xa (n : Nx) : Word := (n.r.x[n.f.a.toNat]?).getD 0
def Nx.xb (n : Nx) : Word := (n.r.x[n.f.b.toNat]?).getD 0
/-- The immediate, signed. -/
def Nx.imm (n : Nx) : Int := n.f.imm.toInt
def Nx.immWord (n : Nx) : Word := BitVec.ofInt 64 n.imm
/-- The next instruction. -/
def Nx.next (n : Nx) : Nat := n.r.pc + 1
/-- The registers with x_a, or x_b, written. -/
def Nx.setA (n : Nx) (x : Word) : List Word := n.r.x.set n.f.a.toNat x
def Nx.setB (n : Nx) (x : Word) : List Word := n.r.x.set n.f.b.toNat x

/-- The meaning of a Nibex instruction: a step of the command that the step names. -/
def nibex (f : NibexFields) (s : State) (body : Nx → State → NRes) : Host.Outcome State Fault Refusal :=
  match s.nib.bind fun q => (AMap.get s.queues q).bind fun k => k.running.map fun r => (⟨q, k, r, f⟩ : Nx) with
  | none => .fault .noCommand
  | some n =>
    .next (match body n s with
      | .go s x goal =>
        s.modQueue n.q fun k => { k with running := k.running.map fun r => { r with x := x, pc := goal, steps := r.steps + 1 } }
      | .wait s => s
      | .hold s acc va kind => s.faultQueue n.q n.k acc va kind
      | .stop s code => s.stopQueue n.q code
      | .done s => s)

/-- A step that only writes x_a. -/
def nibexSet (f : NibexFields) (s : State) (val : Nx → Word) : Host.Outcome State Fault Refusal :=
  nibex f s fun n s => .go s (n.setA (val n)) n.next

/-- HALT: the command ends, RD passes its slot, and the next slot is examined. A class L queue's control block takes RD
first (17 R379-R381). -/
def execNxHalt (f : NibexFields) (s : State) : Host.Outcome State Fault Refusal :=
  nibex f s fun n s =>
    let rd := (n.k.rd + 1) % 2 ^ 64
    let pass (s : State) : State := s.modQueue n.q fun k =>
      { k with
        rd := rd, commits := k.commits.filter (· != k.rd % 2 ^ k.k), running := none, notified := true }
    if n.k.classL then
      match s.feStore n.die n.k.ctx 0 n.k.control (BitVec.ofNat 64 rd) with
      | (s, .fault va kind) => .hold s .write va kind
      | (s, .wait) => .wait s
      | (s, .ok _) => .done (pass s)
    else .done (pass s)

/-- LDC: a quadword of the command; the first two were read when it was examined. -/
def execNxLdc (f : NibexFields) (s : State) : Host.Outcome State Fault Refusal :=
  nibex f s fun n s =>
    let i := n.f.imm.toNat
    if i = 0 then .go s (n.setA n.r.quad0) n.next
    else if i = 1 then .go s (n.setA (BitVec.ofNat 64 n.r.deadline)) n.next
    else match s.feQuad n.die n.k.ctx (n.k.slotAddr n.r.slot + BitVec.ofNat 64 (8 * i)) with
      | (s, .fault va kind) => .hold s .read va kind
      | (s, .wait) => .wait s
      | (s, .ok x) => .go s (n.setA x) n.next

/-- LDI. -/
def execNxLdi (f : NibexFields) (s : State) : Host.Outcome State Fault Refusal := nibexSet f s Nx.immWord
/-- ADDI. -/
def execNxAddi (f : NibexFields) (s : State) : Host.Outcome State Fault Refusal := nibexSet f s fun n => n.xb + n.immWord
/-- ADD. -/
def execNxAdd (f : NibexFields) (s : State) : Host.Outcome State Fault Refusal := nibexSet f s fun n => n.xa + n.xb
/-- AND. -/
def execNxAnd (f : NibexFields) (s : State) : Host.Outcome State Fault Refusal := nibexSet f s fun n => n.xa &&& n.xb
/-- SHR. -/
def execNxShr (f : NibexFields) (s : State) : Host.Outcome State Fault Refusal :=
  nibexSet f s fun n => n.xa >>> n.f.imm.toNat
/-- SHL. -/
def execNxShl (f : NibexFields) (s : State) : Host.Outcome State Fault Refusal :=
  nibexSet f s fun n => n.xa <<< n.f.imm.toNat

/-- LDM: 8 bytes within a window (17 R383). -/
def execNxLdm (f : NibexFields) (s : State) : Host.Outcome State Fault Refusal :=
  nibex f s fun n s =>
    let va := n.xb + n.immWord
    if !n.k.inWindow va 8 then .stop s 4
    else match s.feQuad n.die n.k.ctx va with
      | (s, .fault va kind) => .hold s .read va kind
      | (s, .wait) => .wait s
      | (s, .ok x) => .go s (n.setA x) n.next

/-- STM: 8 bytes within a window (17 R383). -/
def execNxStm (f : NibexFields) (s : State) : Host.Outcome State Fault Refusal :=
  nibex f s fun n s =>
    let va := n.xb + n.immWord
    if !n.k.inWindow va 8 then .stop s 4
    else match s.feStore n.die n.k.ctx 0 va n.xa with
      | (s, .fault va kind) => .hold s .write va kind
      | (s, .wait) => .wait s
      | (s, .ok _) => .go s n.r.x n.next

/-- A forward skip. -/
def nibexSkip (f : NibexFields) (s : State) (cond : Nx → Bool) : Host.Outcome State Fault Refusal :=
  nibex f s fun n s => .go s n.r.x (if cond n then n.next + n.f.imm.toNat else n.next)

/-- BEQ. -/
def execNxBeq (f : NibexFields) (s : State) : Host.Outcome State Fault Refusal := nibexSkip f s fun n => n.xa == n.xb
/-- BNE. -/
def execNxBne (f : NibexFields) (s : State) : Host.Outcome State Fault Refusal := nibexSkip f s fun n => n.xa != n.xb
/-- BLTU. -/
def execNxBltu (f : NibexFields) (s : State) : Host.Outcome State Fault Refusal :=
  nibexSkip f s fun n => n.xa.toNat < n.xb.toNat

/-- DJNZ: back by the immediate while the register counts down. -/
def execNxDjnz (f : NibexFields) (s : State) : Host.Outcome State Fault Refusal :=
  nibex f s fun n s =>
    let x := n.xa - 1
    .go s (n.setA x) (if x != 0 then n.r.pc - n.f.imm.toNat else n.next)

/-- Work started by a command counts until it completes. -/
def State.startWork (s : State) (n : Nx) : State := s.modQueue n.q fun k => { k with work := AMap.upd k.work n.r.serial 0 (· + 1) }

/-- NLAUNCH: waits while the die's pending launches are 1,024; the result goes to x_b (17 R384, R390). -/
def execNxNlaunch (f : NibexFields) (s : State) : Host.Outcome State Fault Refusal :=
  nibex f s fun n s =>
    if 1024 ≤ s.pendingOn n.die then .wait s
    else match s.submit n.die n.k.ctx n.xa n.r.x n.k.dc n.r.deadline n.k.window (some n.q) (.nibex n.q n.r.serial) with
      | (s, .fault va kind) => .hold s .read va kind
      | (s, .wait) => .wait s
      | (s, .ok code) =>
        .go (if code = 0 then s.startWork n else s) (n.setB (BitVec.ofNat 64 code)) n.next

/-- NCOPY: a bulk copy by a copy engine of the die, within the windows (17 R383). -/
def execNxNcopy (f : NibexFields) (s : State) : Host.Outcome State Fault Refusal :=
  nibex f s fun n s =>
    let bytes := ((n.r.x[n.f.imm.toNat % 8]?).getD 0).toNat
    if !bulkOk [n.xa, n.xb] bytes || !n.k.inWindow n.xa bytes || !n.k.inWindow n.xb bytes then .stop s 4
    else
      let room := (List.range 40).filter fun c => (s.cpePlace (n.die * 40 + c)).isSome
      match s.chooseFrom room with
      | (none, s) => .wait s
      | (some c, s) =>
        let cl := n.die * 40 + c
        let cmd : Cmd :=
          { kind := .bulkCopy n.xa n.xb bytes, owner := .nibex n.q n.r.serial, ctx := n.k.ctx, launch := none, die := n.die
            allot := none, ord := Ord.plain, hint := 0, time := (s.die n.die).feuTime, stamp := 0, todo := [], old := []
            times := ScopeTimes.zero, faulted := false, stopped := false }
        .go ((s.putCmd cl ((s.cpePlace cl).getD 0) cmd).startWork n) n.r.x n.next

/-- The instruction word of a step, as a builder command's. -/
def Nx.cmdWord (n : Nx) : BitVec 160 := ((n.k.program[n.r.pc]?).getD 0).setWidth 160

/-- The builder command that NBUILD's immediate names. -/
def buildKindOf (i : Nat) : BuildKind :=
  match i with
  | 0 => .build
  | 1 => .refit
  | 2 => .inplace
  | _ => .compact

/-- NBUILD: a builder command with its parameters in memory; its status goes to the 8 bytes at x_b (17 R381, R383). -/
def execNxNbuild (f : NibexFields) (s : State) : Host.Outcome State Fault Refusal :=
  nibex f s fun n s =>
    if n.xa.toNat % 8 != 0 || !n.k.inWindow n.xa 56 || n.xb.toNat % 8 != 0 || !n.k.inWindow n.xb 8 then .stop s 4
    else match s.feRead n.die n.k.ctx n.xa 56 with
      | (s, .fault va kind) => .hold s .read va kind
      | (s, .wait) => .wait s
      | (s, .ok bs) => match s.pickBuilder n.die with
        | none => .wait s
        | some b =>
          let (id, s) := s.fresh
          let c : BCmd :=
            { id := id, half := none, kind := buildKindOf n.f.imm.toNat, word := n.cmdWord
              params := (List.range 7).map fun j => BitVec.ofNat 64 (numIn bs (8 * j) 8)
              owner := .nibex n.q n.r.serial, statusReg := none, statusAddr := some n.xb, ctx := n.k.ctx, launch := none
              die := n.die, ord := Ord.plain, time := (s.die n.die).feuTime, old := [], reads := [], area := none, started := false
              plan := [], status := 0, times := ScopeTimes.zero, faulted := false, stopped := false }
          .go ((s.modBuilder b fun x => { x with queue := x.queue ++ [c] }).startWork n) n.r.x n.next

/-- NWAIT: until all work started by the queue has completed, which the front end's time then passes (17 R381, 13 R314). -/
def execNxNwait (f : NibexFields) (s : State) : Host.Outcome State Fault Refusal :=
  nibex f s fun n s => if n.k.work.isEmpty then .go (s.raiseFront n.die n.k.workTime) n.r.x n.next else .wait s

/-- NDONE: the store is left until all work started by the command has completed (17 R381, R383). -/
def execNxNdone (f : NibexFields) (s : State) : Host.Outcome State Fault Refusal :=
  nibex f s fun n s =>
    if !n.k.inWindow n.xa 8 then .stop s 4
    else
      let (id, s) := s.fresh
      .go (s.modQueue n.q fun k => { k with dones := AMap.set k.dones id ⟨n.r.serial, n.xa, n.xb, false⟩ }) n.r.x n.next

/-- NDONE_STORE: the command's work has completed; the store takes its place as the release of that completion (13 R314,
17 R383). -/
def execNdoneStore (s : State) : Host.Outcome State Fault Refusal :=
  let q := s.ev.unit
  let id := s.ev.item
  .next (match AMap.get s.queues q with
    | none => s
    | some k => match AMap.get k.dones id with
      | none => s
      | some d =>
        if d.faulted || (AMap.get k.work d.serial).isSome || !s.ctxRuns k.ctx then s
        else
          let die := dieOfQueue q
          match s.feStore die k.ctx k.workTime d.addr d.value with
          | (s, .ok _) => s.modQueue q fun k => { k with dones := AMap.erase k.dones id }
          | (s, .wait) => s
          | (s, .fault va kind) =>
            match s.recordFault die k.ctx 6 .write kind va (.done q id) with
            | some s => s.modQueue q fun k => { k with dones := AMap.modify k.dones id fun d => { d with faulted := true } }
            | none => s)

/-- Whether a command has taken the 256 steps it may take (17 R383). -/
def Running.spent (r : Running) : Bool := 256 ≤ r.steps

/-- NIBEX_STEP_BUDGET: a command that has taken 256 steps without HALT stops its queue (17 R383). -/
def execNxStepBudget (s : State) : Host.Outcome State Fault Refusal :=
  .next (match (AMap.get s.queues s.ev.unit).bind (·.running) with
    | some r => if r.spent then s.stopQueue s.ev.unit 2 else s
    | none => s)

/-! ### LAUNCH and NOTIFY (17 R389, R390) -/

/-- LAUNCH: the descriptor goes to the front end of the warp's die, with the deadline class and deadline of the launch that
issues it; the counter falls when the new launch completes, or at once where it is refused (17 R385, R390). -/
def execLaunch (f : Fields) (s : State) : Host.Outcome State Fault Refusal :=
  irlek Enc.launch f s fun i s =>
    let die := dieOf i.wid
    if 1024 ≤ s.pendingOn die || s.contributes i.wid then .wait s
    else
      let s := (s.settleLanes i.wid).raiseFront die i.w.pts
      let base := regNum f.op2
      let args := (List.range 8).map fun j => i.w.wreg (base + j)
      let (dc, deadline, window, queue) := match s.launchOf i.w with
        | some l => (l.dc, l.deadline, l.window, l.queue)
        | none => (0, 0, 0, none)
      match s.submit die i.w.ctx (i.uni 1) args dc deadline window queue (.warp i.wid (counterOf f)) with
      | (s, .fault va k) => .hold s 6 .read va k
      | (s, .wait) => .wait s
      | (s, .ok code) =>
        let s := s.countIssue i.wid f
        let s := if code = 0 then s else { s with stamp := s.stamp + 1 }.owe i.wid f (s.stamp + 1)
        .ok s (i.dest fun _ => BitVec.ofNat 64 code)

/-- NOTIFY: the front end examines a class L queue of the warp's context at RD; a queue that a fault or an absent line holds, or
whose front end may start nothing, keeps the group waiting, and so does a contribution that has no place yet (17 R390). -/
def execNotify (f : Fields) (s : State) : Host.Outcome State Fault Refusal :=
  irlek Enc.notify f s fun i s =>
    let q := (i.uni 1).toNat
    let status (s : State) (n : Nat) : Res := .ok s (i.dest fun _ => BitVec.ofNat 64 n)
    if s.contributes i.wid then .wait s
    else
      let s := s.settleLanes i.wid
      match s.liveQueue q with
      | none => status s 2
      | some k =>
        if !k.classL || k.ctx != i.w.ctx then status s 2
        else if k.stopped then status s 3
        else if k.faulted || !s.ctxStarts k.ctx then .wait s
        else if k.running.isSome then status (s.modQueue q fun k => { k with notified := true }) 1
        else
          let s := (s.modQueue q fun k => { k with notified := true }).examineSlot q
          match AMap.get s.queues q with
          | some k => if k.faulted || (k.notified && k.running.isNone) then .wait s else status s 1
          | none => .wait s

end Sys2Proof.Machine
end

