-- ==== Sys2Proof/Machine/Translation.lean ====
section
/-! DEFINITION. ESYNC, PROBE, page walks, and the supervisor's answers to translation faults (13 R311, R312, 14 R321-R328). -/
namespace Sys2Proof.Machine

/-! ### ESYNC (13 R311, R312) -/

/-- Every prior command of a warp has completed: copy-engine and matrix commands, and RED, REDF and ATOM. -/
def State.commandsDone (s : State) (wid : Nat) (w : Warp) : Bool :=
  let mine (o : Owner) : Bool := match o with
    | .warp x _ => x == wid
    | _ => false
  !(s.clusters.any fun (_, c) => c.cpe.any (fun (_, x) => mine x.owner) || c.entries.any fun (_, e) => e.wid == wid)
    && w.owed.isEmpty && !s.contributes wid

/-- ESYNC in and out: `.in` waits and raises the clock past the commands' writes in scope; `.out` waits for the lane accesses in
scope to take their places. -/
def esync (e : Enc) (f : Fields) (s : State) (inward outward : Bool) : Host.Outcome State Fault Refusal :=
  irlek e f s fun i s =>
    let scope := natBits f.mods.toNat 3 2
    if inward && !s.commandsDone i.wid i.w || outward && s.contributesIn i.wid scope then .wait s
    else
      let s := if inward then s.raisePts i.wid (i.w.cmdTimes.at_ scope) else s
      let s := if outward then s.settled i.wid (dieOf i.wid) scope else s
      .ok s []

/-- ESYNC.both (13 R312). -/
def execEsyncBoth (f : Fields) (s : State) : Host.Outcome State Fault Refusal := esync Enc.esyncBoth f s true true
/-- ESYNC.in (13 R312). -/
def execEsyncIn (f : Fields) (s : State) : Host.Outcome State Fault Refusal := esync Enc.esyncIn f s true false
/-- ESYNC.out (13 R312). -/
def execEsyncOut (f : Fields) (s : State) : Host.Outcome State Fault Refusal := esync Enc.esyncOut f s false true

/-! ### PROBE (14 R327, R328) -/

/-- The result of a probe of one address (14 Table 14.6). -/
def State.probe (s : State) (chain : List Nat) (ctx : Nat) (va : Word) (acc : Acc) : State × Word :=
  let result (status size pa : Nat) : Word := BitVec.ofNat 64 (status * 2 ^ 61 + size * 2 ^ 58 + pa % 2 ^ 56)
  match s.leaf chain ctx va with
  | (s, .error k) => (s, result (k.code + 1) 0 0)
  | (s, .ok e) =>
    let pa := e.pa (va.toNat % 2 ^ 57)
    match e.permits acc with
    | some k => (s, result (k.code + 1) e.size pa)
    | none => (s, result (if s.inMemory pa then 0 else FaultKind.access.code + 1) e.size pa)

/-- The probes of the lanes. -/
def probeLanes (i : Iss) (acc : Acc) : List Nat → State → AMap Word → State × AMap Word
  | [], s, xs => (s, xs)
  | l :: ls, s, xs =>
    let (s, x) := s.probe (laneChain (coreOf i.wid)) i.w.ctx (i.src 1 l) acc
    probeLanes i acc ls s (AMap.set xs l x)

/-- PROBE of a kind of access. -/
def probeOp (e : Enc) (f : Fields) (s : State) (acc : Acc) : Host.Outcome State Fault Refusal :=
  irlek e f s fun i s =>
    let (s, xs) := probeLanes i acc i.loadLanes s []
    .ok s (i.dest fun l => AMap.getD xs l 0)

/-- PROBE.r (14 R328). -/
def execProbeR (f : Fields) (s : State) : Host.Outcome State Fault Refusal := probeOp Enc.probeR f s .read
/-- PROBE.w (14 R328). -/
def execProbeW (f : Fields) (s : State) : Host.Outcome State Fault Refusal := probeOp Enc.probeW f s .write
/-- PROBE.x (14 R328). -/
def execProbeX (f : Fields) (s : State) : Host.Outcome State Fault Refusal := probeOp Enc.probeX f s .execute

/-! ### Walks (14 R321, R323) -/

/-- TLB_MISS_WALK: a miss takes a walker of its die, waits in the walk queue, or is held; misses for one page, of whichever TLBs of
the die, share one walk (14 R323). Every translation also walks by itself where its TLBs miss: walkers and queue change its
timing only. -/
def execTlbMissWalk (s : State) : Host.Outcome State Fault Refusal :=
  let d := s.die s.ev.unit
  let w : Walk := ⟨[s.ev.item], s.ev.third, s.ev.word &&& ~~~0xFFF#64, (d.walks.filter (·.busy)).length < 128⟩
  let same (x : Walk) : Bool := x.ctx == w.ctx && x.va == w.va
  let share (x : Walk) : Walk := if same x then { x with tlbs := (x.tlbs ++ w.tlbs).eraseDups } else x
  .next (if d.walks.any same then s.modDie s.ev.unit fun d => { d with walks := d.walks.map share }
    else if !w.busy && 1024 ≤ (d.walks.filter fun x => !x.busy).length then s
    else s.modDie s.ev.unit fun d => { d with walks := d.walks ++ [w] })

/-- The first waiting walk takes the walker that has become free. -/
def startWalk : List Walk → List Walk
  | [] => []
  | w :: ws => if w.busy then w :: startWalk ws else { w with busy := true } :: ws

/-- WALK_COMPLETE: a walker reads the tables as they stand and fills the TLBs that asked, or finds a fault, which its unit
records when it meets it (14 R321-R324). -/
def execWalkComplete (s : State) : Host.Outcome State Fault Refusal :=
  .next (match (s.die s.ev.unit).walks[s.ev.item]? with
    | none => s
    | some w =>
      if !w.busy then s
      else
        let s := s.modDie s.ev.unit fun d => { d with walks := startWalk (d.walks.eraseIdx s.ev.item) }
        match s.walk w.ctx w.va with
        | .ok e => if canonical w.va then w.tlbs.foldl (fun s t => s.fillTlb e t) s else s
        | .error _ => s)

/-! ### Answers to faults (14 R324, R325, 18 R407, R409) -/

/-- The context of a fault record. -/
def FaultRec.ctx (r : FaultRec) : Nat := natBits r.word.toNat 119 114

/-- The warp whose access or transfer a fault held, by its save index (18 Table 18.1 HWHO). -/
def State.heldWarp (s : State) : Held → Option Nat
  | .lanes wid _ | .entry wid _ | .drain wid | .control wid | .reply wid => (s.warp? wid).map (·.saveIdx)
  | _ => none

/-- The address of a fault record (18 Table 18.1): entries of 16 bytes in the queue the supervisor keeps. -/
def faultAddr (die n : Nat) : Word := BitVec.ofNat 64 (Config.faultQueueBase die + 16 * n)

/-- The work a fault held goes through translation again (14 R325). -/
def State.release (s : State) (h : Held) : State :=
  let pcs (wid : Nat) (pc : Word) : State := s.modWarp wid fun w => { w with faultPcs := w.faultPcs.erase pc }
  match h with
  | .lanes wid pc => pcs wid pc
  | .entry wid h => pcs wid h
  | .drain wid => pcs wid 0
  | .dictionary core b => s.modCore core fun c =>
    { c with banks := c.banks.modify b fun x => x.map fun k => { k with faulted := false } }
  | .cpe cl n => s.modCmd cl n fun c => { c with faulted := false }
  | .mxe cl n => s.modEntry cl n fun e => { e with faulted := false }
  | .ray core k => s.modCore core fun c =>
    { c with tvu := { c.tvu with rays := AMap.modify c.tvu.rays k fun r => { r with faulted := false } } }
  | .builder id => s.modBuildId id fun c => { c with faulted := false }
  | .frontEnd q => s.modQueue q fun k => { k with faulted := false }
  | .done q n => s.modQueue q fun k => { k with dones := AMap.modify k.dones n fun d => { d with faulted := false } }
  | .save _ _ => s
  | .control wid => if (s.moveOf 6 wid).isSome then s.saveControl wid else s
  | .reply wid => { s with agenda := s.agenda ++ [.event .supervisorContinue { unit := dieOf wid, item := wid }] }

/-- A fault record taken from its queue. -/
def State.takeFault (s : State) (die n : Nat) : State :=
  s.modDie die fun d => { d with faults := AMap.erase d.faults n }

/-- A context whose held faults are answered at its resume: its state is saved (18 R409). -/
def State.savedCtx (s : State) (ctx : Nat) : Bool :=
  match AMap.get s.ctxs ctx with
  | some c => c.state == .halted || c.state == .frozen
  | none => false

/-- FAULT_REPLAY (14 R325); while the context is halted the answer waits for its resume (18 R409). -/
def execFaultReplay (s : State) : Host.Outcome State Fault Refusal :=
  let die := s.ev.unit
  let n := s.ev.item
  .next (match AMap.get (s.die die).faults n with
    | none => s
    | some r =>
      if s.savedCtx r.ctx then s.modDie die fun d => { d with faults := AMap.set d.faults n { r with answered := some true } }
      else (s.takeFault die n).release r.held)

/-- FAULT_FAIL: the context halts with PAGE_FAULT; with a cause already set the answer only records itself in HINFO
(14 R325, 18 R409). -/
def execFaultFail (s : State) : Host.Outcome State Fault Refusal :=
  let die := s.ev.unit
  let n := s.ev.item
  .next (match AMap.get (s.die die).faults n with
    | none => s
    | some r =>
      let s := s.modDie die fun d => { d with faults := AMap.set d.faults n { r with answered := some false } }
      match AMap.get s.ctxs r.ctx with
      | none => s
      | some c =>
        if c.hcause != 0 then s.modCtx r.ctx fun c => { c with hinfo := faultAddr die n }
        else s.haltCtx r.ctx .pageFault (faultAddr die n) (s.heldWarp r.held))

end Sys2Proof.Machine
end

