-- ==== Sys2Proof/Machine/Contexts.lean ====
section
/-! DEFINITION. Stopping and saving: the halt walk, eviction, the save areas of warps, gangs and allotments, resume, and the supervisor's answers to traps (11 R255, R256, 18 R391-R414). -/
namespace Sys2Proof.Machine

/-! ### Names of saved work -/

/-- Fault records renamed, as the work they hold is saved and restored (18 R409). -/
def State.renameHeld (s : State) (f : Held → Held) : State :=
  { s with dies := s.dies.map fun d => { d with faults := d.faults.map fun (n, r) => (n, { r with held := f r.held }) } }

/-- What a fault record holds is saved at present. -/
def Held.away : Held → Bool
  | .lanes w _ => savedWid ≤ w
  | .entry w _ => savedWid ≤ w
  | .drain w => savedWid ≤ w
  | .control w => savedWid ≤ w
  | .reply w => savedWid ≤ w
  | .cpe c _ => savedCluster ≤ c
  | .mxe c _ => savedCluster ≤ c
  | _ => false

/-- A warp wherever it is. -/
def State.anyWarp (s : State) (wid : Nat) : Option Warp :=
  if wid < savedWid then s.warp? wid
  else match AMap.get s.saved (wid - savedWid) with
    | some (.warp w _ _ _) => some w
    | _ => none

/-- The context of a saved item. -/
def State.savedCtxOf (s : State) : Saved → Option Nat
  | .warp w _ _ _ => some w.ctx
  | .gang g _ => (AMap.get s.gangs g).map (·.ctx)
  | .cmd _ c => some c.ctx
  | .build _ c => some c.ctx
  | .allot a _ _ => (AMap.get s.allots a).map (·.ctx)

/-- An item put among the saved ones: its key. -/
def State.putSaved (s : State) (x : Saved) : State × Nat :=
  let (k, s) := s.fresh
  ({ s with saved := AMap.set s.saved k x }, k)

/-- A save or restore held under a fault of unit 7, if there is room for its record (18 R392). -/
def State.holdSave (s : State) (die ctx what id : Nat) (va : Word) (k : FaultKind) : State :=
  (s.recordFault die ctx 7 .readWrite k va (.save what id)).getD s

/-! ### A warp saved (18 R392, R393) -/

/-- A resident warp written to its save area and taken off its slot; whether it could be. What waits is saved unissued: lanes
at the sluice arrive again, and a steal begins anew (18 R409). What a spill has written stays, and its reservation is saved
with the warp's own (05 R102, R113). -/
def State.saveWarp (s : State) (wid : Nat) : State × Bool :=
  match s.warp? wid with
  | none => (s, true)
  | some w =>
    let chain := [tlbCluster (clusterOf wid)]
    let fault (s : State) (va : Word) (k : FaultKind) : State × Bool := (s.holdSave (dieOf wid) w.ctx 0 wid va k, false)
    match s.bitsFor chain 0 wid w with
    | (s, .error (va, k)) => fault s va k
    | (s, .ok pend) =>
      let es := s.entriesOf wid
      let pieces := w.savePieces pend ++ w.controlPieces es.length ++ w.sourcePieces es
      match s.sendOut chain w.ctx 0 wid (s.saveBase w) pieces with
      | (s, some (va, k)) => fault s va k
      | (s, none) =>
        let lanes := w.lanes.map fun x => if x.stage == .queued then { x with stage := .arrived } else x
        let w := { w with
          lanes := lanes, res := joinRes w.refillRes w.res, refillRes := [], flight := [], asked := .none
          search := none, yieldNext := false, yieldUntil := none }
        let (s, k) := s.putSaved (.warp w (coreOf wid) (wid % 64) w)
        let s := ({ s with warps := AMap.erase s.warps wid }).freeBank (coreOf wid) (s.launchOf w)
        let s := [4, 5, 6, 7].foldl (fun s what => s.dropMove what wid) s
        ((s.renameWarp wid (savedWid + k)).dropVictim wid, true)

/-! ### A gang saved (11 R255, R256) -/

/-- The base of a gang's save area. -/
def State.gangBase (s : State) (g : Gang) : Word :=
  match AMap.get s.ctxs g.ctx with
  | some c => c.gsb + BitVec.ofNat 64 (0x110000 * g.saveIdx)
  | none => 0

/-- Bits of the members in a list. -/
def Gang.bits (g : Gang) (l : List Nat) : Nat :=
  (g.members.zipIdx.map fun (m, i) => if l.contains m then 2 ^ i else 0).sum

/-- The gang control quadword (11 Table 11.5). -/
def Gang.controlQuad (g : Gang) (entries : Nat) : Nat :=
  g.bits g.relArrived * 2 ^ 32 + g.bits g.arrived * 2 ^ 24 + entries * 2 ^ 18 + g.latch.getD 0 * 2 ^ 13 + g.count * 2 ^ 8

/-- A saved entry (11 Table 11.6). -/
def Entry.saveBytes (e : Entry) (place : Nat) : List Byte :=
  let groups := ceilDiv e.mRows 64
  let progress := if e.onArray then e.unit / max groups 1 + e.unit % max groups 1 * 16 else e.unit % 128 * 256
  bytesOf 20 (encodeFields e.opcode e.f).toNat ++ bytesOf 4 place ++ bytesOf 8 e.active.toNat
  ++ ((List.range 4).flatMap fun i => bytesOf 16 ((e.descs[i]?).getD 0).toNat) ++ bytesOf 4 progress ++ List.replicate 28 0

/-- A tile's bytes: element (r, c) at 512r + 4c. -/
def Tile.bytes (t : Tile) : List Byte := (List.range 16384).flatMap fun i => bytesOf 4 (AMap.getD t i 0).toNat

/-- The core and the slot there of a warp, or those a saved warp had. -/
def State.standsAt (s : State) (wid : Nat) : Nat × Nat :=
  if wid < savedWid then (coreOf wid, wid % 64)
  else match AMap.get s.saved (wid - savedWid) with
    | some (.warp _ core place _) => (core, place)
    | _ => (0, 0)

/-- Where an entry's warp stands, or stood, in its cluster (11 Table 11.6). -/
def placeCode (core place : Nat) : Nat := core % 4 + place / 16 * 4 + place % 16 * 16
def State.placeInCluster (s : State) (wid : Nat) : Nat := placeCode (s.standsAt wid).1 (s.standsAt wid).2
def State.entryPlace (s : State) (e : Entry) : Nat :=
  if e.wid == nobody then placeCode (coreOf e.seat) (e.seat % 64) else s.placeInCluster e.wid

/-- An entry as it is saved: at the start of a unit, with nothing fetched (11 R254, R255). -/
def Entry.still (e : Entry) : Entry := { e with running := false, got := [], rowLeft := [] }

/-- A gang's entries and tiles written to its save area and taken off its cluster; whether they could be. -/
def State.saveGang (s : State) (gid : Nat) : State × Bool :=
  match AMap.get s.gangs gid with
  | none => (s, true)
  | some g =>
    if g.cluster == savedCluster then (s, true)
    else
      let es := sortBy (fun a b : Nat × Entry => a.2.before b.2) (s.gangEntries gid g)
      let pieces := [(0, bytesOf 8 (g.controlQuad es.length)), (8, List.replicate 4088 0)]
        ++ (es.zipIdx.map fun ((_, e), i) => (0x1000 + 128 * i, e.saveBytes (s.entryPlace e)))
        ++ (g.tiles.getD []).zipIdx.map fun (t, i) => (0x2000 + 0x10000 * i, Tile.bytes t)
      match s.sendOut [tlbCluster g.cluster] g.ctx 1 gid (s.gangBase g) pieces with
      | (s, some (va, k)) => (s.holdSave (dieOfCluster g.cluster) g.ctx 1 gid va k, false)
      | (s, none) =>
        let names := es.map fun (n, e) => (n, e.issued)
        let s := s.renameHeld fun h => match h with
          | .mxe c n => if c == g.cluster then
              match names.find? fun x => x.1 == n with
              | some (_, i) => .mxe savedCluster i
              | none => h
            else h
          | h => h
        let s := s.modCluster g.cluster fun c => { c with entries := c.entries.filter fun (_, e) => e.gang != gid }
        let (s, _) := s.putSaved (.gang gid (es.map fun (_, e) => e.still))
        (s.modGang gid fun g => { g with cluster := savedCluster }, true)

/-! ### An allotment saved (08 R180, 18 R395) -/

/-- The base of an allotment's save area. -/
def State.allotBase (s : State) (a : Allot) : Word :=
  match AMap.get s.ctxs a.ctx with
  | some c => c.asb + BitVec.ofNat 64 (0x70000 * a.saveIdx)
  | none => 0

/-- A table of fixed entries: bytes of entry `i`, or zeros. -/
def tableBytes (n size : Nat) (at_ : Nat → Option (List Byte)) : List Byte :=
  (List.range n).flatMap fun i => (at_ i).getD (List.replicate size 0)

/-- A trace slot as Table 18.5 keeps it. -/
def TraceSlot.bytes (t : TraceSlot) : List Byte :=
  bytesOf 8 t.header.toNat ++ bytesOf 8 t.gen
  ++ bytesOf 8 (t.pool + t.records * 2 ^ 32 + 2 ^ 48 + if t.closed then 2 ^ 49 else 0)
  ++ bytesOf 8 (t.rayQueue * 128 + t.hitQueue * 128 * 2 ^ 32) ++ (t.stats.take 4).flatMap (bytesOf 8)

/-- The team warps that have arrived at a barrier, as bits of the slots they have or had, exited ones included (10 R231). -/
def Allot.arrivedMask (a : Allot) (b : Barrier) : Nat :=
  ((b.arrived.filterMap (AMap.get a.seats)).eraseDups.map (2 ^ ·)).sum

/-- A stopped copy-engine command as Table 18.5 keeps it, padded to its 64 bytes. The table names the fields of a copy; for the
others the model takes, of a mapping's command, its address, offset and granules as rows of 4,096 bytes, and of a bulk command its
destination, and its source or pattern as the stride (assumption 111). -/
def State.cmdBytes (s : State) (c : Cmd) : List Byte :=
  let mods := (if c.ord.acquire then 1 else 0) + (if c.ord.release then 2 else 0) + c.ord.scope * 4
  let (cnt, slot) := match c.owner with
    | .warp wid k => (k.getD 15, (s.standsAt wid).2)
    | _ => (15, 0)
  let first := ((c.todo.map (·.1)).foldl min (2 ^ 64)) * 8
  let rest (op : Nat) (addr : Word) (off rb rows : Nat) (stride : Int) : List Byte :=
    bytesOf 2 op ++ bytesOf 1 mods ++ bytesOf 1 cnt ++ bytesOf 4 slot ++ bytesOf 8 addr.toNat ++ bytesOf 8 off
    ++ bytesOf 8 rb ++ bytesOf 8 rows ++ bytesOf 8 (BitVec.ofInt 64 stride).toNat ++ bytesOf 8 (min rows (first / max rb 1))
    ++ bytesOf 8 0
  let mapped (op entry : Nat) : List Byte :=
    match (c.allot.bind (AMap.get s.allots)).bind fun a => AMap.get a.maps entry with
    | some e => rest op e.addr e.off 4096 e.g 0
    | none => rest op 0 0 4096 0 0
  match c.kind with
  | .copy off addr rb rows stride => rest Enc.copy.opcode addr off rb rows stride
  | .copyOut addr off rb rows stride => rest Enc.copyout.opcode addr off rb rows stride
  | .spclr off n => rest Enc.spclr.opcode 0 off n 1 0
  | .spmap _ _ off addr g => rest Enc.spmap.opcode addr off 4096 g 0
  | .spunmap entry => mapped Enc.spunmap.opcode entry
  | .spwb entry => mapped Enc.spwb.opcode entry
  | .bulkCopy dst src n => rest Enc.bulkCopy.opcode dst 0 n 1 src.toInt
  | .bulkFill dst n pattern => rest Enc.bulkFill.opcode dst 0 n 1 pattern.toInt

/-- A command stands in the table of a team core: it names its allotment, or a warp of that team core issued it. -/
def State.ofTeamCore (s : State) (id : Nat) (a : Allot) (c : Cmd) : Bool :=
  c.allot == some id || match c.owner with
    | .warp wid _ => ((s.anyWarp wid).map fun w => w.team == a.team && w.teamCore == a.teamCore).getD false
    | _ => false

/-- The commands of a team core that a halt has stopped, which its save area lists (18 Table 18.5). -/
def State.listedCmds (s : State) (id : Nat) (a : Allot) : List (Nat × Cmd) :=
  if s.haltStepOf a.ctx = 0 then []
  else ((s.cluster (clusterOfCore a.core)).cpe.filter fun (_, c) => s.ofTeamCore id a c).take 64

/-- The pieces of an allotment's save area (18 Table 18.5). -/
def State.allotPieces (s : State) (id : Nat) (a : Allot) : List (Nat × List Byte) :=
  let core := s.core a.core
  let cmds := s.listedCmds id a
  let mine (slot : Nat) : Bool := ((AMap.get core.slots slot).map (·.allot)) == some id
  let mapped (e : MapEntry) : List Byte := bytesOf 8 e.addr.toNat ++ bytesOf 8 (e.off / 4096 + e.g * 256)
  let resume := core.tvu.resume.filter fun (slot, _) => mine slot
  [(0, Memory.readN a.mem 0 (a.units * 4096)), (0x60000, bytesOf 8 (a.units + a.nBarriers * 256)),
   (0x60100, tableBytes 16 16 fun i => (AMap.get a.maps i).map mapped),
   (0x60200, tableBytes 64 4 fun i => (a.queues[i]?).map fun l => bytesOf 4 (l + 2 ^ 31)),
   (0x60300, tableBytes 8 4 fun i => (AMap.get a.deques i).map fun (b, _) => bytesOf 4 (b / 128 + 2 ^ 31)),
   (0x60400, tableBytes 8 64 fun i => ((AMap.get core.slots i).filter fun t => t.allot == id).map TraceSlot.bytes),
   (0x60600, tableBytes 64 2 fun i => (resume[i]?).map fun (slot, k) => bytesOf 2 (k + slot * 2 ^ 12 + 2 ^ 15)),
   (0x61000, tableBytes 256 16 fun i => (AMap.get a.barriers i).map fun b =>
      bytesOf 4 b.phase ++ bytesOf 4 (b.latched.getD 0) ++ bytesOf 8 (a.arrivedMask b)),
   (0x62000, tableBytes 64 64 fun i => (cmds[i]?).map fun (_, c) => s.cmdBytes c)]

/-- The trace slots of an allotment, and the part of the trace unit that is theirs. -/
def State.traceOf (s : State) (core id : Nat) : AMap TraceSlot × Tvu :=
  let c := s.core core
  let slots := c.slots.filter fun (_, t) => t.allot == id
  let mine (k : Nat) : Bool := (AMap.get slots k).isSome
  let jobOf := c.tvu.jobOf.filter fun (k, _) => mine (k / 4096)
  (slots,
    { c.tvu with
      rays := c.tvu.rays.filter fun (k, _) => mine (k / 4096)
      resume := c.tvu.resume.filter fun (k, _) => mine k
      times := c.tvu.times.filter fun (k, _) => mine (k / 4096)
      jobs := c.tvu.jobs.filter fun (j, _) => jobOf.any fun (_, x) => x.1 == j
      jobOf := jobOf })

/-- An allotment saved: its rays stopped, its mappings written back and deregistered, and its area written; whether it could
be. -/
def State.saveAllot (s : State) (id : Nat) : State × Bool :=
  match AMap.get s.allots id with
  | none => (s, true)
  | some a =>
    let s1 := (s.stopRays a.core id).unmapAll id
    match AMap.get s1.allots id with
    | none => (s, true)
    | some a1 =>
      if a.saved then (s, true)
      else
        let a1 := { a1 with
          maps := a.maps.map fun (k, e) => (k, { e with granules := [], dirty := [] })
          listed := (s1.listedCmds id a).map fun (_, c) => c.stamp }
        match s1.sendOut [tlbCluster (clusterOfCore a.core)] a.ctx 2 id (s.allotBase a) (s1.allotPieces id a1) with
        | (s, some (va, k)) => ((s.modAllot id fun _ => a1).holdSave (dieOfCore a.core) a.ctx 2 id va k, false)
        | (s, none) =>
          let (slots, tvu) := s.traceOf a.core id
          let (s, _) := s.putSaved (.allot id slots tvu)
          let s := (s.endSlots a.core id).modTvu a.core fun u =>
            { u with jobs := u.jobs.filter fun (j, _) => !(tvu.jobs.any fun (x, _) => x == j) }
          (s.modAllot id fun _ => { a1 with saved := true, mem := [], spTimes := [], written := [] }, true)

/-! ### Engine commands saved (18 R395, R396, R407) -/

/-- A copy-engine command taken off its cluster with its progress. -/
def State.saveCmd (s : State) (cl n : Nat) (c : Cmd) : State :=
  let s := s.modCluster cl fun x => { x with cpe := AMap.erase x.cpe n }
  let (s, k) := s.putSaved (.cmd cl c)
  s.renameHeld fun h => if h == .cpe cl n then .cpe savedCluster k else h

/-- The next builder command of a context, with its builder. -/
def State.nextBuild (s : State) (ctx : Nat) : Option (Nat × BCmd) :=
  (List.range 8).findSome? fun b => ((s.builder b).queue.find? fun c => c.ctx == ctx).map fun c => (b, c)

/-- A builder command taken off its queue with its progress, once the first 256 bytes of its space are written (18 R396). -/
def State.saveBuild (s : State) (b : Nat) (c : BCmd) : State :=
  match s.sendOut [tlbBuilder b] c.ctx 3 c.id (s.areaBase c) (if c.area.isSome then c.statePieces else []) with
  | (s, some (va, k)) => s.holdSave (b / 4) c.ctx 3 c.id va k
  | (s, none) =>
    let s := s.modBuilder b fun x => { x with queue := x.queue.filter (·.id != c.id) }
    (s.putSaved (.build b c)).1

/-! ### The halt walk (18 R407, R408, Table 18.10) -/

/-- The commands of a context that must still come to a line boundary. -/
def State.cmdsAtBoundary (s : State) (ctx : Nat) : Bool :=
  s.clusters.all fun (_, x) => x.cpe.all fun (_, c) => c.ctx != ctx || c.faulted || c.atBoundary

/-- Step 3 ends: the rays of the context stop (15 R344). -/
def State.stopCtxRays (s : State) (ctx : Nat) : State :=
  (s.allots.filter fun (_, a) => a.ctx == ctx && !a.saved).foldl (fun s (id, a) => s.stopRays a.core id) s

/-- Step 6 ends: lane accesses in flight have taken their places. -/
def State.settleCtx (s : State) (ctx : Nat) : State :=
  { s with warps := s.warps.map fun (k, w) => (k, if w.ctx == ctx then { w with flight := [] } else w) }

/-- The incarnation number: the boot count, then the takeovers since that boot (19 R428). -/
def State.incarnation (s : State) : Nat := s.sup.bootCount % 2 ^ 32 * 2 ^ 32 + s.sup.takeovers % 2 ^ 32

/-- One thing of a context saved, or HALTED once nothing is left: warps, gangs, allotments, then engine commands (18 R407 step 7). -/
def State.saveNext (s : State) (ctx : Nat) : State :=
  match s.warps.find? fun (_, w) => w.ctx == ctx with
  | some (wid, _) => if s.heldBy (.save 0 wid) then s else (s.saveWarp wid).1
  | none =>
    match s.gangs.find? fun (_, g) => g.ctx == ctx && g.cluster != savedCluster with
    | some (gid, _) => if s.heldBy (.save 1 gid) then s else (s.saveGang gid).1
    | none =>
      match s.allots.find? fun (_, a) => a.ctx == ctx && !a.saved with
      | some (id, _) => if s.heldBy (.save 2 id) then s else (s.saveAllot id).1
      | none =>
        let s := s.clusters.foldl (fun s (cl, x) => (x.cpe.filter fun (_, c) => c.ctx == ctx).foldl
          (fun s (n, c) => s.saveCmd cl n c) s) s
        match s.nextBuild ctx with
        | some (b, c) => if s.heldBy (.save 3 c.id) then s else s.saveBuild b c
        | none =>
          let owner := ((AMap.get s.ctxs ctx).map (·.owner)).getD 0
          let frozen := ((AMap.get s.ctxs ctx).map (·.freezing)).getD false
          let s := s.modCtx ctx fun c =>
            { c with state := if c.freezing then .frozen else .halted, haltStep := 0, haltTo := s.uid }
          if frozen then s
          else s.post ⟨owner, 3, [ctx, ((AMap.get s.ctxs ctx).map (·.hcause)).getD 0, s.incarnation]⟩

/-- No bundle of a context's warps has accesses still to be made: of those in gangs, or of the others (18 Table 18.10). -/
def State.bundlesEnd (s : State) (ctx : Nat) (gangs : Bool) : Bool :=
  !(s.warps.any fun (_, w) => w.ctx == ctx && w.gang.isSome == gangs && w.sending.isSome)

/-- No row that AST has begun is still to be written, and no entry whose work is done is still to retire (11 R255, 18 Table 18.10). -/
def State.rowsEnd (s : State) (ctx : Nat) : Bool :=
  !(s.clusters.any fun (_, c) => c.entries.any fun (_, e) =>
    s.entryCtx e == ctx && !e.faulted && (!e.rowLeft.isEmpty || e.units ≤ e.unit))

/-- What has ended with its last live lane still leaves the part: a warp that drains, the tiles of a gang released, an allotment that can
be freed. Nothing of such a launch is saved: the EXIT wins (18 R414). -/
def State.exitsEnd (s : State) (ctx : Nat) : Bool :=
  !(s.warps.any fun (wid, w) => w.ctx == ctx && (s.drains wid w).isSome)
  && !(s.gangs.any fun (k, g) => g.ctx == ctx && g.released && !g.restore && (s.gangEntries k g).isEmpty)
  && !(s.allots.any fun (k, a) => a.ctx == ctx && s.freeable k a)

/-- The lane accesses of a context have taken their places, waiting contributions among them, and their counters have come down
(18 R407 step 6). -/
def State.accessesEnd (s : State) (ctx : Nat) : Bool :=
  !(s.warps.any fun (_, w) => w.ctx == ctx && !w.owed.isEmpty) && !(s.slotWaits.any fun x => x.ctx == ctx)

/-- HALT_SAVE_COMPLETE: the walk of a halting context goes one step on, each step once the one before has ended; in the
last, one save after another, and then STATE is HALTED and the
owner is told, unless it was a freeze (18 R407, 19 R425). -/
def execHaltSaveComplete (s : State) : Host.Outcome State Fault Refusal :=
  let ctx := s.ev.unit
  let on (s : State) : State := s.modCtx ctx fun c => { c with haltStep := c.haltStep + 1 }
  .next (match AMap.get s.ctxs ctx with
    | none => s
    | some c =>
      if c.state != .halting then s
      else match c.haltStep with
        | 2 => if s.bundlesEnd ctx false then on s else s
        | 3 => if s.cmdsAtBoundary ctx then on (s.stopCtxRays ctx) else s
        | 4 => if s.bundlesEnd ctx true then on s else s
        | 5 => if s.rowsEnd ctx then on s else s
        | 6 => if s.accessesEnd ctx && s.exitsEnd ctx then on (s.settleCtx ctx) else s
        | n => if n < 7 then on s else s.saveNext ctx)

/-! ### Resuming lanes (04 R86, R87, 18 R400, R404) -/

/-- A lane whose PC the record now gives differently: at a header it enters, inside a body it runs there, and anywhere else
it stands at no header, among those whose PCs are bad. It waits at no barrier any more. -/
def State.moveLane (s : State) (wid l : Nat) (guess pc : Word) : State × Except (Word × FaultKind) Bool :=
  match s.warp? wid with
  | none => (s, .ok true)
  | some w =>
    let m := Mask.of 64 (· == l)
    let off (h : BarHold) : BarHold := { h with lanes := h.lanes &&& ~~~m }
    let free (w : Warp) : Warp := { w with barWaits := (w.barWaits.map off).filter fun h => h.lanes != 0 }
    match s.resumption wid w guess pc with
    | (s, .fault va k) => (s, .error (va, k))
    | (s, .header) => (s.modWarp wid fun w => (free w).goHeader m pc .resumed, .ok true)
    | (s, .body h) =>
      (s.modWarp wid fun w =>
        ((free w).modLanes m fun x => { x with hdr := h, stage := .inBody, bundle := 0, changed := true }).trimRes, .ok true)
    | (s, .bad) => (s.modWarp wid fun w => (free w).goHeader m pc .resumed, .ok false)

/-- The lanes of a restored record whose PC differs from the warp's as it was. Those with a bad PC take BAD_TARGET: the ones that
share the PC of the lowest of them together now, and each other PC's as they would enter a header there (04 R86). -/
def State.moveLanes (s : State) (wid : Nat) (before : Warp) : State × Option (Word × FaultKind) :=
  match s.warp? wid with
  | none => (s, none)
  | some w =>
    let moved := w.lanes.zipIdx.filter fun (x, l) => x.live && ((before.lanes[l]?).map (·.pc)) != some x.pc
    let step (r : State × Except (Word × FaultKind) (List (Lane × Nat))) (x : Lane × Nat) :
        State × Except (Word × FaultKind) (List (Lane × Nat)) :=
      match r with
      | (s, .error e) => (s, .error e)
      | (s, .ok bad) => match s.moveLane wid x.2 (((before.lanes[x.2]?).map (·.hdr)).getD 0) x.1.pc with
        | (s, .error e) => (s, .error e)
        | (s, .ok good) => (s, .ok (if good then bad else bad ++ [x]))
    match moved.foldl step (s, .ok []) with
    | (s, .error e) => (s, some e)
    | (s, .ok []) => (s, none)
    | (s, .ok ((x, l) :: rest)) =>
      let m := Mask.of 64 fun k => k == l || rest.any fun (y, j) => j == k && y.pc == x.pc
      (s.takeTrap wid .badTarget m m (BitVec.ofNat 64 l) x.pc, none)

/-- Bytes read back as numbers. -/
def readsOf (bs : List Byte) : Nat → Nat → Nat :=
  let a := bs.toArray
  fun off n => (List.range n).foldr (fun i acc => acc * 256 + (a[off + i]?.getD 0).toNat) 0

/-- A trap record taken from its queue. -/
def State.takeTrapRec (s : State) (die wid : Nat) : State :=
  s.modDie die fun d => { d with traps := d.traps.filter fun t => t.wid != wid }

/-- SUPERVISOR_CONTINUE, the answer to a record of the trap queue: STOP is cleared and the lanes resume from the PC table and the
TEPC that the control part now gives; everything else stands as the warp has it, its counters with the decrements made while
it was stopped among it (04 R85, R86, 10 R227). A warp saved while stopped resumes at its return (18 R394, R400). The warp's
age goes on from its last issue: it kept its slot, and the model does not count this resume for R80 (DESIGN CHOICE,
assumption 106). -/
def execSupervisorContinue (s : State) : Host.Outcome State Fault Refusal :=
  let die := s.ev.unit
  let wid := s.ev.item
  .next (match s.anyWarp wid with
    | none => s
    | some w =>
      if !w.stop || s.heldBy (.control wid) || s.heldBy (.reply wid) || !((s.die die).traps.any fun t => t.wid == wid) then s
      else if (s.moveOf 6 wid).isSome then s.saveControl wid
      else if savedWid ≤ wid then (s.takeTrapRec die wid).modWarp wid fun w => { w with stop := false }
      else
        let held (s : State) (unit : Nat) (acc : Acc) (va : Word) (k : FaultKind) : State :=
          (s.recordFault (dieOf wid) w.ctx unit acc k va (.reply wid)).getD s
        match s.takeIn [tlbCluster (clusterOf wid)] w.ctx 7 wid (s.saveBase w) [(controlOff w.width, 0x800)] with
        | (s, .error (va, k)) => held s 7 .readWrite va k
        | (s1, .ok bs) =>
          let rd := readsOf bs
          let w' := { w.restoreLanes (fun off n => rd (off - controlOff w.width) n) with stop := false }
          match (((s1.dropMove 7 wid).takeTrapRec die wid).setWarp wid w').moveLanes wid w with
          | (_, some (va, k)) => held s1 1 .execute va k
          | (s, none) => s)

/-- The cause of a code (18 Table 18.6). -/
def causeOf (n : Nat) : Option Cause :=
  [Cause.illegalParcel, .illegalOpcode, .illegalField, .badTarget, .demandOver, .regReleased, .level, .break_, .trap,
   .spAlign, .spRange, .spQueue, .qUnbound, .qDir, .qClosed, .qFit, .qNone, .taskNone, .taskHeld, .phaseBad, .barCount,
   .barRange, .gangCount, .mxNoGang, .mxNoTile, .mxRange, .mxDesc, .memAlign, .memRange, .trQueue, .trHandle, .trState,
   .trSlot, .trFit].find? fun c => c.code == n

/-- SUPERVISOR_HALT: the context halts with the trap's cause, and the trap is answered (18 R400). STOP stays set, so that the warp
issues nothing until it is saved; it resumes without it (assumption 67). -/
def execSupervisorHalt (s : State) : Host.Outcome State Fault Refusal :=
  let die := s.ev.unit
  let wid := s.ev.item
  .next (match s.anyWarp wid with
    | none => s
    | some w => match causeOf w.tcause.toNat with
      | none => s
      | some c =>
        if !w.stop || !((s.die die).traps.any fun t => t.wid == wid) then s
        else (s.takeTrapRec die wid).haltCtx w.ctx c w.tinfo (some w.saveIdx))

/-! ### Eviction (18 R410-R412) -/

/-- The quarter that a share's first warp will go to once its slot shortfalls are covered: the lowest that has the most free slots then
(04 R75, 18 R410, 23 R462; assumption 69). -/
def State.quarterAfter (s : State) (core n : Nat) : Nat :=
  let free := (List.range 4).map (s.freeSlots core)
  let then_ (b : Nat) : List Nat := (free.zip (quarterNeeds b n)).map fun (x, y) => max x y
  let most (l : List Nat) (b : Nat) : Bool :=
    (List.range 4).all fun q => let x := (l[q]?).getD 0; let y := (l[b]?).getD 0; x < y || x == y && b ≤ q
  ((List.range 4).find? fun b => most (then_ b) b).getD (s.firstQuarter core)

/-- What a team's share still lacks on a core once some warps have gone: slots by quarter, slices, scratchpad units,
barriers, and a bank, in that order. -/
def State.shortfalls (s : State) (l : Launch) (core : Nat) (share gone : List Nat) : List Nat :=
  let here := s.warps.filter fun (wid, _) => coreOf wid == core
  let out := here.filter fun (wid, _) => gone.contains wid
  let stay := here.filter fun (wid, w) => !gone.contains wid && !w.draining
  let slots := (quarterNeeds (s.quarterAfter core share.length) share.length).zipIdx.map fun (n, q) =>
    n - (s.freeSlots core q + (out.filter fun (wid, _) => quarterOf wid == q).length)
  let ws := s.poolWarps core ++ share.map l.poolOf
  let carve := (ws.map fun (f, _, x) => f * x).sum
  let top := (ws.map fun (f, p, x) => (p - f) * x).foldl max 0
  let held := (out.map fun (_, w) => max w.claim w.floor * w.slices).sum
  let left := (s.allots.filter fun (_, a) => a.core == core && !a.saved
    && (here.any fun (_, w) => w.team == a.team) && !(stay.any fun (_, w) => w.team == a.team)).map (·.2)
  let bank := (s.core core).banks.any fun b => match b with
    | none => true
    | some b => b.serves l || !(stay.any fun (_, w) => ((s.launchOf w).map b.serves).getD false)
  slots ++ [carve + top - (4096 + held), l.units - (96 - s.unitsUsed core + (left.map (·.units)).sum),
    l.barriers - (256 - s.barriersUsed core + (left.map (·.nBarriers)).sum), if bank then 0 else 1]

/-- Warps that go together with one, of those that may: all of its team on the core where scratchpad or barriers lack, all that use its
bank where a bank lacks, and whole gangs (18 R410). -/
def State.evictGroup (s : State) (core : Nat) (short : List Nat) (may : Nat → Bool) (wid : Nat) (w : Warp) : List Nat :=
  let here := s.warps.filter fun (x, _) => coreOf x == core && may x
  let lack (i : Nat) : Bool := (short[i]?).getD 0 != 0
  let team := if lack 5 || lack 6 then (here.filter fun (_, v) => v.team == w.team).map (·.1) else []
  let uses (b : Option Bank) (v : Warp) : Bool := b.any fun b => ((s.launchOf v).map b.serves).getD false
  let bank := if !lack 7 then []
    else match (s.core core).banks.find? fun b => uses b w with
      | some b => (here.filter fun (_, v) => uses b v).map (·.1)
      | none => []
  let base := (wid :: (team ++ bank)).eraseDups
  let gangs := base.filterMap fun x => (s.warp? x).bind (·.gang)
  (base ++ (s.warps.filter fun (x, v) => may x && (v.gang.map gangs.contains).getD false).map (·.1)).eraseDups

/-- Victims taken in order, each only where it covers part of a shortfall still open. -/
def pickVictims (s : State) (l : Launch) (core : Nat) (share : List Nat) (may : Nat → Bool) :
    List (Nat × Warp) → List Nat → List Nat
  | [], gone => gone
  | (wid, w) :: rest, gone =>
    let short := s.shortfalls l core share gone
    if short.all (· == 0) then gone
    else if gone.contains wid then pickVictims s l core share may rest gone
    else
      let gone' := (gone ++ s.evictGroup core short may wid w).eraseDups
      let short' := s.shortfalls l core share gone'
      let covers := (short.zip short').any fun (a, b) => b < a
      pickVictims s l core share may rest (if covers then gone' else gone)

/-- The victims for a share on a core: candidates by class, placement and acceptance, their warps youngest first; none
where they cannot cover every shortfall (18 R410). -/
def State.chooseVictims (s : State) (l : Launch) (core : Nat) (share start : List Nat) (passed : List Nat) :
    Option (List Nat) :=
  let may (wid : Nat) : Bool := match s.warp? wid with
    | some w => !w.draining && !passed.contains wid && (w.asked == .none || start.contains wid)
      && ((s.launchOf w).map fun m => decide (s.launchClass l < s.launchClass m)).getD false
    | none => false
  let key (x : Nat × Warp) : List Nat :=
    let m := s.launchOf x.2
    [((m.map s.launchClass).getD 0), ((m.map (·.placedAt)).getD 0), ((m.map (·.serial)).getD 0), x.2.placed, x.1 % 64]
  let later (a b : List Nat) : Bool := ((a.zip b).find? fun (x, y) => x != y).all fun (x, y) => y < x
  let cands := s.warps.filter fun (wid, _) => coreOf wid == core && may wid
  let gone := pickVictims s l core share may (sortBy (fun a b => later (key a) (key b)) cands) start
  if (s.shortfalls l core share gone).all (· == 0) then some gone else none

/-- The victims for the shares of a team on its cores, one core after another: what goes with a gang's victim on one core counts on the
others too (18 R410). -/
def State.chooseAll (s : State) (l : Launch) (at_ : List (Nat × List Nat)) (start passed : List Nat) : Option (List Nat) :=
  at_.foldl (fun acc (c, sh) => acc.bind fun vs => s.chooseVictims l c sh vs passed) (some start)

/-- Warps asked to stop for an eviction. -/
def State.askEvict (s : State) (vs : List Nat) : State :=
  vs.foldl (fun s v => s.modWarp v fun w =>
    if w.asked == .none then { w with asked := .evict, askedAt := s.ns } else w) s

/-- The smallest number of cores that meets conditions 1 to 3 of R73, with the shares. -/
def Launch.evictShares (l : Launch) : Option (List (List Nat)) :=
  (List.range 16).findSome? fun k => l.split (k + 1)

/-- The cores that an eviction request for a waiting launch names: those of the smallest number of cores on which victims cover
every shortfall; none where a save index lacks (18 R410). -/
def State.evictionCores (s : State) (l : Launch) : Option (List (List Nat) × List Nat) :=
  l.evictShares.bind fun shares =>
    if (s.teamIdx l shares.length).isNone then none
    else (findCores (fun c sh => (s.chooseVictims l c sh [] []).isSome) l.hasGangs shares).map fun cores => (shares, cores)

/-- An eviction may be requested for a launch: it is the first, it has starved, it fits nowhere, and no request of it is open, nor has
one ended since a warp last drained or was saved on its cores (18 R412). -/
def State.mayEvict (s : State) (id : Nat) (l : Launch) : Bool :=
  (s.waitingLaunches.head?.map (·.1)) == some id && (s.die l.die).starving == some id && (s.placeable l 17).isNone
  && !(s.evicts.any fun e => e.team == id && (e.ended || !e.victims.isEmpty))

/-- EVICTION_REQUEST: for the first waiting team once it has waited 1 ms, victims are named on all of its cores, or on none
(17 R385, 18 R410). -/
def execEvictionRequest (s : State) : Host.Outcome State Fault Refusal :=
  let id := s.ev.unit
  .next (match AMap.get s.launches id with
    | none => s
    | some l =>
      if !s.mayEvict id l then s
      else match s.evictionCores l with
        | none => s
        | some (shares, cores) =>
          match if cores != s.ev.nums then none else s.chooseAll l (cores.zip shares) [] [] with
          | none => s
          | some vs =>
            let e : Evict := { team := id, cores := cores, victims := vs, released := [], since := s.ns }
            let rest := s.evicts.filter fun x => x.team != id
            ({ s with evicts := rest ++ [e] }).askEvict vs)

/-- A victim is quiet: nothing counted in its counters is in flight, no result is on its way to it, and no entry of its gang
is left (10 R227, 11 R255, 18 R411). -/
def State.quiet (s : State) (wid : Nat) (w : Warp) : Bool :=
  w.sending.isNone && w.idle && w.owed.isEmpty && w.awaitV.isEmpty && w.awaitW.isEmpty && !(s.slotWaits.any fun x => x.wid == wid)
  && match w.gang.bind fun g => (AMap.get s.gangs g).map fun x => (g, x) with
    | some (g, x) => (s.gangEntries g x).isEmpty
    | none => true

/-- A warp is the last of its gang on the part. -/
def State.lastOfGang (s : State) (wid : Nat) (w : Warp) : Option Nat :=
  w.gang.filter fun g => !(s.warps.any fun (x, v) => x != wid && v.gang == some g)

/-- The allotment of the team that a warp is the last on its core of. -/
def State.lastOfTeam (s : State) (wid : Nat) (w : Warp) : Option Nat :=
  if s.warps.any fun (x, v) => x != wid && v.team == w.team && coreOf x == coreOf wid then none
  else (s.allotOf wid w).map (·.1)

/-- VICTIM_SAVE: a victim whose counters read 0 is saved; with the last of a gang its tiles, and with the last of a team on
the core its allotment, once no command names it (18 R411, 08 R180, 11 R255). -/
def execVictimSave (s : State) : Host.Outcome State Fault Refusal :=
  let wid := s.ev.unit
  .next (match s.warp? wid with
    | none => s
    | some w =>
      if w.asked != .evict || !s.quiet wid w || w.draining then s
      else
        let busy := match s.lastOfTeam wid w with
          | some id => ((AMap.get s.allots id).map fun a =>
              !a.saved && (s.allotBusy id a
                || ((s.moveOf 2 id).isNone && !(a.maps.all fun (k, _) => a.readyToWriteBack k)))).getD false
            || s.heldBy (.save 2 id)
          | none => false
        let gang := s.lastOfGang wid w
        if busy || s.heldBy (.save 0 wid) || (gang.map fun g => s.heldBy (.save 1 g)).getD false then s
        else
          let (s, ok) := match gang with
            | some g => s.saveGang g
            | none => (s, true)
          if !ok then s
          else
            let (s, ok) := match s.lastOfTeam wid w with
              | some id => s.saveAllot id
              | none => (s, true)
            if !ok then s
            else
              (s.saveWarp wid).1)

/-- EVICTION_RELEASE_TIMEOUT: after 100 µs of global time a victim that is not quiet is released with its gang, and the
request takes its next victims, or ends where none can cover what is still short (18 R412). -/
def execEvictionReleaseTimeout (s : State) : Host.Outcome State Fault Refusal :=
  let wid := s.ev.unit
  .next (match s.warp? wid, s.evicts.find? fun e => e.victims.contains wid with
    | some w, some e =>
      if w.asked != .evict || s.quiet wid w || s.ns < w.askedAt + 100000 then s
      else
        let out := (wid :: (s.warps.filter fun (_, v) => v.gang.isSome && v.gang == w.gang).map (·.1)).eraseDups
        let free (s : State) (vs : List Nat) : State := vs.foldl (fun s v => s.modWarp v fun w => { w with asked := .none }) s
        let s := free s out
        let passed := (e.released ++ out).eraseDups
        let start := e.victims.filter fun v => !out.contains v && (s.warp? v).isSome
        let again : Option (List Nat) := match AMap.get s.launches e.team with
          | none => none
          | some l => l.evictShares.bind fun shares => s.chooseAll l (e.cores.zip shares) start passed
        let put (s : State) (e' : Evict) : State := { s with evicts := s.evicts.map fun x => if x.team == e.team then e' else x }
        match again with
        | some vs => (put s { e with victims := vs, released := passed }).askEvict vs
        | none => put (free s start) { e with victims := [], released := [], ended := true }
    | _, _ => s)

/-! ### Resume (18 R413) -/

/-- The team of a saved item, if it belongs to one. -/
def State.savedTeam (s : State) : Saved → Option Nat
  | .warp w _ _ _ => some w.team
  | .gang g _ => (AMap.get s.gangs g).map (·.team)
  | .allot a _ _ => (AMap.get s.allots a).map (·.team)
  | .cmd _ c => c.allot.bind fun a => (AMap.get s.allots a).map (·.team)
  | .build _ _ => none

/-- The launch of a saved item, if it belongs to one. -/
def State.savedLaunch (s : State) : Saved → Option Nat
  | .warp w _ _ _ => some w.launch
  | .gang g _ => (AMap.get s.gangs g).map (·.launch)
  | .allot a _ _ => (AMap.get s.allots a).map (·.launch)
  | .cmd _ c => c.launch
  | .build _ c => c.launch

/-- The order of restores: allotments, engine commands, gangs, warps (18 R413). -/
def Saved.rank : Saved → Nat
  | .allot _ _ _ => 0
  | .cmd _ _ => 1
  | .build _ _ => 1
  | .gang _ _ => 2
  | .warp _ _ _ _ => 3

/-- An item was saved by the last halt of a context. -/
def State.byHalt (s : State) (ctx : Nat) (x : Nat × Saved) : Bool :=
  s.savedCtxOf x.2 == some ctx && ((AMap.get s.ctxs ctx).map fun c => decide (c.haltFrom ≤ x.1 ∧ x.1 < c.haltTo)).getD false

/-- Nothing that must be restored before an item of a context is still saved: what a halt saved of lower rank, items of lower rank of its
team, and commands of its launch (18 R413). -/
def State.turnOf (s : State) (ctx : Nat) (x : Saved) : Bool :=
  !(s.saved.any fun (k, y) => y.rank < x.rank
    && (s.byHalt ctx (k, y)
      || (s.savedTeam y).isSome && s.savedTeam y == s.savedTeam x
      || (y.rank == 1 && (s.savedLaunch y).isSome && s.savedLaunch y == s.savedLaunch x)))

/-- Something that the last halt of a context saved is still to be restored. -/
def State.haltedSaved (s : State) (ctx : Nat) : Bool := s.saved.any (s.byHalt ctx)

/-- The saved warps of an allotment's team core. -/
def State.savedOn (s : State) (a : Allot) : List Warp :=
  s.saved.filterMap fun (_, x) => match x with
    | .warp w _ _ _ => if w.team == a.team && w.teamCore == a.teamCore then some w else none
    | _ => none

/-- A core has room for a saved allotment and the warps saved with it (18 R413, 04 R73). -/
def State.returnFits (s : State) (a : Allot) (core : Nat) : Bool :=
  let ws := s.savedOn a
  let slots := ((List.range 4).map (s.freeSlots core)).sum
  let need := (ws.map fun w => max w.fullClaim w.floor * w.slices).sum
  let trace := s.saved.findSome? fun (_, x) => match x with
    | .allot id t _ => if ((AMap.get s.allots id).map fun b => b.team == a.team && b.teamCore == a.teamCore).getD false
        then some t else none
    | _ => none
  s.unitsUsed core + a.units ≤ 96 && s.barriersUsed core + a.nBarriers ≤ 256 && ws.length ≤ slots
  && poolTest (s.poolWarps core ++ ws.map fun w => (w.floor, w.peak, w.slices)) && need ≤ State.freeSlices s core
  && ((trace.getD []).all fun (k, _) => (AMap.get (s.core core).slots k).isNone)
  && ((s.allotsOn core).map fun (_, x) => x.queues.length).sum + a.queues.length ≤ 64
  && (a.deques.all fun (d, _) => !((s.allotsOn core).any fun (_, x) => (AMap.get x.deques d).isSome))

/-- A saved team core moved to another core: its allotment and its saved warps. -/
def State.assignCore (s : State) (id core : Nat) : State :=
  match AMap.get s.allots id with
  | none => s
  | some a =>
    let move (x : Saved) : Saved := match x with
      | .warp w _ q was => if w.team == a.team && w.teamCore == a.teamCore then .warp w core q was else x
      | x => x
    let s := { s with saved := s.saved.map fun (k, x) => (k, move x) }
    let s := s.modTeam a.team fun t => { t with cores := t.cores.set a.teamCore core }
    s.modAllot id fun a => { a with core := core }

/-- The cores that the saved team cores of a team return to: a team of which nothing is resident is placed again whole; with
some of it resident, an allotment takes its own core, or one of the same die and, with gangs, of the same cluster (18 R413). -/
def State.findReturn (s : State) (id : Nat) (a : Allot) : Option (List (Nat × Nat)) :=
  let gangs := s.gangs.any fun (_, g) => g.team == a.team
  let others := s.allots.filter fun (_, b) => b.team == a.team
  if others.any fun (_, b) => !b.saved then
    let free (c : Nat) : Bool := !(others.any fun (_, b) => !b.saved && b.core == c) && s.returnFits a c
    let near := if gangs then (List.range 4).map (clusterOfCore a.core * 4 + ·)
      else (List.range 160).map (dieOfCore a.core * 160 + ·)
    ((a.core :: near).find? free).map fun c => [(id, c)]
  else
    let order := sortBy (fun x y : Nat × Allot => x.2.teamCore ≤ y.2.teamCore) others
    let fits (c : Nat) (ids : List Nat) : Bool := match ids.head?.bind (AMap.get s.allots) with
      | some b => s.returnFits b c
      | none => false
    (findCores fits gangs (order.map fun (k, _) => [k])).map fun cores => (order.map (·.1)).zip cores

/-- The mapping-table entries of an allotment whose SPMAP is still to be done. -/
def State.pendingMaps (s : State) (id : Nat) : List Nat :=
  s.saved.filterMap fun (_, x) => match x with
    | .cmd _ c => match c.kind with
      | .spmap _ entry _ _ _ => if c.allot == some id then some entry else none
      | _ => none
    | _ => none

/-- The mappings of a restored allotment registered again, as SPMAP registers them; one whose SPMAP was stopped is left to it (08
R195). -/
def State.remap (s : State) (id : Nat) (a : Allot) : State × Except (Option (Word × FaultKind)) Unit :=
  let pending := s.pendingMaps id
  a.maps.foldl (fun (s, r) (k, e) => match r with
    | .error x => (s, .error x)
    | .ok _ =>
      if pending.contains k then (s, .ok ())
      else match mapGranules (clusterOfCore a.core) a.ctx ((List.range e.g).map fun i => e.addr + BitVec.ofNat 64 (4096 * i)) s [] with
      | (s, .error (.inr f)) => (s, .error (some f))
      | (s, .error (.inl _)) => (s, .error none)
      | (s, .ok pas) =>
        let s := pas.zipIdx.foldl (fun s (pa, i) => s.registerGranule id (e.off + 4096 * i) pa) s
        let e := { e with granules := pas.map (· / 4096), dirty := (List.range (32 * e.g)).map fun i => e.off / 128 + i }
        (s.modAllot id fun a => { a with maps := AMap.set a.maps k e }, .ok ())) (s, .ok ())

/-- The tables of an allotment as its save area gives them, from 0x60000 on (18 Table 18.5). Which of the warps that have had a
slot has arrived at a barrier, and where a deque ends, the area does not say: what was there stays. -/
def Allot.tablesFrom (a : Allot) (rd : Nat → Nat → Nat) : Allot :=
  let map (i : Nat) : Option (Nat × MapEntry) :=
    let g := rd (0x100 + 16 * i + 9) 1
    if g = 0 then none
    else some (i, ⟨rd (0x100 + 16 * i + 8) 1 * 4096, BitVec.ofNat 64 (rd (0x100 + 16 * i) 8), g, [], []⟩)
  let queue (i : Nat) : Option Nat :=
    let x := rd (0x200 + 4 * i) 4
    if x.testBit 31 then some (x % 4096) else none
  let deque (i : Nat) : Option (Nat × Nat × Nat) :=
    let x := rd (0x300 + 4 * i) 4
    if x.testBit 31 then some (i, x % 4096 * 128, ((AMap.get a.deques i).map (·.2)).getD (x % 4096 * 128)) else none
  let barrier (i : Nat) : Option (Nat × Barrier) :=
    let at_ := 0x1000 + 16 * i
    let phase := rd at_ 4
    let latch := rd (at_ + 4) 1 % 128
    let mask := rd (at_ + 8) 8
    let b := AMap.getD a.barriers i ⟨0, none, [], 0, 0, 0⟩
    let had := b.arrived.filter fun tw => ((AMap.get a.seats tw).map mask.testBit).getD false
    let more := (a.seats.filter fun (tw, seat) => mask.testBit seat && !(b.arrived.any fun y => AMap.get a.seats y == some seat)
      && !had.contains tw).map (·.1)
    if (AMap.get a.barriers i).isNone && phase = 0 && latch = 0 && mask = 0 then none
    else some (i, { b with phase := phase, latched := if latch = 0 then none else some latch, arrived := had ++ more })
  { a with
    maps := (List.range 16).filterMap map
    queues := (List.range 64).filterMap queue
    deques := (List.range 8).filterMap deque
    barriers := (List.range a.nBarriers).filterMap barrier }

/-- The trace slots of an allotment as its save area gives them (18 Table 18.5). -/
def traceSlotsFrom (id : Nat) (rd : Nat → Nat → Nat) : AMap TraceSlot :=
  (List.range 8).filterMap fun i =>
    let at_ := 0x400 + 64 * i
    let x := rd (at_ + 16) 8
    let y := rd (at_ + 24) 8
    if !x.testBit 48 then none
    else some (i,
      { allot := id, header := BitVec.ofNat 64 (rd at_ 8), gen := rd (at_ + 8) 8, pool := x % 2 ^ 32
        records := natBits x 47 32, rayQueue := y % 2 ^ 32 / 128, hitQueue := y / 2 ^ 32 / 128, closed := x.testBit 49
        stats := (List.range 4).map fun k => rd (at_ + 32 + 8 * k) 8 })

/-- The resume list of a team core as its save area gives it (18 Table 18.5). -/
def resumeFrom (rd : Nat → Nat → Nat) : List (Nat × Nat) :=
  (List.range 64).filterMap fun i =>
    let x := rd (0x600 + 2 * i) 2
    if x.testBit 15 then some (natBits x 14 12, x % 4096) else none

/-- A stopped command as its 64 bytes in the save area give it, where they are not those that were saved: a copy with its fields
and the row it goes on from; the others as they stand. -/
def Cmd.fromBytes (c : Cmd) (rd : Nat → Nat → Nat) : Cmd :=
  let addr := BitVec.ofNat 64 (rd 8 8)
  let off := rd 16 8
  let rb := rd 24 8
  let rows := rd 32 8
  let stride := toSigned 64 (rd 40 8)
  let kind := match c.kind with
    | .copy _ _ _ _ _ => CmdKind.copy off addr rb rows stride
    | .copyOut _ _ _ _ _ => CmdKind.copyOut addr off rb rows stride
    | .spclr _ _ => CmdKind.spclr off rb
    | k => k
  let mods := rd 2 1
  let ord : Ord := ⟨mods.testBit 0, mods.testBit 1, natBits mods 3 2⟩
  match c.kind with
  | .copy _ _ _ _ _ | .copyOut _ _ _ _ _ | .spclr _ _ => { c with kind := kind, ord := ord, todo := [(rd 48 8 * rb / 8, kind.units)] }
  | _ => { c with ord := ord }

/-- The saved commands of a team core as the table of its save area gives them. -/
def State.cmdsFrom (s : State) (a : Allot) (rd : Nat → Nat → Nat) : State :=
  a.listed.zipIdx.foldl (fun s (stamp, i) =>
    let at_ := 0x2000 + 64 * i
    let same (x : Nat × Saved) : Option (Nat × Nat × Cmd) := match x.2 with
      | .cmd cl c => if c.stamp == stamp then some (x.1, cl, c) else none
      | _ => none
    match s.saved.findSome? same with
    | some (key, cl, c) =>
      if s.cmdBytes c == ((List.range 64).map fun k => BitVec.ofNat 8 (rd (at_ + k) 1)) then s
      else { s with saved := AMap.set s.saved key (.cmd cl (c.fromBytes fun off n => rd (at_ + off) n)) }
    | none => s) s

/-- An allotment restored on a core from its save area: its bytes and tables, every line present but those that a stopped command
has still to write, its mappings registered, its trace slots and its resume list (08 R180, R181, 15 R331, 18 R395). -/
def State.restoreAllot (s : State) (key id : Nat) (tvu : Tvu) : State :=
  match AMap.get s.allots id with
  | none => s
  | some a =>
    match s.findReturn id a with
    | none => s
    | some moves =>
      let s := moves.foldl (fun s (k, c) => s.assignCore k c) s
      match AMap.get s.allots id with
      | none => s
      | some a =>
        let n := a.units * 4096
        match s.takeIn [tlbCluster (clusterOfCore a.core)] a.ctx 2 id (s.allotBase a) [(0, n), (0x60000, 0x3000)] with
        | (s, .error (va, k)) => s.holdSave (dieOfCore a.core) a.ctx 2 id va k
        | (s1, .ok bs) =>
          let all := readsOf bs
          let rd (off k : Nat) : Nat := all (n + off) k
          let s2 := s1.cmdsFrom a rd
          let a := { a.tablesFrom rd with saved := false, mem := Memory.writeN [] 0 (bs.take n) }
          let s2 := { s2 with allots := AMap.set s2.allots id a, saved := AMap.erase s2.saved key }
          match s2.remap id a with
          | (_, .error (some (va, k))) => s1.holdSave (dieOfCore a.core) a.ctx 2 id va k
          | (_, .error none) => s
          | (s, .ok _) =>
            let join {α : Type} (m n : AMap α) : AMap α := n.foldl (fun m (k, x) => AMap.set m k x) m
            (s.dropMove 2 id).modCore a.core fun c =>
              { c with
                slots := join c.slots (traceSlotsFrom id rd)
                tvu := { c.tvu with
                  rays := join c.tvu.rays tvu.rays, resume := c.tvu.resume ++ resumeFrom rd ++ tvu.resume.drop 64
                  times := join c.tvu.times tvu.times, jobs := join c.tvu.jobs tvu.jobs
                  jobOf := join c.tvu.jobOf tvu.jobOf } }

/-- A copy-engine command put back: at the cluster of its allotment, or where it was (18 R413). The lines it has still to write
have been absent since its allotment was restored (08 R181). -/
def State.restoreCmd (s : State) (key cl : Nat) (c : Cmd) : State :=
  let older := s.saved.any fun (_, x) => match x with
    | .cmd _ d => d.ctx == c.ctx && d.stamp < c.stamp && d.allot == c.allot
    | _ => false
  let cl := match c.allot.bind (AMap.get s.allots) with
    | some a => clusterOfCore a.core
    | none => cl
  match s.cpePlace cl with
  | none => s
  | some n =>
    if older then s
    else
      let s := { s with saved := AMap.erase s.saved key }
      let s := s.modCluster cl fun x => { x with cpe := AMap.set x.cpe n c }
      s.renameHeld fun h => if h == .cpe savedCluster key then .cpe cl n else h

/-- A builder command put back at the end of its builder's queue, in the order they were saved, with its word and parameters from
its space (18 R396). -/
def State.restoreBuild (s : State) (key b : Nat) (c : BCmd) : State :=
  let older := s.saved.any fun (k, x) => match x with
    | .build b' _ => b' == b && k < key
    | _ => false
  if older || 16 ≤ (s.builder b).queue.length then s
  else match s.takeIn [tlbBuilder b] c.ctx 3 key (s.areaBase c) (if c.area.isSome then [(0, 256)] else []) with
    | (s, .error (va, k)) => s.holdSave (b / 4) c.ctx 3 key va k
    | (s, .ok bs) =>
      let c := if bs.isEmpty then c else c.fromState (readsOf bs)
      let s := ({ s with saved := AMap.erase s.saved key }).dropMove 3 key
      s.modBuilder b fun x => { x with queue := x.queue ++ [c] }

/-- A tile read back. -/
def tileFrom (rd : Nat → Nat → Nat) (off : Nat) : Tile :=
  (List.range 16384).filterMap fun i =>
    let x := BitVec.ofNat 32 (rd (off + 4 * i) 4)
    if x = 0 then none else some (i, x)

/-- A saved entry as its 128 bytes in the gang save area give it; what they do not hold stays (11 Table 11.6). -/
def Entry.fromBytes (e : Entry) (wid width nw : Nat) (rd : Nat → Nat → Nat) : Entry :=
  let word := BitVec.ofNat 160 (rd 0 20)
  let (op, f) := match decodeIrlek width nw word with
    | .ok i => match i.enc with
      | some (k, f) => if 0x2A2 ≤ k.opcode && k.opcode ≤ 0x2A9 then (k.opcode, f) else (e.opcode, e.f)
      | none => (e.opcode, e.f)
    | .error _ => (e.opcode, e.f)
  let e := { e with
    opcode := op, f := f, wid := wid, active := BitVec.ofNat 64 (rd 0x18 8)
    descs := (List.range 4).map fun i => BitVec.ofNat 128 (rd (0x20 + 16 * i) 16) }
  let x := rd 0x60 4
  { e with unit := if e.onArray then x % 16 * max (ceilDiv e.mRows 64) 1 + natBits x 4 4 else natBits x 14 8 }

/-- Source values of an entry taken from its block in a warp's save area, where a save wrote them there. -/
def Entry.withSources (e : Entry) (width : Nat) (rd : Nat → Nat → Nat) : Entry :=
  let lanes (off : Nat) : List Word := (List.range width).map fun l => BitVec.ofNat 64 (rd (off + 8 * l) 8)
  { e with src1 := lanes 0, src2 := lanes (8 * width) }

/-- The saved warps of a gang, by the names that saved work has them under. -/
def State.gangWarps (s : State) (gid : Nat) : List (Nat × Warp) :=
  s.saved.filterMap fun (key, x) => match x with
    | .warp w _ _ _ => if w.gang == some gid then some (savedWid + key, w) else none
    | _ => none

/-- The saved entries of a gang with their warps: the first `n`, as the gang save area gives them. One of a warp that has left its
slot has no warp, and no source block (DEDUCED, assumption 66). -/
def State.entriesFrom (s : State) (gid n : Nat) (es : List Entry) (rd : Nat → Nat → Nat) : List (Entry × Option Warp) :=
  (es.take n).zipIdx.filterMap fun (e, i) =>
    let at_ := 0x1000 + 128 * i
    let ws := s.gangWarps gid
    let named := ws.find? fun (wid, _) => s.placeInCluster wid == rd (at_ + 0x14) 4
    if e.wid == nobody && (named.isNone || s.entryPlace e == rd (at_ + 0x14) 4) then
      let l := AMap.get s.launches e.launch
      some (e.fromBytes nobody ((l.map (·.width)).getD 16) ((l.map (·.nw)).getD 0) fun off k => rd (at_ + off) k, none)
    else
      (named.orElse fun _ => ws.find? fun x => x.1 == e.wid).map fun (wid, w) =>
        (e.fromBytes wid w.width w.nw fun off k => rd (at_ + off) k, some w)

/-- Where the source block of the `i`-th of some entries stands, and how long it is (18 Table 18.3). -/
def State.blockAt (s : State) (es : List (Entry × Option Warp)) (i : Nat) (e : Entry) (w : Option Warp) : Nat × Nat :=
  let j := ((es.take i).filter fun x => x.1.wid == e.wid).length
  match w with
  | some w => ((s.saveBase w).toNat + controlOff w.width + 0x800 + 16 * w.width * j, 16 * w.width)
  | none => (0, 0)

/-- A gang put back at the cluster of its warps: its rendezvous, tiles and entries from the save areas, the entries in gang order; with
tiles it enters the tile queue, as one that waited does again, as of this cycle (11 R255, R256). -/
def State.restoreGang (s : State) (key gid : Nat) (es : List Entry) : State :=
  let core := s.saved.findSome? fun (_, x) => match x with
    | .warp w c _ _ => if w.gang == some gid then some c else none
    | _ => none
  match AMap.get s.gangs gid, core with
  | some g, some core =>
    let cl := clusterOfCore core
    let held := g.tiles.isSome
    let n := (g.tiles.map List.length).getD 0
    let fault (s : State) (va : Word) (k : FaultKind) : State := s.holdSave (dieOfCluster cl) g.ctx 1 gid va k
    let area : Nat × Nat := ((s.gangBase g).toNat, 0x2000 + 0x10000 * n)
    let read (s : State) (rs : List (Nat × Nat)) : State × Except (Word × FaultKind) (List Byte) :=
      s.takeIn [tlbCluster cl] g.ctx 1 gid 0 rs
    if 32 < (s.cluster cl).entries.length + es.length then s
    else match read s [area] with
      | (s, .error (va, k)) => fault s va k
      | (s, .ok bs) =>
        let rd := readsOf bs
        let q := rd 0 8
        let found := s.entriesFrom gid (natBits q 23 18) es rd
        let blocks := found.zipIdx.map fun ((e, w), i) => s.blockAt found i e w
        match read s (area :: blocks.filter fun x => x.2 != 0) with
        | (s, .error (va, k)) => fault s va k
        | (s, .ok bs) =>
          let all := readsOf bs
          let starts := blocks.zipIdx.map fun (_, i) => area.2 + ((blocks.take i).map (·.2)).sum
          let es := (found.zip starts).map fun ((e, w), o) => match w with
            | some w => e.withSources w.width fun off k => all (o + off) k
            | none => e
          let members (lo : Nat) : List Nat := (g.members.zipIdx.filter fun (_, i) => q.testBit (lo + i)).map (·.1)
          let latch := natBits q 17 13
          let s := ({ s with saved := AMap.erase s.saved key, stamp := s.stamp + 1 }).dropMove 1 gid
          let age := s.stamp
          let now := (s.die (dieOfCluster cl)).cycles
          let s := s.modGang gid fun g =>
            { g with
              cluster := cl, relArrived := members 32, arrived := members 24
              latch := if latch = 0 then none else some latch
              tiles := if held then some ((List.range n).map fun i => tileFrom rd (0x2000 + 0x10000 * i)) else none
              restore := held, waiting := held || g.waiting, age := age, turn := now * 2048 }
          es.foldl (fun s e =>
            match AMap.freeKey (s.cluster cl).entries 32 with
            | none => s
            | some k =>
              let s := s.modCluster cl fun c => { c with entries := AMap.set c.entries k e }
              s.renameHeld fun h => if h == .mxe savedCluster e.issued then .mxe cl k else h) s
  | some g, none => if s.warps.any fun (_, w) => w.gang == some gid then s
    else { s with saved := AMap.erase s.saved key, gangs := if g.members.any (s.teamWarpHere g.team) then s.gangs else AMap.erase s.gangs gid }
  | none, _ => { s with saved := AMap.erase s.saved key }

/-- A trap left pending is taken at resume, by the lanes that stand where its bundle resumes (18 R413). -/
def State.takePending (s : State) (wid : Nat) : State :=
  match s.warp? wid with
  | none => s
  | some w =>
    match causeOf w.tcause.toNat with
    | some c =>
      if !w.pend then s
      else
        let bundle := w.tmask ||| w.where fun x => x.live && x.pc == w.tepc
        (s.setWarp wid { w with pend := false }).takeTrap wid c bundle w.tmask w.tinfo w.tepc
    | none => s

/-- A quarter for a returning warp: its own where a slot is free there, or the first with one. -/
def State.returnQuarter (s : State) (core q : Nat) : Option Nat :=
  (q :: List.range 4).find? fun q => 0 < s.freeSlots core q

/-- A warp put back on the core of its allotment, once its slot, its claim and its bank are there: its registers and control
part from the save area, with what its engines have given it since it was saved, its lanes at their PCs, and a pending trap
taken (10 R227, 18 R413). -/
def State.restoreWarp (s : State) (key : Nat) (w was : Warp) (core q : Nat) : State :=
  let vid := savedWid + key
  let resident := s.allots.any fun (_, a) => a.team == w.team && a.core == core && !a.saved
  let gangOk := match w.gang.bind (AMap.get s.gangs) with
    | some g => g.cluster == clusterOfCore core
    | none => true
  let bank := match s.launchOf w with
    | some l => s.bankReady core l
    | none => false
  match s.returnQuarter core q with
  | none => s
  | some q =>
    if !resident || !gangOk || !bank || State.freeSlices s core < max w.fullClaim w.floor * w.slices
        || !poolTest ((w.floor, w.peak, w.slices) :: s.poolWarps core) then s
    else match s.takeIn [tlbCluster (clusterOfCore core)] w.ctx 0 vid (s.saveBase w) [(0, controlOff w.width + 0x800)] with
      | (s, .error (va, k)) => s.holdSave (dieOfCore core) w.ctx 0 vid va k
      | (s0, .ok bs) =>
        let rd := readsOf bs
        let wid := s0.lowestSlot core q
        let w' := (w.restoreRegisters rd fun line => s0.allots.any fun (_, a) => a.team == w.team && a.core == core && a.queues.contains line).restoreControl rd
        let now := (s0.die (dieOfCore core)).cycles
        let stop := w.stop && s0.dies.any fun d => d.traps.any fun t => t.wid == vid
        let w' := { w'.since was w with stop := stop, placed := now, issuedAt := now, ptsSince := now, spilled := [] }
        let s := ({ (s0.renameWarp vid wid) with saved := AMap.erase s0.saved key }).dropMove 0 vid
        let s := { s with allots := s.allots.map fun ((k, a) : Nat × Allot) =>
          (k, if a.team == w.team && a.teamCore == w.teamCore then { a with seats := AMap.set a.seats w.teamWarp (wid % 64) } else a) }
        match (s.setWarp wid w').moveLanes wid w with
        | (_, some (va, k)) => (s0.recordFault (dieOfCore core) w.ctx 1 .execute k va (.save 0 vid)).getD s0
        | (s, none) => s.takePending wid

/-- Answers given to held faults while a context was halted, applied once their work is back (18 R409). -/
def State.applyAnswers (s : State) (ctx : Nat) : State :=
  (List.range 2).foldl (fun s die =>
    ((s.die die).faults.filter fun (_, r) => r.ctx == ctx && r.answered.isSome && !r.held.away).foldl
      (fun s (n, r) => (s.takeFault die n).release r.held) s) s

/-- WARP_RESUME: a saved item returns in its turn, once it fits and no eviction keeps its core; when nothing that a halt of the context
saved is left to restore, its queues and launches start again (18 R412, R413). -/
def execWarpResume (s : State) : Host.Outcome State Fault Refusal :=
  let key := s.ev.unit
  .next (match AMap.get s.saved key with
    | none => s
    | some x =>
      match s.savedCtxOf x with
      | none => { s with saved := AMap.erase s.saved key }
      | some ctx =>
        let what := match x with
          | .warp _ _ _ _ => Held.save 0 (savedWid + key)
          | .gang g _ => Held.save 1 g
          | .allot a _ _ => Held.save 2 a
          | _ => Held.save 3 key
        let kept := match x with
          | .warp _ c _ _ => s.evicts.any fun e => !e.ended && e.cores.contains c && s.waitingLaunches.any fun l => l.1 == e.team
          | _ => false
        if !s.ctxRunning ctx || !s.turnOf ctx x || s.heldBy what || kept then s
        else
          let s := match x with
            | .allot id _ tvu => s.restoreAllot key id tvu
            | .cmd cl c => s.restoreCmd key cl c
            | .build b c => s.restoreBuild key b c
            | .gang gid es => s.restoreGang key gid es
            | .warp w core place was => s.restoreWarp key w was core (place / 16)
          let s := s.applyAnswers ctx
          if s.haltedSaved ctx then s
          else s.modCtx ctx fun c => if c.state == .running then { c with haltStep := 0 } else c)

/-- A halted context runs again: its saved work returns, and only then do its queues and launches start (18 R413). -/
def State.resumeCtx (s : State) (ctx : Nat) : State :=
  let step := if s.haltedSaved ctx then 9 else 0
  (s.modCtx ctx fun c =>
    { c with state := .running, haltStep := step, hcause := 0, hinfo := 0, hwho := 0, freezing := false }).applyAnswers ctx

end Sys2Proof.Machine
end

