-- ==== Sys2Proof/Machine/IntOps.lean ====
section
/-! DEFINITION. The lane results of the integer, logic and address instructions (06 R135-R150), as functions of the delivered lanes. -/
namespace Sys2Proof.IntOps

/-- Element by element over one source. -/
def map1 (t : Ty) (f : Nat → Nat) (a : Word) : Word := t.join ((t.elems a).map f)

/-- Element by element over two sources. -/
def map2 (t : Ty) (f : Nat → Nat → Nat) (a b : Word) : Word := t.join (List.zipWith f (t.elems a) (t.elems b))

/-- Element by element over three sources. -/
def map3 (t : Ty) (f : Nat → Nat → Nat → Nat) (a b c : Word) : Word :=
  t.join (List.zipWith (fun g z => g z) (List.zipWith f (t.elems a) (t.elems b)) (t.elems c))

/-- IADD: the exact sum narrowed once (06 R135). -/
def iadd (t : Ty) (sat : Bool) : Word → Word → Word := map2 t fun a b => t.narrow sat (t.toInt a + t.toInt b)
/-- ISUB (06 R135). -/
def isub (t : Ty) (sat : Bool) : Word → Word → Word := map2 t fun a b => t.narrow sat (t.toInt a - t.toInt b)
/-- IMUL (06 R135). -/
def imul (t : Ty) (sat : Bool) : Word → Word → Word := map2 t fun a b => t.narrow sat (t.toInt a * t.toInt b)
/-- IMAD: product and sum exact, narrowed once (06 R135). -/
def imad (t : Ty) (sat : Bool) : Word → Word → Word → Word :=
  map3 t fun a b c => t.narrow sat (t.toInt a * t.toInt b + t.toInt c)

/-- IMULH, and IMULH.su with the second factor unsigned: bits [2w−1:w] of the exact product (06 R136). -/
def imulh (t : Ty) (su : Bool) : Word → Word → Word :=
  map2 t fun a b =>
    let y : Int := if su then (b % 2 ^ t.width : Nat) else t.toInt b
    wrapTo t.width (t.toInt a * y / (2 ^ t.width : Nat))

/-- IMADW: the low or high half of the elements into sums of twice the width (06 R137). -/
def imadw (t : Ty) (hi sat : Bool) (a b c : Word) : Word :=
  let w := t.width
  let h := t.count / 2
  joinElems (2 * w) ((List.range h).map fun k =>
    let j := (if hi then h else 0) + k
    let ck := elemAt (2 * w) c k
    let cv : Int := if t.signed then toSigned (2 * w) ck else ck
    narrowInt t.signed sat (2 * w) (t.toInt (elemAt w a j) * t.toInt (elemAt w b j) + cv))

/-- IDIV, rounding toward zero, with the defined results for zero and overflow (06 R138). -/
def idiv (t : Ty) (sat : Bool) : Word → Word → Word :=
  map2 t fun a b =>
    let w := t.width
    let x := t.toInt a
    let y := t.toInt b
    if y == 0 then 2 ^ w - 1
    else if t.signed && x == rangeLo true w && y == -1 then wrapTo w (if sat then rangeHi true w else x)
    else wrapTo w (x.tdiv y)

/-- IREM, with the sign of the dividend (06 R138). -/
def irem (t : Ty) : Word → Word → Word :=
  map2 t fun a b =>
    let x := t.toInt a
    let y := t.toInt b
    if y == 0 then a else wrapTo t.width (x - (x.tdiv y) * y)

/-- IMIN (06 R139). -/
def imin (t : Ty) : Word → Word → Word := map2 t fun a b => if t.toInt b < t.toInt a then b else a
/-- IMAX (06 R139). -/
def imax (t : Ty) : Word → Word → Word := map2 t fun a b => if t.toInt a < t.toInt b then b else a
/-- IABS (06 R139). -/
def iabs (t : Ty) (sat : Bool) : Word → Word := map1 t fun a => t.narrow sat (t.toInt a).natAbs

/-- SHL, saturating or not (06 R140, Table 6.3). -/
def shl (t : Ty) (sat : Bool) : Word → Word → Word :=
  map2 t fun a k =>
    let w := t.width
    if sat then
      let x := t.toInt a
      if k < w then t.narrow true (x * (2 ^ k : Nat))
      else if x == 0 then 0 else wrapTo w (if x < 0 then rangeLo t.signed w else rangeHi t.signed w)
    else if k < w then a * 2 ^ k % 2 ^ w else 0

/-- SHR (06 R140). -/
def shr (t : Ty) : Word → Word → Word := map2 t fun a k => if k < t.width then a >>> k else 0
/-- SAR (06 R140). -/
def sar (t : Ty) : Word → Word → Word :=
  map2 t fun a k => wrapTo t.width (toSigned t.width a / (2 ^ (min k t.width) : Nat))

/-- FSHL.l on elements: the upper half of the pair shifted left by min(k, w) (06 R141). -/
def fshlElem (w a b k : Nat) : Nat := (((a * 2 ^ w + b) * 2 ^ (min k w)) >>> w) % 2 ^ w
/-- FSHL.r on elements (06 R141). -/
def fshrElem (w a b k : Nat) : Nat := ((a * 2 ^ w + b) >>> (min k w)) % 2 ^ w

/-- ROT.l and ROT.r (06 R140, R141). -/
def rot (t : Ty) (right : Bool) : Word → Word → Word :=
  map2 t fun a k => if right then fshrElem t.width a a (k % t.width) else fshlElem t.width a a (k % t.width)

/-- FSHL.l and FSHL.r (06 R141). -/
def fshl (t : Ty) (right : Bool) : Word → Word → Word → Word :=
  map3 t fun a b k => if right then fshrElem t.width a b k else fshlElem t.width a b k

/-- AND, OR, XOR and ANDN as whole-lane operations filled by the type (06 R142). -/
def andL (t : Ty) (a b : Word) : Word := t.fill (a &&& b)
def orL (t : Ty) (a b : Word) : Word := t.fill (a ||| b)
def xorL (t : Ty) (a b : Word) : Word := t.fill (a ^^^ b)
def andnL (t : Ty) (a b : Word) : Word := t.fill (a &&& ~~~b)

/-- LOP3: truth table bit 4 a + 2 b + c at each bit position (06 R143). -/
def lop3 (t : Ty) (table : BitVec 8) (a b c : Word) : Word :=
  let term (k : Nat) : Word :=
    if table.getLsbD k then
      (if k / 4 % 2 == 1 then a else ~~~a) &&& (if k / 2 % 2 == 1 then b else ~~~b) &&& (if k % 2 == 1 then c else ~~~c)
    else 0
  t.fill ((List.range 8).foldl (fun acc k => acc ||| term k) 0)

/-- How many of the low `w` bits are set. -/
def popCount (w a : Nat) : Nat := ((List.range w).filter a.testBit).length

/-- POPC, CLZ, CTZ and BREV (06 R144); a count stands in its element. -/
def popc (t : Ty) : Word → Word := map1 t fun a => popCount t.width a
def clz (t : Ty) : Word → Word := map1 t fun a => t.width - bitLen a
def ctz (t : Ty) : Word → Word := map1 t fun a => ((List.range t.width).find? a.testBit).getD t.width
def brev (t : Ty) : Word → Word :=
  map1 t fun a => (List.range t.width).foldl (fun acc i => if a.testBit i then acc + 2 ^ (t.width - 1 - i) else acc) 0

/-- BFX with its clamped field (06 R145). -/
def bfx (t : Ty) : Word → Word → Word → Word :=
  map3 t fun a pos len =>
    let w := t.width
    let p := min pos w
    let n := min len (w - p)
    if n == 0 then 0
    else
      let f := (a >>> p) % 2 ^ n
      if t.signed then wrapTo w (toSigned n f) else f

/-- BFI with its clamped field (06 R145). -/
def bfi (t : Ty) (a b pos len : Word) : Word :=
  t.join ((List.range t.count).map fun k =>
    let w := t.width
    let ak := elemAt w a k
    let p := min (elemAt w pos k) w
    let n := min (elemAt w len k) (w - p)
    ak - (ak >>> p) % 2 ^ n * 2 ^ p + elemAt w b k % 2 ^ n * 2 ^ p)

/-- ICMP by variant: 0 eq, 1 ne, 2 lt, 3 le, 4 gt, 5 ge (06 R146). -/
def icmp (t : Ty) (variant : Nat) (a b : Word) : Bool :=
  let x := t.toInt (elemAt t.width a 0)
  let y := t.toInt (elemAt t.width b 0)
  match variant with
  | 0 => x == y
  | 1 => x != y
  | 2 => x < y
  | 3 => x ≤ y
  | 4 => y < x
  | _ => y ≤ x

/-- IADDC.c and IADDC.b: result and carry or borrow (06 R147). -/
def iaddc (t : Ty) (borrow : Bool) (a b : Word) (ci : Bool) : Word × Bool :=
  let w := t.width
  let c : Nat := if ci then 1 else 0
  let x : Int := if borrow then (elemAt w a 0 : Int) - elemAt w b 0 - c else (elemAt w a 0 : Int) + elemAt w b 0 + c
  (t.fill (BitVec.ofNat 64 (wrapTo w x)), if borrow then x < 0 else (2 ^ w : Nat) ≤ x)

/-- LEA: base + index × 2^scale + offset, all 64 bits (06 R148). -/
def lea (t : Ty) (base index : Word) (scale : Nat) (off : Word) : Word :=
  let x : Word := match t with
    | .i32 => BitVec.ofInt 64 (toSigned 32 index.toNat)
    | .n32 => BitVec.ofNat 64 (index.toNat % 2 ^ 32)
    | _ => index
  base + (x <<< scale) + off

/-- SAD (06 R149). -/
def sad (t : Ty) (sat : Bool) (a b c : Word) : Word :=
  let ds := List.zipWith (fun x y => (t.toInt x - t.toInt y).natAbs) (t.elems a) (t.elems b)
  let x := c.toNat + ds.foldl (· + ·) 0
  BitVec.ofNat 64 (if sat then min x (2 ^ 64 - 1) else x)

/-- ACS on one element: the survivor and whether the second candidate was taken (06 R150). -/
def acsElem (mp sat larger modular : Bool) (a b m : Int) : Nat × Bool :=
  let x := narrowInt true sat 16 (if mp then a - m else a + m)
  let y := narrowInt true sat 16 (if mp then b + m else b - m)
  let d := toSigned 16 x - toSigned 16 y
  let d := if modular then toSigned 16 (wrapTo 16 d) else d
  let takeY := if larger then decide (d < 0) else decide (0 < d)
  (if takeY then y else x, takeY)

/-- ACS on a lane: four survivors and four decision bits (06 R150). -/
def acs (mp sat larger modular : Bool) (a b m : Word) : Word × List Bool :=
  let rs := (List.range 4).map fun k =>
    acsElem mp sat larger modular (toSigned 16 (elemAt 16 a k)) (toSigned 16 (elemAt 16 b k)) (toSigned 16 (elemAt 16 m k))
  (joinElems 16 (rs.map (·.1)), rs.map (·.2))

end Sys2Proof.IntOps
end

