-- ==== Sys2Proof/Machine/Integer.lean ====
section
/-! DEFINITION. Integer, logic and address instructions (06 R131-R150). -/
namespace Sys2Proof.Machine

/-- One value a lane from sources 1, 2 and 3. -/
def int1 (e : Enc) (f : Fields) (s : State) (g : Word → Word) : Host.Outcome State Fault Refusal :=
  lanewise e f s fun i l => g (i.src 1 l)
def int2 (e : Enc) (f : Fields) (s : State) (g : Word → Word → Word) : Host.Outcome State Fault Refusal :=
  lanewise e f s fun i l => g (i.src 1 l) (i.src 2 l)
def int3 (e : Enc) (f : Fields) (s : State) (g : Word → Word → Word → Word) : Host.Outcome State Fault Refusal :=
  lanewise e f s fun i l => g (i.src 1 l) (i.src 2 l) (i.src 3 l)

/-- An amount operand: an immediate stands in every element, at most the element's greatest value, which is past every
shift and position already (06 R132; DEDUCED, assumption 13). -/
def Iss.amount (i : Iss) (k l : Nat) : Word :=
  match i.op k with
  | .imm x => splat i.f.ty.width (min x.toNat (2 ^ i.f.ty.width - 1))
  | _ => i.src k l

/-- A rotation amount: an immediate counts modulo the width (06 R132, R140). -/
def Iss.turn (i : Iss) (k l : Nat) : Word :=
  match i.op k with
  | .imm x => splat i.f.ty.width (x.toNat % i.f.ty.width)
  | _ => i.src k l

/-- A shift or rotation of source 1 by amount 2. -/
def shift2 (e : Enc) (f : Fields) (s : State) (g : Word → Word → Word) : Host.Outcome State Fault Refusal :=
  lanewise e f s fun i l => g (i.src 1 l) (i.amount 2 l)

/-- IADD (06 R135). -/
def execIadd (f : Fields) (s : State) : Host.Outcome State Fault Refusal := int2 Enc.iadd f s (IntOps.iadd f.ty f.sat)
/-- ISUB (06 R135). -/
def execIsub (f : Fields) (s : State) : Host.Outcome State Fault Refusal := int2 Enc.isub f s (IntOps.isub f.ty f.sat)
/-- IMUL (06 R135). -/
def execImul (f : Fields) (s : State) : Host.Outcome State Fault Refusal := int2 Enc.imul f s (IntOps.imul f.ty f.sat)
/-- IMAD (06 R135). -/
def execImad (f : Fields) (s : State) : Host.Outcome State Fault Refusal := int3 Enc.imad f s (IntOps.imad f.ty f.sat)
/-- IMULH (06 R136). -/
def execImulh (f : Fields) (s : State) : Host.Outcome State Fault Refusal := int2 Enc.imulh f s (IntOps.imulh f.ty false)
/-- IMULH.su (06 R136). -/
def execImulhSu (f : Fields) (s : State) : Host.Outcome State Fault Refusal :=
  int2 Enc.imulhSu f s (IntOps.imulh f.ty true)
/-- IMADW.lo (06 R137). -/
def execImadwLo (f : Fields) (s : State) : Host.Outcome State Fault Refusal :=
  int3 Enc.imadwLo f s (IntOps.imadw f.ty false f.sat)
/-- IMADW.hi (06 R137). -/
def execImadwHi (f : Fields) (s : State) : Host.Outcome State Fault Refusal :=
  int3 Enc.imadwHi f s (IntOps.imadw f.ty true f.sat)
/-- IDIV (06 R138). -/
def execIdiv (f : Fields) (s : State) : Host.Outcome State Fault Refusal := int2 Enc.idiv f s (IntOps.idiv f.ty f.sat)
/-- IREM (06 R138). -/
def execIrem (f : Fields) (s : State) : Host.Outcome State Fault Refusal := int2 Enc.irem f s (IntOps.irem f.ty)
/-- IMIN (06 R139). -/
def execImin (f : Fields) (s : State) : Host.Outcome State Fault Refusal := int2 Enc.imin f s (IntOps.imin f.ty)
/-- IMAX (06 R139). -/
def execImax (f : Fields) (s : State) : Host.Outcome State Fault Refusal := int2 Enc.imax f s (IntOps.imax f.ty)
/-- IABS (06 R139). -/
def execIabs (f : Fields) (s : State) : Host.Outcome State Fault Refusal := int1 Enc.iabs f s (IntOps.iabs f.ty f.sat)
/-- SHL (06 R140). -/
def execShl (f : Fields) (s : State) : Host.Outcome State Fault Refusal := shift2 Enc.shl f s (IntOps.shl f.ty f.sat)
/-- SHR (06 R140). -/
def execShr (f : Fields) (s : State) : Host.Outcome State Fault Refusal := shift2 Enc.shr f s (IntOps.shr f.ty)
/-- SAR (06 R140). -/
def execSar (f : Fields) (s : State) : Host.Outcome State Fault Refusal := shift2 Enc.sar f s (IntOps.sar f.ty)
/-- ROT.l (06 R140). -/
def execRotL (f : Fields) (s : State) : Host.Outcome State Fault Refusal :=
  lanewise Enc.rotL f s fun i l => IntOps.rot f.ty false (i.src 1 l) (i.turn 2 l)
/-- ROT.r (06 R140). -/
def execRotR (f : Fields) (s : State) : Host.Outcome State Fault Refusal :=
  lanewise Enc.rotR f s fun i l => IntOps.rot f.ty true (i.src 1 l) (i.turn 2 l)
/-- FSHL.l (06 R141). -/
def execFshlL (f : Fields) (s : State) : Host.Outcome State Fault Refusal :=
  lanewise Enc.fshlL f s fun i l => IntOps.fshl f.ty false (i.src 1 l) (i.src 2 l) (i.amount 3 l)
/-- FSHL.r (06 R141). -/
def execFshlR (f : Fields) (s : State) : Host.Outcome State Fault Refusal :=
  lanewise Enc.fshlR f s fun i l => IntOps.fshl f.ty true (i.src 1 l) (i.src 2 l) (i.amount 3 l)
/-- AND (06 R142). -/
def execAndB (f : Fields) (s : State) : Host.Outcome State Fault Refusal := int2 Enc.andB f s (IntOps.andL f.ty)
/-- OR (06 R142). -/
def execOrB (f : Fields) (s : State) : Host.Outcome State Fault Refusal := int2 Enc.orB f s (IntOps.orL f.ty)
/-- XOR (06 R142). -/
def execXor (f : Fields) (s : State) : Host.Outcome State Fault Refusal := int2 Enc.xor f s (IntOps.xorL f.ty)
/-- ANDN (06 R142). -/
def execAndn (f : Fields) (s : State) : Host.Outcome State Fault Refusal := int2 Enc.andn f s (IntOps.andnL f.ty)
/-- LOP3 (06 R143). -/
def execLop3 (f : Fields) (s : State) : Host.Outcome State Fault Refusal := int3 Enc.lop3 f s (IntOps.lop3 f.ty f.mods)
/-- POPC (06 R144). -/
def execPopc (f : Fields) (s : State) : Host.Outcome State Fault Refusal := int1 Enc.popc f s (IntOps.popc f.ty)
/-- CLZ (06 R144). -/
def execClz (f : Fields) (s : State) : Host.Outcome State Fault Refusal := int1 Enc.clz f s (IntOps.clz f.ty)
/-- CTZ (06 R144). -/
def execCtz (f : Fields) (s : State) : Host.Outcome State Fault Refusal := int1 Enc.ctz f s (IntOps.ctz f.ty)
/-- BREV (06 R144). -/
def execBrev (f : Fields) (s : State) : Host.Outcome State Fault Refusal := int1 Enc.brev f s (IntOps.brev f.ty)
/-- BFX (06 R145). -/
def execBfx (f : Fields) (s : State) : Host.Outcome State Fault Refusal :=
  lanewise Enc.bfx f s fun i l => IntOps.bfx f.ty (i.src 1 l) (i.amount 2 l) (i.amount 3 l)
/-- BFI (06 R145), with A from operand 1, B from operand 2 and the amounts in operands 3 and 4 as Table 6.1 has them: the line under
the table, which makes A, B and C operands 2, 3 and 4, would put A and B on other columns (DEDUCED, assumption 115). -/
def execBfi (f : Fields) (s : State) : Host.Outcome State Fault Refusal :=
  lanewise Enc.bfi f s fun i l => IntOps.bfi f.ty (i.src 1 l) (i.src 2 l) (i.amount 3 l) (i.amount 4 l)

/-- ICMP (06 R146). -/
def execIcmp (f : Fields) (s : State) : Host.Outcome State Fault Refusal :=
  irlek Enc.icmp f s fun i s =>
    let bits := Mask.of 64 fun l => i.act.has l && IntOps.icmp f.ty f.variant.toNat (i.src 1 l) (i.src 2 l)
    match f.op0 with
    | .p n => .ok s [.p n.toNat i.act bits]
    | _ => .ok s []

/-- The predicate of operand 4, absent as false (06 R147). -/
def Iss.carryIn (i : Iss) (l : Nat) : Bool :=
  match i.op 4 with
  | .p n => (i.w.preg n.toNat).has l
  | _ => false

/-- IADDC of a lane's result and carry; an absent carry destination keeps nothing (06 R147). -/
def addCarry (e : Enc) (borrow : Bool) (f : Fields) (s : State) : Host.Outcome State Fault Refusal :=
  irlek e f s fun i s =>
    let r (l : Nat) : Word × Bool := IntOps.iaddc f.ty borrow (i.src 2 l) (i.src 3 l) (i.carryIn l)
    let carry := match f.op1 with
      | .p n => [Wr.p n.toNat i.act (Mask.of 64 fun l => i.act.has l && (r l).2)]
      | _ => []
    .ok s (i.dest (fun l => (r l).1) ++ carry)

/-- IADDC.c (06 R147). -/
def execIaddcC (f : Fields) (s : State) : Host.Outcome State Fault Refusal := addCarry Enc.iaddcC false f s
/-- IADDC.b (06 R147). -/
def execIaddcB (f : Fields) (s : State) : Host.Outcome State Fault Refusal := addCarry Enc.iaddcB true f s

/-- LEA (06 R148). -/
def execLea (f : Fields) (s : State) : Host.Outcome State Fault Refusal :=
  lanewise Enc.lea f s fun i l => IntOps.lea f.ty (i.src 1 l) (i.src 2 l) (i.src 3 l).toNat (i.src 4 l)

/-- SAD (06 R149). -/
def execSad (f : Fields) (s : State) : Host.Outcome State Fault Refusal := int3 Enc.sad f s (IntOps.sad f.ty f.sat)

/-- ACS: the survivors, and the four decisions to four predicates (06 R150). -/
def addCompareSelect (e : Enc) (mp : Bool) (f : Fields) (s : State) : Host.Outcome State Fault Refusal :=
  irlek e f s fun i s =>
    let larger := f.mods.getLsbD 0
    let modular := f.mods.getLsbD 1
    let r (l : Nat) : Word × List Bool := IntOps.acs mp f.sat larger modular (i.src 2 l) (i.src 3 l) (i.src 4 l)
    let preds := match f.op1 with
      | .p n => (List.range 4).map fun k =>
          Wr.p (n.toNat + k) i.act (Mask.of 64 fun l => i.act.has l && (((r l).2)[k]?).getD false)
      | _ => []
    .ok s (i.dest (fun l => (r l).1) ++ preds)

/-- ACS.pm (06 R150). -/
def execAcsPm (f : Fields) (s : State) : Host.Outcome State Fault Refusal := addCompareSelect Enc.acsPm false f s
/-- ACS.mp (06 R150). -/
def execAcsMp (f : Fields) (s : State) : Host.Outcome State Fault Refusal := addCompareSelect Enc.acsMp true f s

end Sys2Proof.Machine
end

