-- ==== Sys2Proof/Machine/Links.lean ====
section
/-! DEFINITION. Peers: the register space, the mailbox window, and accesses to memory with and without Kerrum time (13 R317, R318, 17 R375, 19 R421-R423, R431). -/
namespace Sys2Proof.Machine

/-! ### The mailbox (19 R422, R423) -/

def State.mbx (s : State) : Mailbox := s.sup.mailbox
def State.modMbx (s : State) (f : Mailbox → Mailbox) : State := { s with sup := { s.sup with mailbox := f s.sup.mailbox } }

/-- The mailbox idle, its buffer zero; the count of dropped requests stays. -/
def Mailbox.idle (m : Mailbox) : Mailbox := { Mailbox.fresh with dropped := m.dropped }

/-- Bytes of the buffer, zero where nothing was written. -/
def Mailbox.bytes (m : Mailbox) (off n : Nat) : List Byte := (List.range n).map fun i => (m.buffer[off + i]?).getD 0

/-- Bytes written into the buffer of 3,840. -/
def Mailbox.put (m : Mailbox) (off : Nat) (bs : List Byte) : Mailbox :=
  { m with buffer := m.bytes 0 off ++ bs ++ m.bytes (off + bs.length) (3840 - off - bs.length) }

/-- Bytes of an answer's body that a segment carries. -/
def segmentBytes : Nat := 3792

/-- Segment `j` of a body, zero beyond it. -/
def segmentOf (body : List Byte) (j : Nat) : List Byte :=
  let bs := (body.drop (segmentBytes * j)).take segmentBytes
  bs ++ List.replicate (segmentBytes - bs.length) 0

/-- A claim that has run out its 10 ms, outside a takeover (19 R422). -/
def State.claimLapsed (s : State) : Bool :=
  (s.mbx.state == .claimed || s.mbx.state == .answered) && s.sup.takeover == 0 && s.mbx.at_ + 10000000 < s.elapsed

/-- The mailbox idle once its claim has run out. -/
def State.lapsed (s : State) : State := if s.claimLapsed then s.modMbx Mailbox.idle else s

/-- A read of CLAIM by a peer: an idle mailbox becomes claimed by it, with a token that is not zero; otherwise all ones. -/
def State.claim (s : State) (peer : Nat) : State :=
  if s.mbx.state != .idle then s.post ⟨peer, 0, [2 ^ 64 - 1]⟩
  else
    let (k, s) := s.choose (2 ^ 32 - 1)
    let s := s.modMbx fun m => { m with state := .claimed, token := k + 1, claimant := peer, at_ := s.elapsed }
    s.post ⟨peer, 0, [k + 1]⟩

/-- The claim's own peer and token. -/
def State.holdsClaim (s : State) (peer token : Nat) : Bool :=
  s.mbx.state != .idle && s.mbx.claimant == peer && s.mbx.token == token

/-- A request record (19 Table 19.9). -/
structure Req where
  id : Nat
  code : Nat
  len : Nat
  ctx : Nat
  tag : Nat
  head : List Byte
  body : List Byte

/-- The request in the buffer. -/
def Mailbox.request (m : Mailbox) : Req :=
  let num (off n : Nat) : Nat := ofBytes (m.bytes off n)
  ⟨num 0 8, num 8 2, num 0xA 2, num 0xC 4, num 0x10 16, m.bytes 0 16, m.bytes 0x20 (min (num 0xA 2) 3808)⟩

/-- A field of a request's body. -/
def Req.field (r : Req) (off n : Nat) : Nat := numIn r.body off n
/-- CREATE and ATTEST name no context and carry no tag. -/
def Req.bare (r : Req) : Bool := r.code == 1 || r.code == 7

/-- The primary serves the mailbox: it has booted, and no takeover is under way (19 R425, R426). -/
def State.serves (s : State) : Bool :=
  s.sup.takeover == 0 && s.sup.fatal == 0
  && ((s.sup.complexes[s.sup.primary]?).map fun c => c.booted && !c.failed).getD false

/-- The journal's entry for a request of a peer (19 R419). -/
def State.journalled (s : State) (peer id : Nat) : Option Journal := s.sup.journal.find? fun j => j.owner == peer && j.id == id

/-- The key that a request's tag is made under: that of its journal entry, or of the context it names. -/
def State.requestKey (s : State) (peer : Nat) (r : Req) : Option Nat :=
  match s.journalled peer r.id with
  | some j => some j.key
  | none => (AMap.get s.ctxs r.ctx).map (·.key)

/-- The tag of a request (19 Table 19.9). -/
def requestTag (key : Nat) (r : Req) : Nat := kmac256 key "HY960 REQUEST" (r.head ++ r.body)

/-- An answer written into the buffer: its head, tag and first segment (19 Table 19.10). A `key` of none leaves the tag 0. -/
def State.writeAnswer (s : State) (r : Req) (key : Option Nat) (result : Nat) (body : List Byte) : State :=
  let head := bytesOf 8 r.id ++ bytesOf 2 r.code ++ bytesOf 2 result ++ bytesOf 4 body.length
  let stamp := bytesOf 8 s.incarnation ++ bytesOf 8 s.ns
  let tag := match key with
    | some k => kmac256 k "HY960 ANSWER" (head ++ stamp ++ body)
    | none => 0
  s.modMbx fun m =>
    { m with
      state := .answered, at_ := s.elapsed, answer := body, segment := 0
      buffer := head ++ bytesOf 16 tag ++ stamp ++ segmentOf body 0 }

/-- A request answered: journalled first, so that it never runs again (19 R419). -/
def State.answer (s : State) (r : Req) (key : Option Nat) (result : Nat) (body : List Byte) : State :=
  let j : Journal := ⟨s.mbx.claimant, r.id, key.getD 0, r.code, result, body⟩
  ({ s with sup := { s.sup with journal := s.sup.journal ++ [j] } }).writeAnswer r key result body

/-- A submitted request examined: a bad tag drops it, a journalled id is answered from the journal, an unknown code is
malformed; any other waits to be served (19 R419, R422, R424). -/
def State.vet (s : State) : State :=
  let m := s.mbx
  let r := m.request
  if m.state != .running || !s.serves then s
  else
    let good := r.bare || ((s.requestKey m.claimant r).map fun k => requestTag k r == r.tag).getD false
    if !good then
      s.modMbx fun m => { m with state := .claimed, buffer := [], dropped := (m.dropped + 1) % 2 ^ 64, at_ := s.elapsed }
    else match s.journalled m.claimant r.id with
      | some j => s.writeAnswer { r with code := j.code } (if j.code == 7 || (j.code == 1 && j.result != 0) then none else some j.key)
          j.result j.body
      | none =>
        if r.code = 0 || 8 < r.code || 3808 < r.len || (r.bare && (r.tag != 0 || r.ctx != 0)) then
          s.answer r (if r.bare then none else s.requestKey m.claimant r) 1 []
        else s

/-- A write of SUBMIT. -/
def State.submitRequest (s : State) (peer token : Nat) : State :=
  if s.holdsClaim peer token && s.mbx.state == .claimed then (s.modMbx fun m => { m with state := .running }).vet else s

/-- A write of NEXT: the next segment of the answer, if there is one. -/
def State.nextSegment (s : State) (peer token : Nat) : State :=
  let m := s.mbx
  if s.holdsClaim peer token && m.state == .answered && segmentBytes * (m.segment + 1) < m.answer.length then
    s.modMbx fun m => { m.put 0x30 (segmentOf m.answer (m.segment + 1)) with segment := m.segment + 1 }
  else s

/-- A write of RELEASE: the buffer is zeroed and the mailbox idle; a request that runs is answered first. -/
def State.releaseClaim (s : State) (peer token : Nat) : State :=
  if s.holdsClaim peer token && s.mbx.state != .running then s.modMbx Mailbox.idle else s

/-- CLAIM (19 R422); like every access to the mailbox it finds a claim lapsed that has run out. -/
def execMbxClaim (s : State) : Host.Outcome State Fault Refusal := .next (s.lapsed.claim s.peerId)
/-- SUBMIT (19 R422). -/
def execMbxSubmit (s : State) : Host.Outcome State Fault Refusal :=
  .next ((s.lapsed.submitRequest s.peerId s.ev.item).post ⟨s.peerId, 2, []⟩)
/-- NEXT (19 R422). -/
def execMbxNext (s : State) : Host.Outcome State Fault Refusal :=
  .next ((s.lapsed.nextSegment s.peerId s.ev.item).post ⟨s.peerId, 2, []⟩)
/-- RELEASE (19 R422). -/
def execMbxRelease (s : State) : Host.Outcome State Fault Refusal :=
  .next ((s.lapsed.releaseClaim s.peerId s.ev.item).post ⟨s.peerId, 2, []⟩)

/-- CLAIM_LAPSE (19 R422). -/
def execClaimLapse (s : State) : Host.Outcome State Fault Refusal := .next s.lapsed

/-- STATE of the mailbox (19 Table 19.8). -/
def State.mbxStatus (s : State) : Nat :=
  let code := match s.mbx.state with
    | .idle => 0
    | .claimed => 1
    | .running => 2
    | .answered => 3
  code + (if s.sup.locked then 4 else 0) + (if s.mbx.state == MbxState.idle then 0 else s.mbx.token) * 2 ^ 32

/-! ### The register space (17 Table 17.1, 19 Tables 19.7, 19.8) -/

/-- The first local addresses of the register space and of the mailbox window. -/
def registerBase : Nat := 0x3FFFE00000
def mailboxBase : Nat := 0x3FFFF00000

/-- Where a local address of the register space lies. -/
inductive RegPlace where
  | queue (q off : Nat) | mailbox (off : Nat) | unlisted
  deriving DecidableEq

/-- The window of a local address (19 Table 19.7). -/
def regPlace (l : Nat) : RegPlace :=
  if registerBase ≤ l && l < mailboxBase then .queue ((l - registerBase) / 0x1000) ((l - registerBase) % 0x1000)
  else if mailboxBase ≤ l && l < mailboxBase + 0x1000 then .mailbox (l - mailboxBase)
  else .unlisted

/-- The physical address that a peer's access names: over UALink it is that address; over Ultra Ethernet it is the offset in the part's
RMA window, which is a local address of this package (19 R421). -/
def State.linkAddress (s : State) : Nat :=
  if s.ev.ether then s.links.package * 2 ^ 46 + s.ev.item % 2 ^ 46 else s.ev.item

/-- A link address of this package's register space. -/
def State.inRegisters (s : State) (pa : Nat) : Bool :=
  packageOf pa == s.links.package && registerBase ≤ localOf pa && localOf pa < 0x4000000000

/-- STATUS of a queue window. -/
def Queue.statusWord (k : Queue) : Nat := k.status % 256 + if k.stopped then 256 else 0

/-- A read of 8 bytes of a queue window (17 Table 17.1). -/
def State.readQueueWindow (s : State) (peer q off : Nat) : State :=
  match s.liveQueue q with
  | none => s.refusePeer peer
  | some k =>
    if !s.admits k peer then s.refusePeer peer
    else match off with
      | 0x00 => s.readTicket peer q
      | 0x08 => s.post ⟨peer, 0, [k.rd]⟩
      | 0x10 => s.post ⟨peer, 0, [k.statusWord]⟩
      | 0x18 => s.post ⟨peer, 0, [k.missed]⟩
      | 0x20 => s.post ⟨peer, 0, [k.late]⟩
      | 0x28 => s.post ⟨peer, 0, [k.badNotify]⟩
      | _ => s.post ⟨peer, 0, [0]⟩

/-- A read of 8 bytes of the mailbox window (19 Table 19.8). -/
def State.readMailbox (s : State) (peer off : Nat) : State :=
  let m := s.mbx
  match off with
  | 0x00 => s.claim peer
  | 0x20 => s.post ⟨peer, 0, [s.mbxStatus]⟩
  | 0x28 => s.post ⟨peer, 0, [s.incarnation]⟩
  | 0x30 => s.post ⟨peer, 0, [s.ns]⟩
  | 0x38 => s.post ⟨peer, 0, [m.dropped]⟩
  | _ =>
    let mine := m.state != MbxState.idle && m.claimant == peer
    s.post ⟨peer, 0, [if 0x100 ≤ off && mine then ofBytes (m.bytes (off - 0x100) 8) else 0]⟩

/-- A write to the mailbox window (19 Table 19.8): the tokens, or the buffer by the claimant. -/
def State.writeMailbox (s : State) (peer off : Nat) (bs : List Byte) : State :=
  let x := ofBytes bs
  let s := match off with
    | 0x08 => s.submitRequest peer x
    | 0x10 => s.nextSegment peer x
    | 0x18 => s.releaseClaim peer x
    | _ =>
      if 0x100 ≤ off && s.mbx.state != MbxState.idle && s.mbx.claimant == peer then s.modMbx fun m => m.put (off - 0x100) bs else s
  s.post ⟨peer, 2, []⟩

/-- A read of the register space is allowed: 8 bytes, aligned, in a listed window (19 R421). -/
def regReadOk (l n : Nat) : Bool := n == 8 && l % 8 == 0 && regPlace l != .unlisted

/-- A write of the register space is allowed: 8 bytes, aligned, in a listed window; the 32-byte NOTIFY; and 8 to 256 bytes
of the mailbox buffer (19 R421). -/
def regWriteOk (l n : Nat) : Bool :=
  l % 8 == 0 && match regPlace l with
    | .queue _ off => n == 8 || (off == 0x40 && n == 32)
    | .mailbox off => n == 8 || (0x100 ≤ off && 8 ≤ n && n ≤ 256 && off + n ≤ 0x1000)
    | .unlisted => false

/-- A read of the register space by a peer. -/
def State.readRegister (s : State) (peer l n : Nat) : State :=
  if !regReadOk l n then s.refusePeer peer
  else match regPlace l with
    | .queue q off => s.readQueueWindow peer q off
    | .mailbox off => s.lapsed.readMailbox peer off
    | .unlisted => s.refusePeer peer

/-- A write of the register space by a peer: of a queue window, only the NOTIFY record does anything. -/
def State.writeRegisterSpace (s : State) (peer l : Nat) (bs : List Byte) : State :=
  if !regWriteOk l bs.length then s.refusePeer peer
  else match regPlace l with
    | .queue q off =>
      if off == 0x40 && bs.length == 32 then s.takeNotify peer q bs
      else match s.liveQueue q with
        | none => s.refusePeer peer
        | some k => if s.admits k peer then s.post ⟨peer, 2, []⟩ else s.refusePeer peer
    | .mailbox off => s.lapsed.writeMailbox peer off bs
    | .unlisted => s.refusePeer peer

/-- An access of the register space that is not allowed: a read, or a write where `word` is not 0. -/
def State.regBad (s : State) : Bool :=
  let l := localOf s.linkAddress
  s.inRegisters s.linkAddress && !(if s.ev.word = 0 then regReadOk l s.ev.third else regWriteOk l s.ev.third)

/-- REGISTER_SPACE_ERROR: an access that the space does not allow gets an error completion and has no effect (19 R421). -/
def execRegisterSpaceError (s : State) : Host.Outcome State Fault Refusal :=
  .next (if s.regBad then s.refusePeer s.peerId else s)

/-! ### Memory (13 R318) -/

/-- A range cut at line boundaries. -/
def lineCuts : Nat → Nat → Nat → List (Nat × Nat)
  | 0, _, _ => []
  | fuel + 1, pa, n =>
    if n = 0 then []
    else
      let k := min n (256 - pa % 256)
      (pa, k) :: lineCuts fuel (pa + k) (n - k)

/-- An access that meets an absent line waits for it (08 R182). -/
def State.defer (s : State) (i : Instr) : State := { s with deferred := s.deferred ++ [.event i s.ev] }

/-- What a peer's write asks of a home: a store; an operation of the bank ALU with its variant, type and saturation; ATOMR's exchange
on a match, or exchange; a contribution to an exact slot of a format; or the flush of the slots of a range (12 R278, R281, R283, R294;
19 Table 19.6). -/
inductive PeerOp where
  | store
  | alu (variant : Nat) (ty : Ty) (sat : Bool)
  | cas
  | swap
  | add (fmt : Nat)
  | flush (n : Nat)
  deriving DecidableEq, Repr

/-- The operation that a PEER_LINK_WRITE's arguments name: `word` its kind, and `third` its variant, type and saturation, its format, or
the length of its range. -/
def peerOp (x : EventArgs) : PeerOp :=
  match x.word.toNat with
  | 1 => .alu (x.third % 16) ((Ty.ofCode (BitVec.ofNat 5 (x.third / 16))).getD .b64) (512 ≤ x.third)
  | 2 => .cas
  | 3 => .swap
  | 4 => .add (x.third % 3)
  | 5 => .flush x.third
  | _ => .store

/-- The bytes of memory that an operation names. -/
def PeerOp.extent (o : PeerOp) (bytes : Nat) : Nat :=
  match o with
  | .store => bytes
  | .alu _ ty _ => ty.width / 8
  | .cas | .swap => 16
  | .add fmt => if fmt = 0 then 4 else 2
  | .flush n => n

/-- An operation of a home stands at a multiple of its width (12 R290). -/
def PeerOp.aligned (o : PeerOp) (pa : Nat) : Bool :=
  match o with
  | .store | .flush _ => true
  | .alu _ ty _ => pa % (ty.width / 8) == 0
  | .cas | .swap => pa % 16 == 0
  | .add fmt => pa % (if fmt = 0 then 4 else 2) == 0

/-- The bytes that an access of a peer names. -/
def peerExtent (i : Instr) (x : EventArgs) : Nat := if i == .peerLinkRead then x.third else (peerOp x).extent x.bytes.length

/-- The identifier of the peer that a waiting access is of. -/
def State.peerOf (s : State) (x : EventArgs) : Nat := ({ s with ev := x } : State).peerId

/-- An access waits behind one of the same peer that names a line it names (13 R318). -/
def State.behind (s : State) (peer pa n : Nat) : Bool :=
  s.deferred.any fun a => match a with
    | .event i x =>
      let at_ := ({ s with ev := x } : State).linkAddress
      s.peerOf x == peer && lineOf at_ ≤ lineOf (pa + n - 1) && lineOf pa ≤ lineOf (at_ + peerExtent i x - 1)
    | _ => false

/-- The package that a UALink peer of the load-store domain is: its accelerator number, which the switch assigns (19 R421, R432). -/
def peerPackage (peer : Nat) : Nat := peer % 1024

/-- The sectors of a range within a line brought into L2. -/
def State.fillRange (s : State) (pa n : Nat) : State := (sectorCuts pa 3 n).foldl (fun s (b, _) => s.fillLine b 0) s

/-- A peer's read of one line: without a time at its rts; with a time as a load of that package, which is given a cached lease only
inside the coherence domain and where it is not NOCORE (13 R302, R317, R318). -/
def State.peerRead (s : State) (peer pa n : Nat) (nocore : Bool) : Option Nat → State × List Byte × Nat
  | none => let (s, b) := (s.fillRange pa n).untimedRead pa n; (s.seen pa n, b, 0)
  | some t =>
    let (s, b, t) := (s.fillRange pa n).homeLoad t pa n (s.links.coherence.contains (peerPackage peer) && !nocore)
    (s.seen pa n, b, t)

/-- A store of bytes within one line at one time: without a time of its own it is placed at rts + 1 (13 R302, R318). -/
def State.lineStore (s : State) (p pa : Nat) (bs : List Byte) : State × Nat :=
  let s := (s.fillRange pa bs.length).closeOver p pa bs.length
  let t := max p ((s.lineTimes pa).2 + 1)
  (((sectorCuts pa 3 bs.length).foldl (fun s (b, j) => s.pokeBytes b ((bs.drop (b - pa)).take j)) (s.setTimes pa t t)).checkTime t, t)

/-- The context number that a slot of another package's contribution carries: no context of this part has it. -/
def foreignCtx (peer : Nat) : Nat := 64 + peerPackage peer

/-- A peer's operation on one line's bytes, without a time or at its time: the state, what stood there where the operation returns it,
and its time. None for a contribution that must wait for room (12 R278, R281, R283, R285, R294, 13 R302, R313, R317, R318). -/
def State.peerWrite (s : State) (peer pa : Nat) (bs : List Byte) (op : PeerOp) (time : Option Nat) : Option (State × List Byte × Nat) :=
  let p := time.getD 0
  let arg (k n : Nat) : Nat := ofBytes ((bs.drop (k * n)).take n)
  let atomic (n : Nat) (f : Nat → Nat) : Option (State × List Byte × Nat) :=
    let (s, old, t) := (s.fillLine pa 0).homeAtomic p pa n f
    some (s, bytesOf n old, t)
  match op with
  | .store => let (s, t) := s.lineStore p pa bs; some (s, [], t)
  | .alu v ty sat => atomic (ty.width / 8) fun old => aluOp v ty sat old (arg 0 (ty.width / 8)) (arg 1 (ty.width / 8))
  | .cas => atomic 16 fun old => if old = arg 0 16 then arg 1 16 else old
  | .swap => atomic 16 fun _ => arg 0 16
  | .add fmt => (s.contribute 320 p (foreignCtx peer) 0 pa fmt (arg 0 (op.extent 0)) 0).map fun (s, t) => (s, [], t)
  | .flush n => some ((s.slotsOver pa n).foldl (fun (s, b, u) k =>
      let (s, t) := s.tailrace p k (some 0)
      (s, b, max u t)) (s, [], 0))

/-- A range of this package's memory. -/
def State.ownMemory (s : State) (pa n : Nat) : Bool :=
  packageOf pa == s.links.package && localOf pa + n ≤ 0x3000000000

/-- Two ranges overlap. -/
def overlap (a n b m : Nat) : Bool := a < b + m && b < a + n

/-- A physical range wholly held by contexts of an owner, whichever ranges of theirs make it up. -/
def heldRange (pages : List (Nat × Nat × Nat × Nat)) : Nat → Nat → Nat → Bool
  | 0, _, n => n == 0
  | fuel + 1, pa, n =>
    n == 0 || match pages.find? fun (_, len, p, _) => p ≤ pa && pa < p + len with
      | some (_, len, p, _) => heldRange pages fuel (pa + min n (p + len - pa)) (n - min n (p + len - pa))
      | none => false

/-- A physical range held by contexts of an owner. -/
def State.heldByOwner (s : State) (owner pa n : Nat) : Bool :=
  let pages := (s.ctxs.filter fun (_, c) => c.owner == owner).flatMap fun (_, c) => c.pages
  heldRange pages (pages.length + 1) pa n

/-- A peer may reach a range of this package's memory: over Ultra Ethernet only what is mapped for it, that is, held by a context that it
owns; and page tables, which the supervisor alone writes, no peer writes (19 R420, R431; assumption 124). -/
def State.reachable (s : State) (peer pa n : Nat) (write : Bool) : Bool :=
  s.ownMemory pa n && (!s.ev.ether || s.heldByOwner peer pa n)
  && !(write && s.ctxs.any fun (_, c) => c.tables.any fun t => overlap pa n t 4096)

/-- The time that a peer's access carries: over UALink only (19 Table 19.6). -/
def State.peerTime (s : State) : Option Nat := if s.ev.ether then none else s.ev.nums.head?

/-- A peer's access waits: at an absent line, or behind another access of it. -/
def State.peerWaits (s : State) (peer pa n : Nat) : Bool :=
  s.behind peer pa n || (lineCuts (n / 256 + 2) pa n).any fun (a, k) => s.absentAt a k

/-- PEER_LINK_READ: each line read at its rts, or a register of the part (13 R318, 19 R421). An access that carries a Kerrum time,
which `nums` gives, is a load of another package in the total order, NOCORE where `word` is not 0; its time goes back with the data
(13 R298, R302, R317, 19 Table 19.6). -/
def execPeerLinkRead (s : State) : Host.Outcome State Fault Refusal :=
  let peer := s.peerId
  let pa := s.linkAddress
  let n := s.ev.third
  .next (if s.inRegisters pa then s.readRegister peer (localOf pa) n
    else if !s.reachable peer pa n false then s.refusePeer peer
    else if s.peerWaits peer pa n then s.defer .peerLinkRead
    else
      let time := s.peerTime
      let nocore := s.ev.word != 0
      let (s, bs, t) := (lineCuts (n / 256 + 2) pa n).foldl (fun (s, acc, u) (a, k) =>
        let (s, b, t) := s.peerRead peer a k nocore time
        (s, acc ++ b, max u t)) (s, [], 0)
      s.post ⟨peer, 0, bs.map BitVec.toNat ++ if time.isNone then [] else [t]⟩)

/-- A peer's operation made line by line, with the greatest time of the lines, which a notify published with it carries. -/
def State.peerLines (s : State) (peer pa : Nat) (bs : List Byte) (op : PeerOp) (time : Option Nat) : Option (State × List Byte × Nat) :=
  let cuts := if op == .store then lineCuts (bs.length / 256 + 2) pa bs.length else [(pa, bs.length)]
  cuts.foldl (fun r (a, k) => r.bind fun (s, acc, u) =>
    (s.peerWrite peer a ((bs.drop (a - pa)).take k) op time).map fun (s, b, t) =>
      ({ s with links := { s.links with time := max s.links.time (s.lineTimes a).1 } }, acc ++ b, max u t)) (some (s, [], 0))

/-- PEER_LINK_WRITE: each line written at rts + 1, which is also its lease end, an atomic operation of a home, or a register of the part
(13 R318, 19 R421, R426). An access that carries a Kerrum time, which `nums` gives, is one of another package in the total order (13
R298, R317, 19 Table 19.6). -/
def execPeerLinkWrite (s : State) : Host.Outcome State Fault Refusal :=
  let peer := s.peerId
  let pa := s.linkAddress
  let bs := s.ev.bytes
  let op := peerOp s.ev
  let n := op.extent bs.length
  .next (if s.inRegisters pa then s.writeRegisterSpace peer (localOf pa) bs
    else if !s.reachable peer pa n true || !op.aligned pa then s.refusePeer peer
    else if s.peerWaits peer pa n then s.defer .peerLinkWrite
    else match s.peerLines peer pa bs op s.peerTime with
      | none => s.defer .peerLinkWrite
      | some (t, old, u) => t.post ⟨peer, 2, old.map BitVec.toNat ++ if s.peerTime.isNone then [] else [u]⟩)

end Sys2Proof.Machine
end

