-- ==== Sys2Proof/Machine/Moves.lean ====
section
/-! DEFINITION. Moves, predicate logic and cross-lane instructions, and the special registers (04 R97-R99, 05 R120-R130). -/
namespace Sys2Proof.Machine

/-! ### MOV, MOVW, BCASTW, SEL (05 R121, R122) -/

/-- MOV: the source, filled as its type says (05 R121). -/
def execMov (f : Fields) (s : State) : Host.Outcome State Fault Refusal :=
  lanewise Enc.mov f s fun i l => f.ty.fill (i.src 1 l)

/-- MOVW: the delivered value of the lowest active lane (05 R121). -/
def execMovw (f : Fields) (s : State) : Host.Outcome State Fault Refusal :=
  lanewise Enc.movw f s fun i _ => f.ty.fill (i.src 1 i.low)

/-- BCASTW: a uniform register in every active lane (05 R121). -/
def execBcastw (f : Fields) (s : State) : Host.Outcome State Fault Refusal :=
  lanewise Enc.bcastw f s fun i l => f.ty.fill (i.src 1 l)

/-- A predicate operand at a lane. -/
def Iss.pred (i : Iss) (k l : Nat) : Bool :=
  match i.op k with
  | .p n => (i.w.preg n.toNat).has l
  | _ => false

/-- BCASTW.p: bit `l` of the uniform register to lane `l`'s predicate (05 R121). -/
def execBcastwP (f : Fields) (s : State) : Host.Outcome State Fault Refusal :=
  irlek Enc.bcastwP f s fun i s => .ok s (i.bits 0 fun l => (i.uni 1).getLsbD l)

/-- SEL: one of two values by a predicate (05 R122). -/
def execSel (f : Fields) (s : State) : Host.Outcome State Fault Refusal :=
  lanewise Enc.sel f s fun i l => f.ty.fill (if i.pred 1 l then i.src 2 l else i.src 3 l)

/-! ### Predicate logic (05 R123) -/

/-- One predicate operation, lane by lane. -/
def predicate (e : Enc) (f : Fields) (s : State) (op : Bool → Bool → Bool) : Host.Outcome State Fault Refusal :=
  irlek e f s fun i s => .ok s (i.bits 0 fun l => op (i.pred 1 l) (i.pred 2 l))

/-- PAND (05 R123). -/
def execPand (f : Fields) (s : State) : Host.Outcome State Fault Refusal := predicate Enc.pand f s fun a b => a && b
/-- PAND.an (05 R123). -/
def execPandAn (f : Fields) (s : State) : Host.Outcome State Fault Refusal := predicate Enc.pandAn f s fun a b => a && !b
/-- POR (05 R123). -/
def execPor (f : Fields) (s : State) : Host.Outcome State Fault Refusal := predicate Enc.por f s fun a b => a || b
/-- POR.on (05 R123). -/
def execPorOn (f : Fields) (s : State) : Host.Outcome State Fault Refusal := predicate Enc.porOn f s fun a b => a || !b
/-- PXOR (05 R123). -/
def execPxor (f : Fields) (s : State) : Host.Outcome State Fault Refusal := predicate Enc.pxor f s fun a b => a != b
/-- PNOT (05 R123). -/
def execPnot (f : Fields) (s : State) : Host.Outcome State Fault Refusal := predicate Enc.pnot f s fun a _ => !a

/-! ### VOTE and MATCH (05 R124, R125) -/

/-- The active lanes whose predicate operand 1 is true. -/
def Iss.ballot (i : Iss) : Mask := Mask.of 64 fun l => i.act.has l && i.pred 1 l

/-- VOTE.ballot (05 R124). -/
def execVoteBallot (f : Fields) (s : State) : Host.Outcome State Fault Refusal :=
  lanewise Enc.voteBallot f s fun i _ => i.ballot

/-- VOTE.any (05 R124). -/
def execVoteAny (f : Fields) (s : State) : Host.Outcome State Fault Refusal :=
  irlek Enc.voteAny f s fun i s => .ok s (i.bits 0 fun _ => i.ballot != 0)

/-- VOTE.all (05 R124). -/
def execVoteAll (f : Fields) (s : State) : Host.Outcome State Fault Refusal :=
  irlek Enc.voteAll f s fun i s => .ok s (i.bits 0 fun _ => i.ballot == i.act)

/-- VOTE.uni (05 R124). -/
def execVoteUni (f : Fields) (s : State) : Host.Outcome State Fault Refusal :=
  irlek Enc.voteUni f s fun i s => .ok s (i.bits 0 fun _ => i.ballot == i.act || i.ballot == 0)

/-- A delivered value over the type's width (05 R125). -/
def matchValue (t : Ty) (x : Word) : Nat := x.toNat % 2 ^ t.width

/-- MATCH.any: the mask of the active lanes that hold the same value (05 R125). -/
def execMatchAny (f : Fields) (s : State) : Host.Outcome State Fault Refusal :=
  lanewise Enc.matchAny f s fun i l =>
    Mask.of 64 fun m => i.act.has m && matchValue f.ty (i.src 1 m) == matchValue f.ty (i.src 1 l)

/-- MATCH.all: whether every active lane holds the same value (05 R125). -/
def execMatchAll (f : Fields) (s : State) : Host.Outcome State Fault Refusal :=
  irlek Enc.matchAll f s fun i s =>
    let all := i.act.lanes.all fun m => matchValue f.ty (i.src 1 m) == matchValue f.ty (i.src 1 i.low)
    .ok s (i.bits 0 fun _ => all)

/-! ### REDUCE and SCAN (02 R35, 05 R126, R127) -/

/-- The elements that combine: those of the type, and the two binary32 parts of .c32 (05 R126). -/
def redElems (t : Ty) (x : Word) : List Nat := if t == .c32 then [elemAt 32 x 0, elemAt 32 x 1] else t.elems x
/-- The lane of combined elements. -/
def redJoin (t : Ty) (xs : List Nat) : Word := if t == .c32 then joinElems 32 xs else t.join xs
/-- The floating-point format that combines, if one does. -/
def redFmt (t : Ty) : Option Fmt := if t == .c32 then some fmtF32 else t.fmt

/-- One combining step of an element: operation 0 .add, 1 .min, 2 .max, 3 .and, 4 .or, 5 .xor (05 R126, R127). -/
def combineElem (op : Nat) (t : Ty) (env : FEnv) (a b : Nat) : Nat × FFlags :=
  match redFmt t with
  | some F =>
    match op with
    | 0 => F.add env a b
    | 1 => F.minMax false env.ftz a b
    | _ => F.minMax true env.ftz a b
  | none =>
    let r := match op with
      | 0 => t.narrow env.sat (t.toInt a + t.toInt b)
      | 1 => if t.toInt b < t.toInt a then b else a
      | 2 => if t.toInt a < t.toInt b then b else a
      | 3 => a &&& b
      | 4 => a ||| b
      | _ => a ^^^ b
    (r, 0)

/-- A partial result: elements and the flags raised on the way. -/
abbrev Partial := List Nat × FFlags

/-- One combining step, element position by element position, the lower-numbered input on the left. -/
def combine (op : Nat) (t : Ty) (env : FEnv) (a b : Partial) : Partial :=
  let rs := List.zipWith (combineElem op t env) a.1 b.1
  (rs.map (·.1), rs.foldl (fun fl r => fl ||| r.2) (a.2 ||| b.2))

/-- One level of the tree: neighbours combine, and an absent input passes the other on (02 R35). -/
def treeLevel (op : Nat) (t : Ty) (env : FEnv) : List (Option Partial) → List (Option Partial)
  | some a :: some b :: xs => some (combine op t env a b) :: treeLevel op t env xs
  | some a :: none :: xs => some a :: treeLevel op t env xs
  | none :: b :: xs => b :: treeLevel op t env xs
  | [x] => [x]
  | [] => []

/-- The tree over W positions. -/
def tree (op : Nat) (t : Ty) (env : FEnv) : Nat → List (Option Partial) → Option Partial
  | 0, xs => (xs.head?).getD none
  | k + 1, xs => tree op t env k (treeLevel op t env xs)

/-- What a lane contributes: its elements, flushed under FTZ in a floating-point form (05 R126). -/
def contribution (t : Ty) (env : FEnv) (x : Word) : Partial :=
  let xs := redElems t x
  (match redFmt t with
    | some F => xs.map (F.flushIn env.ftz)
    | none => xs, 0)

/-- The identity of an operation in every element (05 R126). -/
def redIdentity (op : Nat) (t : Ty) : Word :=
  let e : Nat := match redFmt t with
    | some F =>
      match op with
      | 1 => F.infBits
      | 2 => F.signed true F.infBits
      | _ => 0
    | none =>
      match op with
      | 1 => wrapTo t.width (rangeHi t.signed t.width)
      | 2 => wrapTo t.width (rangeLo t.signed t.width)
      | 3 => 2 ^ t.width - 1
      | _ => 0
  redJoin t ((redElems t 0).map fun _ => e)

/-- The operation of a REDUCE or SCAN variant. -/
def redOp (f : Fields) : Nat := f.variant.toNat % 8

/-- REDUCE: the tree over the active lanes (02 R35, 05 R126). -/
def execReduce (f : Fields) (s : State) : Host.Outcome State Fault Refusal :=
  irlek Enc.reduce f s (ident := redIdentity (redOp f) f.ty) fun i s =>
    let env := fenv f i.w.mode
    let leaf (l : Nat) : Option Partial := if i.act.has l then some (contribution f.ty env (i.src 1 l)) else none
    match tree (redOp f) f.ty env i.w.width.log2 ((List.range i.w.width).map leaf) with
    | some (xs, fl) => .ok (s.modWarp i.wid fun w => w.accrue fl) (i.dest fun _ => redJoin f.ty xs)
    | none => .ok s (i.dest fun _ => redIdentity (redOp f) f.ty)

/-- The running combination over the active lanes in ascending order: each lane with what stood before it and after it. -/
def scanFrom (op : Nat) (t : Ty) (env : FEnv) : List (Nat × Partial) → Option Partial → List (Nat × Option Partial × Partial)
  | [], _ => []
  | (l, x) :: xs, acc =>
    let now := match acc with
      | some a => combine op t env a x
      | none => x
    (l, acc, now) :: scanFrom op t env xs (some now)

/-- SCAN, inclusive or exclusive (02 R35, 05 R126). -/
def scanLanes (e : Enc) (exclusive : Bool) (f : Fields) (s : State) : Host.Outcome State Fault Refusal :=
  irlek e f s fun i s =>
    let env := fenv f i.w.mode
    let ins := i.act.lanes.map fun l => (l, contribution f.ty env (i.src 1 l))
    let outs := scanFrom (redOp f) f.ty env ins none
    let value (l : Nat) : Word :=
      match outs.find? (fun o => o.1 == l) with
      | some (_, some b, now) => redJoin f.ty (if exclusive then b.1 else now.1)
      | some (_, none, now) => if exclusive then redIdentity (redOp f) f.ty else redJoin f.ty now.1
      | none => 0
    -- an exclusive scan does not make the last lane's step
    let used := if exclusive then outs.dropLast else outs
    let fl := match used.getLast? with
      | some (_, _, now) => now.2
      | none => 0
    .ok (s.modWarp i.wid fun w => w.accrue fl) (i.dest value)

/-- SCAN inclusive (05 R126). -/
def execScan (f : Fields) (s : State) : Host.Outcome State Fault Refusal := scanLanes Enc.scan false f s
/-- SCAN exclusive (05 R126). -/
def execScanExclusive (f : Fields) (s : State) : Host.Outcome State Fault Refusal :=
  scanLanes Enc.scanExclusive true f s

/-! ### PERM, PACK, UNPK, SUBX (05 R128-R130) -/

/-- PERM: the delivered value of the lane an index names (05 R128). -/
def execPerm (f : Fields) (s : State) : Host.Outcome State Fault Refusal :=
  lanewise Enc.perm f s fun i l =>
    let w := i.w.width
    let k := (i.src 2 l).toNat
    if k < w then i.src 1 k
    else match natBits f.mods.toNat 1 0 with
      | 0 => 0
      | 1 => i.src 1 (w - 1)
      | _ => i.src 1 (k % w)

/-- PACK of a lane (05 R129). -/
def packLane (t : Ty) (sat : Bool) (a b : Word) : Word :=
  let w := t.width
  let half (x : Word) : List Nat :=
    (List.range (t.count / 2)).map fun k => narrowInt t.signed sat w (toSigned (2 * w) (elemAt (2 * w) x k))
  joinElems w (half a ++ half b)

/-- PACK: elements of twice the width narrowed, two sources side by side (05 R129). -/
def execPack (f : Fields) (s : State) : Host.Outcome State Fault Refusal :=
  lanewise Enc.pack f s fun i l => packLane f.ty f.sat (i.src 1 l) (i.src 2 l)

/-- UNPK of a lane: half `c` of the elements, each extended to twice the width (05 R129). -/
def unpkLane (t : Ty) (a : Word) (c : Nat) : Word :=
  let w := t.width
  let h := t.count / 2
  joinElems (2 * w) ((List.range h).map fun k => wrapTo (2 * w) (t.toInt (elemAt w a (h * c + k))))

/-- UNPK (05 R129). -/
def execUnpk (f : Fields) (s : State) : Host.Outcome State Fault Refusal :=
  lanewise Enc.unpk f s fun i l => unpkLane f.ty (i.src 1 l) (i.src 2 l).toNat

/-- SUBX of a lane: each element chosen by a selector field of `b` bits from a concatenation (05 R130). -/
def subxLane (t : Ty) (b : Nat) (xs : List Nat) (sel : Word) : Word :=
  joinElems t.width ((List.range t.count).map fun j => (xs[(sel.toNat >>> (j * b)) % 2 ^ b]?).getD 0)

/-- SUBX of one source (05 R130). -/
def execSubx (f : Fields) (s : State) : Host.Outcome State Fault Refusal :=
  lanewise Enc.subx f s fun i l => subxLane f.ty f.ty.count.log2 (f.ty.elems (i.src 1 l)) (i.src 2 l)

/-- SUBX.two: indexes past the first source's elements name the second's (05 R130). -/
def execSubxTwo (f : Fields) (s : State) : Host.Outcome State Fault Refusal :=
  lanewise Enc.subxTwo f s fun i l =>
    subxLane f.ty (f.ty.count.log2 + 1) (f.ty.elems (i.src 1 l) ++ f.ty.elems (i.src 2 l)) (i.src 3 l)

/-! ### MOVS (04 R97-R99) -/

/-- The value of a special register at a lane (04 Table 4.5). -/
def specialReg (s : State) (i : Iss) (n l : Nat) : Word :=
  let w := i.w
  let team := s.teamOf w
  let launch := s.launchOf w
  let warps : Nat := match launch with
    | some k => if k.roles.isEmpty then k.teamLanes / k.width else (k.roles.map (·.warps)).sum
    | none => 0
  match n with
  | 0x01 => BitVec.ofNat 64 l
  | 0x02 => BitVec.ofNat 64 (w.teamWarp * w.width + l)
  | 0x03 => BitVec.ofNat 64 w.teamWarp
  | 0x04 => BitVec.ofNat 64 w.width
  | 0x05 => BitVec.ofNat 64 ((team.map (·.index)).getD 0)
  | 0x06 => BitVec.ofNat 64 ((launch.map (·.teams)).getD 0)
  | 0x07 => BitVec.ofNat 64 warps
  | 0x08 => BitVec.ofNat 64 (placeOf i.wid)
  | 0x09 => BitVec.ofNat 64 w.role
  | 0x0A => BitVec.ofNat 64 w.roleWarp
  | 0x0B => match w.gangNumber with
    | some g => BitVec.ofNat 64 g
    | none => ~~~0#64
  | 0x0C => w.live
  | 0x0D => i.act
  | 0x0E => w.status
  | 0x0F => BitVec.ofNat 64 w.ctx
  | 0x10 => w.cnta
  | 0x11 => w.cntb
  | _ => 0

/-- The special register that operand 1 names. -/
def Iss.special (i : Iss) : Nat :=
  match i.op 1 with
  | .special n => n.toNat
  | _ => 0

/-- MOVS (04 R97). -/
def execMovs (f : Fields) (s : State) : Host.Outcome State Fault Refusal :=
  irlek Enc.movs f s fun i s => .ok s (i.dest fun l => specialReg s i i.special l)

/-- MOVS.clr: STATUS as it was, and its write-one-to-clear bits cleared (04 R99). -/
def execMovsClr (f : Fields) (s : State) : Host.Outcome State Fault Refusal :=
  irlek Enc.movsClr f s fun i s =>
    .ok (s.modWarp i.wid fun w => { w with zlane := false }) (i.dest fun l => specialReg s i i.special l)

end Sys2Proof.Machine
end

