-- ==== Sys2Proof/Machine/Supervisor.lean ====
section
/-! DEFINITION. The supervisor's requests: page tables, features, contexts, queues and their verified programs, attestation (17 R374, R382, 19 R418-R424, R430). -/
namespace Sys2Proof.Machine

/-! ### Page tables (14 R319, 19 R420) -/

/-- A page-table entry written by the supervisor, which carries no time (13 R318). -/
def State.writePte (s : State) (a pte : Nat) : State := s.untimedWrite a (bytesOf 8 pte)

/-- Memory of a range zeroed; lines and regions that hold times take one more, as a write without a time does. -/
def State.zeroRange (s : State) (pa n : Nat) : State :=
  let out {α : Type} (m : AMap α) : AMap α := m.filter fun (a, _) => a < pa || pa + n ≤ a
  -- a region is one die's lines of 2 MiB of its package's addresses
  let base (r : Nat) : Nat := r / 262144 * 2 ^ 46 + r % 131072 * 2 ^ 21
  { s with
    mem := out s.mem, l2Behind := out s.l2Behind, mscBehind := out s.mscBehind, slots := out s.slots
    l2 := s.l2.map fun (k, l) =>
      if pa ≤ k * 256 && k * 256 < pa + n then (k, { l with wts := l.rts + 1, rts := l.rts + 1 }) else (k, l)
    summary := s.summary.map fun (r, t) =>
      if overlap (base r) (2 ^ 21) pa n then (r, t + 1) else (r, t) }

/-- The address of the entry for an address in a table of a level. -/
def pteAt (level base va : Nat) : Nat := base + natBits va (12 + 9 * level + 8) (12 + 9 * level) * 8

/-- The level that holds leaves of a page size: 4 KiB and 64 KiB, 2 MiB, 1 GiB, 512 GiB. -/
def leafLevel (size : Nat) : Nat := size - 1

/-- The table of a level for an address, from a table above it; missing tables are taken from a list and zeroed. None where
the list runs out. -/
def State.tableFor (va target : Nat) : Nat → Nat → State → List Nat → Option (State × List Nat × Nat)
  | 0, base, s, free => some (s, free, base)
  | level + 1, base, s, free =>
    if level + 1 = target then some (s, free, base)
    else
      let a := pteAt (level + 1) base va
      let pte := (s.quad a).toNat
      if natBits pte 0 0 == 1 && natBits pte 3 1 == 0 then State.tableFor va target level (natBits pte 53 10 * 4096) s free
      else match free with
        | [] => none
        | t :: rest => State.tableFor va target level t ((s.zeroRange t 4096).writePte a (t / 4096 * 2 ^ 10 + 1)) rest

/-- A leaf: valid, with its permissions, and with A and D set, so that no access faults for them. -/
def leafPte (pa rwx : Nat) : Nat := pa / 4096 * 2 ^ 10 + 2 ^ 7 + 2 ^ 6 + rwx * 2 + 1

/-- One page mapped: one leaf, or for 64 KiB the sixteen of a NAPOT page. -/
def State.mapPage (s : State) (root va pa size rwx : Nat) (free : List Nat) : Option (State × List Nat) :=
  (State.tableFor va (leafLevel size) 4 root s free).map fun (s, free, base) =>
    if size = 1 then
      let pte := 2 ^ 63 + (leafPte pa rwx / 2 ^ 14 * 2 ^ 14 + 8 * 2 ^ 10) + leafPte pa rwx % 2 ^ 10
      ((List.range 16).foldl (fun s i => s.writePte (pteAt 0 base va + 8 * i) pte) s, free)
    else (s.writePte (pteAt (leafLevel size) base va) (leafPte pa rwx), free)

/-- A range mapped page by page. -/
def State.mapSpan (s : State) (root va pa n size rwx : Nat) (free : List Nat) : Option (State × List Nat) :=
  let bytes := leafBytes size
  (List.range (n / bytes)).foldl (fun st i => st.bind fun (s, free) =>
    s.mapPage root (va + i * bytes) (pa + i * bytes) size rwx free) (some (s, free))

/-- The leaf of a mapped page made not valid. -/
def State.clearPage (s : State) (root va size : Nat) : State :=
  match State.tableFor va (leafLevel size) 4 root s [] with
  | none => s
  | some (s, _, base) =>
    if size = 1 then (List.range 16).foldl (fun s i => s.writePte (pteAt 0 base va + 8 * i) 0) s
    else s.writePte (pteAt (leafLevel size) base va) 0

/-- The root table of a context. -/
def Ctx.rootTable (c : Ctx) : Nat := natBits c.root.toNat 43 0 * 4096

/-- A physical range that no context's pages or tables take, in this package's memory. -/
def State.freeMemory (s : State) (pa n : Nat) : Bool :=
  s.ownMemory pa n && s.ctxs.all fun (_, c) =>
    (c.pages.all fun (_, len, p, _) => !overlap pa n p len) && c.tables.all fun t => !overlap pa n t 4096

/-- Pages that may become tables, beside a range that is being taken. -/
def State.freeTables (s : State) (ts : List Nat) (pa n : Nat) : Bool :=
  ts.eraseDups.length == ts.length && ts.all fun t => t % 4096 == 0 && s.freeMemory t 4096 && !overlap t 4096 pa n

/-- A virtual range wholly mapped, by the supervisor's list of ranges. -/
def coveredBy (pages : List (Nat × Nat × Nat × Nat)) : Nat → Nat → Nat → Bool
  | 0, _, n => n == 0
  | fuel + 1, va, n =>
    n == 0 || match pages.find? fun (v, len, _, _) => v ≤ va && va < v + len with
      | some (v, len, _, _) => coveredBy pages fuel (va + min n (v + len - va)) (n - min n (v + len - va))
      | none => false

/-- A canonical range of a context that is wholly mapped. -/
def Ctx.mapped (c : Ctx) (va n : Nat) : Bool :=
  canonical (BitVec.ofNat 64 va) && coveredBy c.pages (c.pages.length + 1) (va % 2 ^ 57) n

/-! ### Features (19 R430) -/

/-- The feature vector at level 1.0 (19 Table 19.3). -/
def featureVector : Nat :=
  1 + 2 ^ 16 + 2 ^ 32 + 2 ^ 48 + 2 * 2 ^ 64 + 40 * 2 ^ 72 + 4 * 2 ^ 80 + 48 * 2 ^ 88 + 24 * 2 ^ 96 + 64 * 2 ^ 104
  + 256 * 2 ^ 112 + (2 ^ 9 - 1) * 2 ^ 128

/-- The four majors of a vector. -/
def majors (v : Nat) : List Nat := [natBits v 7 0, natBits v 23 16, natBits v 39 32, natBits v 55 48]

/-- The answer to a required vector: the part's versions and counts, and the capabilities asked for that it has. -/
def answeredFeatures (req : Nat) : Nat := featureVector % 2 ^ 128 + (featureVector / 2 ^ 128 &&& req / 2 ^ 128) * 2 ^ 128

/-! ### Programs (17 R382) -/

/-- The register that a Nibex op writes. -/
def nibexWrites (op : Nat) (f : NibexFields) : Option Nat :=
  match op with
  | 1 | 2 | 3 | 4 | 5 | 6 | 7 | 8 | 13 => some f.a.toNat
  | 14 => some f.b.toNat
  | _ => none

/-- Where an instruction at `p` may go on. -/
def nibexNext (op : Nat) (f : NibexFields) (p : Nat) : List Nat :=
  match op with
  | 0 => []
  | 10 | 11 | 12 => [p + 1, p + 1 + f.imm.toNat]
  | 13 => [p + 1, p - f.imm.toNat]
  | _ => [p + 1]

/-- Whether the last write of register `r` after an instruction is an LDI of 1 to 64, given whether it was before. -/
def setAfter (r : Nat) (op : Nat) (f : NibexFields) (before : Bool) : Bool :=
  if nibexWrites op f != some r then before else op == 2 && 1 ≤ f.imm.toInt && f.imm.toInt ≤ 64

/-- One round of the forward analysis of register `r`: what holds before each instruction on every path to it. -/
def setRound (prog : List (Nat × NibexFields)) (r : Nat) (ins : List Bool) : List Bool :=
  (List.range prog.length).map fun p =>
    p != 0 && (prog.zipIdx.all fun ((op, f), u) =>
      !(nibexNext op f u).contains p || setAfter r op f ((ins[u]?).getD true))

/-- What holds before each instruction: the rounds repeated until nothing more can change. -/
def setBefore (prog : List (Nat × NibexFields)) (r : Nat) : List Bool :=
  (List.range (prog.length + 1)).foldl (fun ins _ => setRound prog r ins) (List.replicate prog.length true)

/-- The rule for the DJNZ at `p`: its counter is not written in the body, and every entry to the loop comes with an LDI of
1 to 64 as its last write. -/
def loopOk (prog : List (Nat × NibexFields)) (p : Nat) (f : NibexFields) : Bool :=
  let t := p - f.imm.toNat
  let r := f.a.toNat
  let inside (u : Nat) : Bool := t ≤ u && u ≤ p
  let before := setBefore prog r
  f.imm.toNat ≤ p && t != 0 && (prog.zipIdx.all fun ((op, g), u) =>
    (!(t ≤ u && u < p) || nibexWrites op g != some r)
    && (inside u || !((nibexNext op g u).any inside) || setAfter r op g ((before[u]?).getD true)))

/-- The verifier (17 R382). -/
def verifyNibex (words : List (BitVec 32)) : Bool :=
  let prog := words.filterMap fun w => (decodeNibex w).bind Instr.nibex
  prog.length == words.length && ((prog.getLast?).map fun (op, _) => op == 0).getD false
  && prog.zipIdx.all fun ((op, f), p) =>
    (nibexNext op f p).all (fun t => t < prog.length) && (op != 13 || loopOk prog p f)

/-! ### Serving a request (19 R419, R424) -/

/-- A request of a code being served. -/
def State.serve (s : State) (code : Nat) (f : State → Req → State) : State :=
  let s := s.vet
  let r := s.mbx.request
  if s.mbx.state == .running && s.serves && r.code == code then f s r else s

/-- A request about a context: refused where the peer does not own it or it is being destroyed. -/
def State.serveCtx (s : State) (code : Nat) (f : State → Req → Ctx → State) : State :=
  s.serve code fun s r =>
    match AMap.get s.ctxs r.ctx with
    | none => s.answer r none 2 []
    | some c =>
      if c.owner != s.mbx.claimant || (c.state == .destroying && code != 8) then s.answer r (some c.key) 2 []
      else f s r c

/-- The save pools of a CREATE, as the supervisor lays them out: base, bytes and the alignment of the base. -/
def poolsOf (r : Req) (bases : Nat → Nat) : List (Nat × Nat × Nat) :=
  [(bases 0, r.field 0x30 8 * 0x24000, 4096), (bases 1, r.field 0x38 8 * 0x110000, 65536),
   (bases 2, r.field 0x40 8 * 0x70000, 65536), (bases 3, ceilDiv (r.field 0x48 8) 4096 * 4096, 4096)]

/-- Pools that stand apart, aligned, in the lower half of the address space. -/
def poolsApart : List (Nat × Nat × Nat) → Bool
  | [] => true
  | (b, n, al) :: rest =>
    b % al == 0 && b + n ≤ 2 ^ 56 && (rest.all fun (c, m, _) => !overlap b n c m) && poolsApart rest

/-- The pools mapped one after another, with the ranges they take. -/
def State.mapPools (s : State) (root : Nat) :
    List (Nat × Nat × Nat) → Nat → List Nat → Option (State × List Nat × List (Nat × Nat × Nat × Nat))
  | [], _, free => some (s, free, [])
  | (b, n, _) :: rest, pa, free =>
    (s.mapSpan root b pa n 0 3 free).bind fun (s, free) =>
      (State.mapPools s root rest (pa + n) free).map fun (s, free, ps) => (s, free, if n = 0 then ps else (b, n, pa, 8) :: ps)

/-- A random draw. -/
def State.draw (s : State) : Nat × State := (Config.drbg s.free, { s with free := s.free + 1 })

/-- CREATE (19 R424, R430). `nums` is the supervisor's choice: root table, physical base of the save pools, their four virtual
bases, and table pages; where it is empty the supervisor finds no memory. -/
def execReqCreate (s : State) : Host.Outcome State Fault Refusal :=
  let n := s.ev.unit
  let num (i : Nat) : Nat := (s.ev.nums[i]?).getD 0
  .next (s.serve 1 fun s r =>
    let req := r.field 0 32
    let wsn := r.field 0x30 8
    if r.len != 1648 || wsn = 0 || 32768 < wsn then s.answer r none 1 []
    else if majors req != majors featureVector then s.answer r none 4 []
    else if (List.range 64).all fun c => (AMap.get s.ctxs c).isSome then s.answer r none 3 []
    else if s.ev.nums.isEmpty then s.answer r none 3 []
    else
      let root := num 0
      let pools := poolsOf r fun i => num (2 + i)
      let bytes := (pools.map fun (_, n, _) => n).sum
      let tables := s.ev.nums.drop 6
      if 64 ≤ n || (AMap.get s.ctxs n).isSome || !poolsApart pools || num 1 % 4096 != 0 || !s.freeMemory (num 1) bytes
          || !s.freeTables (root :: tables) (num 1) bytes then s
      else
        let s0 := (s.zeroRange root 4096).zeroRange (num 1) bytes
        match s0.mapPools root pools (num 1) tables with
        | none => s.answer r none 3 []
        | some (s, rest, pages) =>
          let (x, s) := s.draw
          let ek := r.field 0x50 1568
          let key := Config.kemSecret ek x % 2 ^ 256
          let base (i : Nat) : Word := BitVec.ofNat 64 (num (2 + i))
          let c : Ctx :=
            { state := .running, owner := s.mbx.claimant, root := BitVec.ofNat 64 (0xA * 2 ^ 60 + root / 4096)
              deleg := BitVec.ofNat 64 (r.field 0x20 8), supv := BitVec.ofNat 64 (r.field 0x28 8)
              wsb := base 0, wsn := wsn, gsb := base 1, gsn := r.field 0x38 8, asb := base 2, asn := r.field 0x40 8
              esb := base 3, esz := r.field 0x48 8, hcause := 0, hinfo := 0, hwho := 0, key := key, pages := pages
              tables := root :: tables.take (tables.length - rest.length), haltStep := 0, freezing := false }
          ({ s with ctxs := AMap.set s.ctxs n c }).answer r (some key) 0
            (bytesOf 8 n ++ bytesOf 32 (answeredFeatures req) ++ bytesOf 1568 (Config.kemCiphertext ek x)))

/-- MAP (19 R424). The supervisor chooses where fresh memory lies, all ones where it has none, and table pages; `item` is not
0 where the supervisor of another package vouches for the physical address. -/
def execReqMap (s : State) : Host.Outcome State Fault Refusal :=
  .next (s.serveCtx 2 fun s r c =>
    let va := r.field 0 8
    let n := r.field 8 8
    let flags := r.field 0x10 8
    let pa := r.field 0x18 8
    let size := natBits flags 5 3
    let rwx := flags % 8
    let key := some c.key
    let bytes := leafBytes size
    let v := va % 2 ^ 57
    if r.len != 32 || 64 ≤ flags || 4 < size || rwx = 0 || rwx % 4 = 2 || n = 0 then s.answer r key 1 []
    else if va % bytes != 0 || n % bytes != 0 || !canonical (BitVec.ofNat 64 va) || 2 ^ 64 < va + n
        || !canonical (BitVec.ofNat 64 (va + n - 1)) || (va < 2 ^ 56) != (va + n - 1 < 2 ^ 56)
        || (c.pages.any fun (w, len, _, _) => overlap v n w len) then s.answer r key 5 []
    else
      let fresh := pa == 2 ^ 64 - 1
      let at_ := if fresh then s.ev.unit else pa
      let held := if packageOf pa == s.links.package then s.heldByOwner s.mbx.claimant pa n
        else s.links.domain.contains (packageOf pa) && s.ev.item != 0
      if fresh && at_ == 2 ^ 64 - 1 then s.answer r key 3 []
      else if !fresh && (pa % bytes != 0 || !held) then s.answer r key 5 []
      else if (fresh && (at_ % bytes != 0 || !s.freeMemory at_ n)) || !s.freeTables s.ev.nums (if fresh then at_ else 0) (if fresh then n else 0)
      then s
      else match (if fresh then s.zeroRange at_ n else s).mapSpan c.rootTable v at_ n size rwx s.ev.nums with
        | none => s.answer r key 3 []
        | some (s', rest) =>
          let used := s.ev.nums.take (s.ev.nums.length - rest.length)
          (s'.modCtx r.ctx fun c => { c with pages := c.pages ++ [(v, n, at_, size)], tables := c.tables ++ used }).answer r
            key 0 (bytesOf 8 at_))

/-- What is left of a mapped range beside the part that is unmapped. -/
def pageRest (v n : Nat) (x : Nat × Nat × Nat × Nat) : List (Nat × Nat × Nat × Nat) :=
  let (w, len, p, size) := x
  if !overlap v n w len then [x]
  else
    let lo := max v w
    let hi := min (v + n) (w + len)
    (if w < lo then [(w, lo - w, p, size)] else []) ++ if hi < w + len then [(hi, w + len - hi, p + (hi - w), size)] else []

/-- An access of a context has been translated and has not taken its place, and its page is one that an UNMAP is taking out: of a
bundle, of a row of AST, or a contribution (14 R326). -/
def State.oldAccess (s : State) (ctx : Nat) (c : Ctx) : Bool :=
  let gone (pa : Nat) : Bool := c.dropping.any fun (p, len) => p ≤ pa && pa < p + len
  (s.slotWaits.any fun x => x.ctx == ctx && gone x.pa)
  || (s.warps.any fun (_, w) => w.ctx == ctx && w.sending.any fun x => x.left.any fun a => a.al.isNone && gone a.pa)
  || s.clusters.any fun (_, k) => k.entries.any fun (_, e) => s.entryCtx e == ctx && e.rowLeft.any gone

/-- The bytes of a page of a mapped range; a save pool's are of 4 KiB. -/
def pageBytes (size : Nat) : Nat := leafBytes (size % 8)

/-- UNMAP in two steps: the leaves are made not valid; then every TLB drops the range, once each access translated before has taken its
place, and the request is answered (14 R326, 19 R424). -/
def execReqUnmap (s : State) : Host.Outcome State Fault Refusal :=
  .next (s.serveCtx 3 fun s r c =>
    let v := r.field 0 8 % 2 ^ 57
    let n := r.field 8 8
    let hit := c.pages.filter fun (w, len, _, _) => overlap v n w len
    if r.len != 16 then s.answer r (some c.key) 1 []
    else if v % 4096 != 0 || n % 4096 != 0 || !canonical (BitVec.ofNat 64 (r.field 0 8)) || (hit.any fun (w, len, _, size) =>
        (max v w - w) % pageBytes size != 0 || (min (v + n) (w + len) - w) % pageBytes size != 0) then
      s.answer r (some c.key) 5 []
    else if hit.isEmpty then
      if s.oldAccess r.ctx c then s
      else ((s.modCtx r.ctx fun c => { c with dropping := [] }).invalidate r.ctx v n).answer r (some c.key) 0 []
    else
      let s := hit.foldl (fun s (w, len, _, size) =>
        let lo := max v w
        let count := (min (v + n) (w + len) - lo) / pageBytes size
        (List.range count).foldl (fun s i => s.clearPage c.rootTable (lo + i * pageBytes size) (size % 8)) s) s
      s.modCtx r.ctx fun c =>
        { c with
          pages := c.pages.flatMap (pageRest v n)
          dropping := hit.map fun (w, len, p, _) => (p + (max v w - w), min (v + n) (w + len) - max v w) })

/-- A queue number is free: none has it, or it was destroyed and its work has ended. -/
def State.queueFree (s : State) (q : Nat) : Bool :=
  match AMap.get s.queues q with
  | none => true
  | some k => k.destroying && k.work.isEmpty && k.dones.isEmpty

/-- The windows of a QUEUE request; length 0 is none. -/
def Req.windows (r : Req) : List Window :=
  ((List.range 4).map fun i => (⟨r.field (0x30 + 16 * i) 8, r.field (0x38 + 16 * i) 8⟩ : Window)).filter fun w => w.len != 0

/-- What a QUEUE create asks for lies within its limits, and its ranges are mapped (17 R374, 19 R424). -/
def Ctx.queueOk (c : Ctx) (r : Req) : Bool :=
  let classL := r.field 0x10 1 == 1
  let k := r.field 0x11 1
  let count := r.field 0x14 4
  let ring := r.field 0x20 8
  let control := r.field 0x28 8
  r.field 0x10 1 ≤ 1 && 4 ≤ k && k ≤ 16 && r.field 0x12 1 ≤ 3 && r.field 0x13 1 ≤ 8 && 1 ≤ count && count ≤ 1024
  && ring % 64 == 0 && c.mapped ring (64 * 2 ^ k) && (if classL then control % 64 == 0 && c.mapped control 64 else true)
  && r.windows.all fun w => w.base + w.len ≤ 2 ^ 64 && c.mapped w.base w.len

/-- QUEUE, creating: the ring zeroed, the program read from the context's memory and verified, and the notify key of class R
drawn and returned encrypted (17 R374, R382, 19 R420, R424). `unit` is the supervisor's choice of a number. -/
def execReqQueueCreate (s : State) : Host.Outcome State Fault Refusal :=
  .next (s.serveCtx 4 fun s r c =>
    let key := some c.key
    if r.field 0 8 = 1 && r.len = 16 then s
    else if r.len != 184 || r.field 0 8 != 0 then s.answer r key 1 []
    else
      let asked := r.field 8 8
      let chosen := asked == 2 ^ 64 - 1
      let q := if chosen then s.ev.unit else asked
      if chosen && (List.range 256).all fun q => !s.queueFree q then s.answer r key 3 []
      else if chosen && (256 ≤ q || !s.queueFree q) then s
      else if 256 ≤ q || !s.queueFree q || !c.queueOk r then s.answer r key 6 []
      else match s.readVirt [] r.ctx (BitVec.ofNat 64 (r.field 0x70 8)) (4 * r.field 0x14 4) .read with
        | (_, .error _) => s.answer r key 6 []
        | (s1, .ok bs) =>
          let program := (List.range (r.field 0x14 4)).map fun i => BitVec.ofNat 32 (numIn bs (4 * i) 4)
          let ring := BitVec.ofNat 64 (r.field 0x20 8)
          if !verifyNibex program then s.answer r key 6 []
          else match s1.writeVirt [] r.ctx ring (List.replicate (64 * 2 ^ r.field 0x11 1) 0) with
            | (_, some _) => s.answer r key 6 []
            | (s, none) =>
              let classL := r.field 0x10 1 == 1
              let (x, s) := s.draw
              let (iv, s) := s.draw
              let nk := if classL then 0 else x % 2 ^ 256
              let nonce := iv % 2 ^ 96
              let sealed := if classL then List.replicate 60 0
                else bytesOf 12 nonce ++ aesGcm (bytesOf 32 c.key) (bytesOf 12 nonce) (bytesOf 32 nk)
              let k : Queue :=
                { ctx := r.ctx, classL := classL, ring := ring, k := r.field 0x11 1, dc := r.field 0x12 1
                  window := r.field 0x18 8, program := program, windows := r.windows, key := nk
                  control := BitVec.ofNat 64 (r.field 0x28 8)
                  peers := (List.range (r.field 0x13 1)).map fun i => r.field (0x78 + 8 * i) 8
                  rd := 0, tk := 0, commits := [], nonce := 0, status := 0, stopped := false, missed := 0, late := 0
                  badNotify := 0, notified := false, faulted := false, running := none, serial := 0, work := []
                  workTime := 0, dones := [], destroying := false }
              ({ s with queues := AMap.set s.queues q k }).answer r key 0 (bytesOf 8 q ++ sealed))

/-- QUEUE, destroying: the queue stops and its window state and key are cleared, while work already started goes on (19 R424). -/
def execReqQueueDestroy (s : State) : Host.Outcome State Fault Refusal :=
  .next (s.serveCtx 4 fun s r c =>
    let key := some c.key
    let q := r.field 8 8
    if r.field 0 8 != 1 then s
    else if r.len != 16 then s.answer r key 1 []
    else match s.liveQueue q with
      | none => s.answer r key 6 []
      | some k =>
        if k.ctx != r.ctx then s.answer r key 6 []
        else
          (s.modQueue q fun k =>
            { k with
              destroying := true, stopped := true, running := none, notified := false, key := 0, rd := 0, tk := 0
              commits := [], nonce := 0, status := 0, missed := 0, late := 0, badNotify := 0 }).answer r key 0 [])

/-- HALT: the owner's halt; where the context does not run it has no effect (18 R407, R414). -/
def execReqHalt (s : State) : Host.Outcome State Fault Refusal :=
  .next (s.serveCtx 5 fun s r c =>
    if r.len != 0 then s.answer r (some c.key) 1 [] else (s.haltCtx r.ctx .owner 0 none).answer r (some c.key) 0 [])

/-- RESUME: refused before STATE is HALTED (18 R413, R414). -/
def execReqResume (s : State) : Host.Outcome State Fault Refusal :=
  .next (s.serveCtx 6 fun s r c =>
    if r.len != 0 then s.answer r (some c.key) 1 []
    else if c.state != .halted then s.answer r (some c.key) 2 []
    else (s.resumeCtx r.ctx).answer r (some c.key) 0 [])

/-! ### Attestation (19 R418) -/

/-- The digest and the security version of a die's image, zero where it has not booted. -/
def State.digest (s : State) (die : Nat) : Nat :=
  ((s.sup.complexes[die]?).map fun c => if c.booted then c.digest else 0).getD 0
def State.security (s : State) (die : Nat) : Nat :=
  ((s.sup.complexes[die]?).map fun c => if c.booted then c.securityVersion.toNat else 0).getD 0

/-- The report (19 Table 19.1). -/
def State.report (s : State) (challenge : List Byte) : List Byte :=
  challenge ++ bytesOf 64 (s.digest 0) ++ bytesOf 64 (s.digest 1) ++ bytesOf 8 (s.security 0 + s.security 1 * 2 ^ 32)
  ++ bytesOf 8 s.incarnation ++ bytesOf 32 featureVector
  ++ bytesOf 8 ((if s.sup.primary = 1 then 1 else 0) + if s.sup.standby then 0 else 2) ++ bytesOf 8 0

/-- ATTEST: the report signed by the primary's key, and countersigned by the standby's where there is one. -/
def execReqAttest (s : State) : Host.Outcome State Fault Refusal :=
  .next (s.serve 7 fun s r =>
    if r.len != 64 then s.answer r none 1 []
    else
      let rep := s.report (r.body.take 64)
      let sign (die : Nat) : List Byte := bytesOf 4627 (Config.mldsaSign die (s.digest die) (ofBytes rep))
      let second := if s.sup.standby then sign (1 - s.sup.primary) else List.replicate 4627 0
      s.answer r none 0 (rep ++ sign s.sup.primary ++ second))

/-! ### DESTROY (19 R419, 18 Table 18.2) -/

/-- Everything of a context gone: its reduction slots after their tailraces (12 R283), its saved state, queues, work and records;
the context is FREE. -/
def State.freeCtx (s : State) (ctx : Nat) : State :=
  let open_ := (s.slots.filter fun (_, x) => x.ctx == ctx).map (·.1)
  let s := (open_.foldl (fun s k => (s.tailrace 0 k none).1) s).invalidate ctx 0 (2 ^ 57)
  let mine := s.launches.filter fun (_, l) => l.ctx == ctx
  let other {α : Type} (m : AMap α) (f : α → Nat) : AMap α := m.filter fun (_, x) => f x != ctx
  { s with
    saved := s.saved.filter fun (_, x) => s.savedCtxOf x != some ctx
    queues := other s.queues (·.ctx), launches := other s.launches (·.ctx), allots := other s.allots (·.ctx)
    gangs := other s.gangs (·.ctx)
    slotWaits := s.slotWaits.filter fun x => x.ctx != ctx
    teams := s.teams.filter fun (_, t) => (AMap.get mine t.launch).isNone
    evicts := s.evicts.filter fun e => (AMap.get mine e.team).isNone
    cores := s.cores.map fun (k, c) =>
      (k, { c with banks := c.banks.map fun b => b.filter fun x => x.ctx != ctx })
    dies := s.dies.map fun d =>
      { d with
        faults := d.faults.filter fun (_, r) => r.ctx != ctx
        traps := d.traps.filter fun t => t.ctx != ctx
        walks := d.walks.filter fun w => w.ctx != ctx
        starving := d.starving.filter fun l => (AMap.get mine l).isNone }
    ctxs := AMap.erase s.ctxs ctx }

/-- DESTROY: a running context halts first; a halted one is DESTROYING and then FREE, and the request is answered. -/
def execReqDestroy (s : State) : Host.Outcome State Fault Refusal :=
  .next (s.serveCtx 8 fun s r c =>
    if r.len != 0 then s.answer r (some c.key) 1 []
    else match c.state with
      | .running => s.haltCtx r.ctx .owner 0 none
      | .halted => s.modCtx r.ctx fun c => { c with state := .destroying }
      | .destroying => (s.freeCtx r.ctx).answer r (some c.key) 0 []
      | _ => s)

end Sys2Proof.Machine
end

