-- ==== Sys2Proof/Machine/Takeover.lean ====
section
/-! DEFINITION. The supervisor complexes: boot, global time, failure and takeover, fatal errors and the dump, and failures of the links (13 R306, 17 R387, 19 R416, R417, R425-R433). -/
namespace Sys2Proof.Machine

/-! ### Event flags of the sideband (01 R21) -/

/-- A flag becomes 1; where it was 0 and its enable is 1, an in-band interrupt carries its number. -/
def State.raiseFlag (s : State) (k : Nat) : State :=
  let x := s.side
  if x.events.getLsbD k then s
  else
    { s with side := { x with
        events := x.events ||| (1#4 <<< k)
        ibis := if x.enables.getLsbD k then x.ibis ++ [k] else x.ibis } }

/-! ### Fatal errors (19 R429) -/

/-- Every context's halt line asserted with SUPERVISOR. -/
def State.haltAll (s : State) : State := s.ctxs.foldl (fun s (c, _) => s.haltCtx c .supervisor 0 none) s

/-- A fatal error of a cause of Table 19.5, if none stands: what the dump's first quadwords say is fixed, the flags rise, and the
contexts halt unless a thermal trip has gated their clocks. -/
def State.raiseFatal (s : State) (cause : Nat) : State :=
  if s.sup.fatal != 0 then s
  else
    let s := ({ s with sup := { s.sup with fatal := cause, dump := some ⟨cause, s.incarnation, s.ns, [], 0⟩ } }).raiseFlag 2
    if cause = 1 then s else s.haltAll

/-- A byte of the dump region (19 Table 19.5). The spec gives no layout to the harts' registers and to the units' state: those bytes
are free (assumption 84). -/
def Dump.byte (x : Dump) (off : Nat) : Byte :=
  if off < 0x20 then
    ((bytesOf 8 (0x48594455 + 2 ^ 32) ++ bytesOf 8 x.cause ++ bytesOf 8 x.incarnation ++ bytesOf 8 x.time)[off]?).getD 0
  else if 0x100100 ≤ off && off < 0x900100 then
    Memory.read ((x.srams[(off - 0x100100) / 2 ^ 22]?).getD []) ((off - 0x100100) % 2 ^ 22)
  else BitVec.ofNat 8 (Config.dumpFill x.free off)

/-- The size of the dump region, 1 GiB (19 R429). -/
def dumpSize : Nat := 2 ^ 30

/-- The dump region's bytes. -/
def Dump.bytes (x : Dump) : List Nat := (List.range dumpSize).map fun off => (x.byte off).toNat

/-- The dump with what the part holds when it is written. -/
def State.dumpNow (s : State) : Option Dump :=
  s.sup.dump.map fun x => { x with srams := s.sup.complexes.map (·.sram), free := s.free }

/-- Every dirty sector of L2 and of the MSC is in memory. -/
def State.writeBackAll (s : State) : State :=
  { s with
    l2Behind := [], mscBehind := []
    l2 := s.l2.map fun (k, l) => (k, { l with lo := l.lo.clean, hi := l.hi.clean })
    msc := s.msc.map fun (k, l) => (k, ⟨l.lo.clean, l.hi.clean⟩) }

/-- The units of a halting context have come to their stop points. -/
def State.atStopPoints (s : State) : Bool :=
  s.ctxs.all fun (_, c) => c.state != .running && (c.state != .halting || 7 ≤ c.haltStep)

/-- FATAL_DUMP: an uncorrectable error in the supervisor's memory, cause 4, is raised, as the other causes are by their own events;
once the contexts have come to their stop points, unless the clocks are gated, the caches are written back, the dump is
written and streamed to its peer, and the part is held in reset. -/
def execFatalDump (s : State) : Host.Outcome State Fault Refusal :=
  .next (if s.sup.fatal = 0 then (if s.ev.unit = 4 then s.raiseFatal 4 else s)
    else if s.sup.heldInReset || (!s.sup.tripped && !s.atStopPoints) then s
    else
      let s := s.writeBackAll
      let dump := s.dumpNow
      let s := match s.links.dumpPeer with
        | some p => s.post ⟨p, 5, (dump.map Dump.bytes).getD []⟩
        | none => s
      { s with
        free := s.free + 1
        sup := { s.sup with
          dump := dump, dumpWritten := true, dumpStreamed := s.links.dumpPeer.isSome, heldInReset := true } })

/-- TIMESTAMP_OVERFLOW (13 R306). -/
def execTimestampOverflow (s : State) : Host.Outcome State Fault Refusal := .next (s.raiseFatal 2)

/-! ### Failure and takeover (19 R416, R425-R428) -/

def State.modSup (s : State) (f : Supervisor → Supervisor) : State := { s with sup := f s.sup }

/-- A complex fails: a primary is followed by its standby, or the failure is fatal; a failed standby is only recorded. -/
def State.failComplex (s : State) (die : Nat) : State :=
  match s.sup.complexes[die]? with
  | none => s
  | some c =>
    if !c.booted || c.failed then s
    else
      let s := s.modSup fun u => { u with complexes := u.complexes.modify die fun c => { c with failed := true } }
      if s.sup.primary != die then s.modSup fun u => { u with standby := false }
      else if s.sup.standby then
        let s := s.modSup fun u =>
          { u with primary := 1 - die, standby := false, takeover := 1, takeoverAt := s.elapsed, heartbeat := s.elapsed }
        let s := s.raiseFlag 3
        s.ctxs.foldl (fun s (c, k) =>
          if k.state == .running then
            s.modCtx c fun k => { k with state := .halting, freezing := true, haltStep := 1, haltFrom := s.uid }
          else s) s
      else s.raiseFatal 3

/-- The primary's complex runs. -/
def State.primaryRuns (s : State) : Bool :=
  ((s.sup.complexes[s.sup.primary]?).map fun c => c.booted && !c.failed).getD false

/-- Three heartbeats of the primary are missing: more than 30 µs have passed since its last (19 R416). -/
def State.heartbeatsMissed (s : State) : Bool := s.primaryRuns && s.sup.heartbeat + 30000 < s.elapsed

/-- COMPLEX_FAILED (19 R416): `item` says why: 0 a fatal machine check, 1 the primary's missing heartbeats, 2 an error of its
private SRAM. -/
def execComplexFailed (s : State) : Host.Outcome State Fault Refusal :=
  .next (if s.ev.item = 1 && !(s.ev.unit == s.sup.primary && s.heartbeatsMissed) then s else s.failComplex s.ev.unit)

/-- The primary's next heartbeat is due; after a gap that makes it failed there is none (19 R416). -/
def State.heartbeatDue (s : State) : Bool :=
  s.primaryRuns && s.sup.heartbeat + 10000 ≤ s.elapsed && !s.heartbeatsMissed

/-- HEARTBEAT: the primary writes the heartbeat word every 10 µs (19 R416). -/
def execHeartbeat (s : State) : Host.Outcome State Fault Refusal :=
  .next (if s.heartbeatDue then s.modSup fun u => { u with heartbeat := s.elapsed } else s)

/-- A context's walk has ended, or it waits on a held fault of a save. -/
def State.walkEnds (s : State) (ctx : Nat) (c : Ctx) : Bool :=
  c.state != .running
  && (c.state != .halting || s.dies.any fun d => d.faults.any fun (_, r) => r.ctx == ctx && r.answered.isNone && match r.held with
    | .save _ _ => true
    | _ => false)

/-- A frozen context runs again (18 R413). -/
def State.thaw (s : State) : State :=
  s.ctxs.foldl (fun s (c, k) => if k.state == .frozen then s.resumeCtx c else s) s

/-- Every unanswered fault record answered with replay (14 R325). -/
def State.replayAll (s : State) : State :=
  (List.range 2).foldl (fun s die =>
    ((s.die die).faults.filter fun (_, r) => r.answered.isNone).foldl (fun s (n, r) =>
      if s.savedCtx r.ctx then s.modDie die fun d => { d with faults := AMap.set d.faults n { r with answered := some true } }
      else (s.takeFault die n).release r.held) s) s

/-- A takeover goes one step on: once the walks have ended, the incarnation rises; the faults are replayed; the frozen
contexts run again, and the mailbox is served from then on, its limits counted without the takeover (19 R422, R425). -/
def State.takeoverStep (s : State) : State :=
  match s.sup.takeover with
  | 0 => s.thaw
  | 1 => if s.ctxs.all fun (c, k) => s.walkEnds c k then
      s.modSup fun u => { u with takeover := 3, takeovers := (u.takeovers + 1) % 2 ^ 32 }
    else s
  | 3 => (s.replayAll).modSup fun u => { u with takeover := 4 }
  | _ =>
    let s := s.thaw
    let from_ := s.sup.takeoverAt
    ((s.modSup fun u => { u with takeover := 0 }).modMbx fun m => { m with at_ := m.at_ + (s.elapsed - max from_ m.at_) }).vet

/-! ### Boot (19 R417, R428, R432) -/

/-- The module as power-on leaves it: what the flash and the fuses hold stays, and so do the counts of the model's own. -/
def State.powerOn (s : State) : State :=
  let u := State.reset
  { u with
    free := s.free, uid := s.uid, out := s.out, agenda := s.agenda
    sup := { u.sup with
      bootCount := s.sup.bootCount
      complexes := s.sup.complexes.map fun c => { Complex.fresh with fuse := c.fuse } } }

/-- An image's signature verifies under its key, which is the vendor's: its digest is the one fused into the die (19 R417). -/
def bootSigned (i : BootImage) : Bool :=
  sha3 i.key == Config.vendorKey && Config.mldsaVerifies (ofBytes i.key) (sha3 i.data) (ofBytes i.signature)

/-- The boot status of a die (01 Table 1.5). -/
def bootStatus (fuse : BitVec 32) (i : BootImage) : Nat :=
  if i.recoveryFault then 4
  else if !i.present then 1
  else if !bootSigned i then 2
  else if i.securityVersion < fuse then 3 else 0

/-- A complex that has met its image, which its boot ROM loads into the private SRAM: an accepted one boots it, and the fuse advances
only where both dies have (19 R415, R417). -/
def Complex.meet (c : Complex) (i : BootImage) (both : Bool) : Complex :=
  let st := bootStatus c.fuse i
  let sram := if i.present && !i.recoveryFault then Memory.writeN [] 0 (i.data.take (2 ^ 22)) else []
  if st != 0 then { Complex.fresh with status := st, fuse := c.fuse, sram := sram }
  else
    { booted := true, failed := false, status := 0, securityVersion := i.securityVersion
      fuse := if both && c.fuse < i.securityVersion then i.securityVersion else c.fuse
      digest := sha3 i.data, version := i.version, sram := sram }

/-- POWER_ON_BOOT: from power-on, each die meets its image; global time comes from the clock or is 0; the package number and
the domains come from the switch and the configuration. The head of `nums` is the clock's time plus 1, or 0 where it holds
none; its tail are the other packages of the load-store domain, the first `third` of them in the coherence domain; `item`
is the package number and `word` the dump peer, 0 for none. -/
def execPowerOnBoot (s : State) : Host.Outcome State Fault Refusal :=
  let s := { s.powerOn with ev := s.ev }
  let none_ : BootImage := ⟨false, [], [], [], 0, false, 0⟩
  let img (d : Nat) : BootImage := (s.ev.images[d]?).getD none_
  let c (d : Nat) : Complex := (s.sup.complexes[d]?).getD Complex.fresh
  let st (d : Nat) : Nat := bootStatus (c d).fuse (img d)
  let both := st 0 == 0 && st 1 == 0 && sha3 (img 0).data == sha3 (img 1).data
  let any := st 0 == 0 || st 1 == 0
  let others := s.ev.nums.drop 1
  let own := s.ev.item % 1024
  .next { s with
    ns := s.ev.nums.head?.getD 0 - 1
    ns1 := s.ev.nums.head?.getD 0 - 1
    sup := { s.sup with
      complexes := [(c 0).meet (img 0) both, (c 1).meet (img 1) both]
      primary := if st 0 = 0 then 0 else if st 1 = 0 then 1 else 0
      standby := st 0 == 0 && st 1 == 0
      bootCount := if any then (s.sup.bootCount + 1) % 2 ^ 32 else s.sup.bootCount
      heartbeat := s.elapsed }
    links := { s.links with
      package := own, coherence := own :: others.take (min 7 s.ev.third), domain := own :: others
      dumpPeer := if s.ev.word = 0 then none else some s.ev.word.toNat } }

/-! ### Global time (17 R387) -/

/-- Die 1's counter follows die 0's: within 10 ns of it, and never backward. -/
def State.followNs (s : State) : State :=
  let (k, s) := s.choose 21
  { s with ns1 := min (max s.ns1 (s.ns + k - 10)) (2 ^ 64 - 1) }

/-- Time passes: die 0's counter advances, or holds until its master has reached it, and die 1's follows. -/
def State.passNs (s : State) (n : Nat) : State :=
  let s := { s with elapsed := s.elapsed + n }
  (match s.sup.ptpHold with
  | none => { s with ns := min (s.ns + n) (2 ^ 64 - 1) }
  | some m =>
    if s.ns ≤ m + n then { s with ns := min (m + n) (2 ^ 64 - 1), sup := { s.sup with ptpHold := none } }
    else { s with sup := { s.sup with ptpHold := some (m + n) } }).followNs

/-- PTP_STEER: over a span the counter's rate differs from nominal by at most 100 parts per million. -/
def execPtpSteer (s : State) : Host.Outcome State Fault Refusal :=
  let span := s.ev.unit
  .next (if s.sup.locked && s.ev.signed.natAbs ≤ 100 then
      s.passNs (((span : Int) + (span : Int) * s.ev.signed / 1000000).toNat)
    else s)

/-- PTP_FIRST_LOCK: once a boot, the counter steps forward to a master that is ahead, and holds for one that is behind. -/
def execPtpFirstLock (s : State) : Host.Outcome State Fault Refusal :=
  let m := s.ev.unit % 2 ^ 64
  .next (if s.sup.firstLock then s
    else
      let u := { s.sup with firstLock := true, locked := true }
      if s.ns ≤ m then ({ s with ns := m, sup := u }).followNs else { s with sup := { u with ptpHold := some m } })

/-! ### Failures of the links (19 R433) -/

/-- LINK_PORT_FAILURE: a failed port takes no further traffic; without any port no other package is reachable. -/
def execLinkPortFailure (s : State) : Host.Outcome State Fault Refusal :=
  let p := s.ev.unit
  .next (if 16 ≤ p || s.links.deadPorts.contains p then s
    else
      let dead := p :: s.links.deadPorts
      let gone := if dead.length = 16 then s.links.domain.filter (· != s.links.package) else s.links.unreachable
      { s with links := { s.links with deadPorts := dead, unreachable := gone } })

/-- No cache holds a line of a package outside the domain (12 R269). -/
def State.forget (s : State) (p : Nat) : State :=
  let keep {α : Type} (m : AMap α) : AMap α := m.filter fun (line, _) => packageOf (line * 256) != p
  { s with l2 := keep s.l2, msc := keep s.msc, cores := s.cores.map fun (k, c) => (k, { c with copies := keep c.copies }) }

/-- PACKAGE_REMOVAL: an unreachable package leaves the domain; the contexts with pages there halt with SUPERVISOR, and what
was outstanding for it completes with no effect. -/
def execPackageRemoval (s : State) : Host.Outcome State Fault Refusal :=
  let p := s.ev.unit
  .next (if !s.links.unreachable.contains p then s
    else
      let s := { s with links := { s.links with
          unreachable := s.links.unreachable.filter (· != p), removed := p :: s.links.removed
          domain := s.links.domain.filter (· != p), coherence := s.links.coherence.filter (· != p) } }.forget p
      (s.ctxs.filter fun (_, c) => c.pages.any fun (_, len, pa, _) => packageOf pa ≤ p && p ≤ packageOf (pa + len - 1)).foldl
        (fun s (c, _) => s.haltCtx c .supervisor (BitVec.ofNat 64 p) none) s)

/-- PATH_RETURNS: accesses held for the package go on. -/
def execPathReturns (s : State) : Host.Outcome State Fault Refusal :=
  let p := s.ev.unit
  .next { s with links := { s.links with
      unreachable := s.links.unreachable.filter (· != p)
      waiting := s.links.waiting.filter fun (q, _, _) => q != p || s.links.removed.contains q } }

end Sys2Proof.Machine
end

