-- ==== Sys2Proof/Machine/Sideband.lean ====
section
/-! DEFINITION. The I3C sideband, the power limit, and the clock steps for power and temperature (01 R17-R21). -/
namespace Sys2Proof.Machine

def State.modSide (s : State) (f : Sideband → Sideband) : State := { s with side := f s.side }

/-! ### Registers (01 Table 1.5) -/

/-- A register read: its content by pointer, with its size in bytes. 0x50 shows the version of the primary's image, and 0 before it
has booted (DESIGN CHOICE, assumption 114). -/
def State.sideRegisters (s : State) : List (Nat × Nat × Nat) :=
  let x := s.side
  let c (d : Nat) : Complex := (s.sup.complexes[d]?).getD Complex.fresh
  let version := if (c s.sup.primary).booted then (c s.sup.primary).version.toNat % 2 ^ 32 else 0
  let boot := (c 0).status + (c 1).status * 256 + (if s.sup.primary = 1 then 2 ^ 16 else 0)
    + if s.sup.standby then 0 else 2 ^ 17
  let fatal := s.sup.fatal + (if s.sup.dumpWritten then 2 ^ 8 else 0) + (if s.sup.dumpStreamed then 2 ^ 9 else 0)
    + if s.sup.heldInReset then 2 ^ 10 else 0
  [(0x00, 4, 0x48590960), (0x04, 4, 0x100), (0x08, 8, s.incarnation), (0x10, 8, s.ns), (0x18, 2, x.temp0.toNat),
   (0x1A, 2, x.temp1.toNat), (0x1C, 2, x.coolant.toNat), (0x20, 4, x.draw.toNat), (0x24, 2, x.limit.toNat),
   (0x26, 2, x.limitResult.toNat), (0x28, 2, (s.die 0).clockMHz), (0x2A, 2, (s.die 1).clockMHz),
   (0x2C, 4, x.powerSteps.toNat + x.thermalSteps.toNat * 2 ^ 16), (0x30, 32, featureVector), (0x50, 8, version),
   (0x58, 8, s.security 0 + s.security 1 * 2 ^ 32), (0x60, 4, boot), (0x64, 4, fatal), (0x68, 4, x.enables.toNat),
   (0x6C, 4, x.events.toNat)]

/-- The byte that a pointer reads: 0 where no register that is read lies, the write-only 0x70 among them (DESIGN CHOICE, assumption
113). A pointer inside a register that Table 1.5 lists by its first byte alone reads that byte of it (DESIGN CHOICE, assumption 121). -/
def State.sideByte (s : State) (p : Nat) : Byte :=
  match s.sideRegisters.find? fun (a, n, _) => a ≤ p && p < a + n with
  | some (a, _, x) => BitVec.ofNat 8 (x >>> (8 * (p - a)))
  | none => 0

/-- The power limit: 1,200 to 2,100 W in steps of 25, or refused and unchanged (01 R18). -/
def State.writeLimit (s : State) (w : BitVec 16) : State :=
  if 1200 ≤ w.toNat && w.toNat ≤ 2100 && w.toNat % 25 == 0 then s.modSide fun x => { x with limit := w, limitResult := 0 }
  else s.modSide fun x => { x with limitResult := 1 }

/-- Event flags cleared by ones (01 Table 1.5). -/
def State.clearFlags (s : State) (ones : Nat) : State :=
  s.modSide fun x => { x with events := x.events &&& ~~~(BitVec.ofNat 4 ones) }

/-- Register 0x70: the one value that resets the module as power-on does. -/
def State.resetModule (s : State) (v : Nat) : State := if v = 0x52455345 then s.powerOn else s

/-- Bytes written to the register at the pointer, which only a register's first byte names (assumption 121); a register that
does not get all of its bytes stays, and bytes beyond its size are dropped (DESIGN CHOICE, assumption 112). -/
def State.writeSide (s : State) (bs : List Byte) : State :=
  match s.side.pointer.toNat with
  | 0x24 => if bs.length < 2 then s else s.writeLimit (BitVec.ofNat 16 (ofBytes (bs.take 2)))
  | 0x68 => if bs.length < 4 then s else s.modSide fun x => { x with enables := BitVec.ofNat 4 (ofBytes (bs.take 4)) }
  | 0x6C => if bs.length < 4 then s else s.clearFlags (ofBytes (bs.take 4))
  | 0x70 => if bs.length < 4 then s else s.resetModule (ofBytes (bs.take 4))
  | _ => s

/-- The register pointer set by the first byte of a private write. -/
def State.setPointer (s : State) (p : Nat) : State := s.modSide fun x => { x with pointer := BitVec.ofNat 8 p }

/-- The address that the target answers at: the static 0x5C until it has a dynamic one (01 R21). -/
def Sideband.address (x : Sideband) : Nat := (x.dynamic.map BitVec.toNat).getD 0x5C

/-- A transfer, whose address `third` gives, is for this target. -/
def State.addressed (s : State) : Bool := s.ev.third == s.side.address

/-- SET_POINTER: a private write of one byte (01 R21). -/
def execSetPointer (s : State) : Host.Outcome State Fault Refusal :=
  .next (if s.addressed then s.setPointer s.ev.unit else s)

/-- REGISTER_WRITE: a private write whose first byte sets the pointer and whose further bytes go to that register (01 R21). -/
def execRegisterWrite (s : State) : Host.Outcome State Fault Refusal :=
  .next (match s.ev.bytes with
    | [] => s
    | p :: bs => if s.addressed then (s.setPointer p.toNat).writeSide bs else s)

/-- PRIVATE_READ: bytes from the pointer upward, and the pointer past them (01 R21). -/
def execPrivateRead (s : State) : Host.Outcome State Fault Refusal :=
  let p := s.side.pointer.toNat
  let bs := (List.range s.ev.unit).map fun i => s.sideByte ((p + i) % 256)
  .next (if s.addressed then s.modSide fun x => { x with reply := bs, pointer := BitVec.ofNat 8 (p + s.ev.unit) } else s)

/-- ENTDAA: the bus controller's dynamic address; or SETDASA, which names the static address in `item` (01 R21). One given later takes
the place of the one before (DESIGN CHOICE, assumption 122). -/
def execEntdaa (s : State) : Host.Outcome State Fault Refusal :=
  .next (if s.ev.item = 0 || s.ev.item = 0x5C then s.modSide fun x => { x with dynamic := some (BitVec.ofNat 7 s.ev.unit) } else s)

/-- POWER_LIMIT_WRITE: a write to register 0x24 (01 R18, R21). -/
def execPowerLimitWrite (s : State) : Host.Outcome State Fault Refusal :=
  .next (if s.addressed then (s.setPointer 0x24).writeLimit (BitVec.ofNat 16 s.ev.unit) else s)

/-- EVENT_FLAGS_CLEAR: a write to register 0x6C (01 R21). -/
def execEventFlagsClear (s : State) : Host.Outcome State Fault Refusal :=
  .next (if s.addressed then (s.setPointer 0x6C).clearFlags s.ev.unit else s)

/-- MODULE_RESET: a write to register 0x70 (01 R21). -/
def execModuleReset (s : State) : Host.Outcome State Fault Refusal :=
  .next (if s.addressed then (s.setPointer 0x70).resetModule s.ev.unit else s)

/-! ### Clock steps (01 R18, R19) -/

/-- Both dies have met their images and rejected them: the part does not boot (19 R417). -/
def State.bootRefused (s : State) : Bool :=
  s.sup.complexes.all (fun c => !c.booted) && s.sup.complexes.any fun c => c.status != 0

/-- The compute clocks are gated by a thermal trip, the part is held in reset, or it did not boot (19 R417, R429). -/
def State.gated (s : State) : Bool := s.sup.heldInReset || s.sup.tripped || s.bootRefused

/-- 100 µs have passed since the last step, and the clock runs. -/
def State.stepDue (s : State) : Bool := !s.gated && s.side.lastStep.all fun t => t + 100000 ≤ s.elapsed

/-- The common clock of both dies moved to a frequency. -/
def State.setClock (s : State) (f : Nat → Nat) : State :=
  { s with
    dies := s.dies.map fun d => { d with clockMHz := f d.clockMHz }
    side := { s.side with lastStep := some s.elapsed } }

/-- One step down, no lower than the floor of 1.00 GHz. -/
def clockDown (f : Nat) : Nat := max 1000 (f - 25)
/-- One step up, no higher than the nominal clock. -/
def clockUp (f : Nat) : Nat := min 1600 (f + 25)

/-- The clock is above its floor, or below nominal. -/
def State.aboveFloor (s : State) : Bool := s.dies.any fun d => 1000 < d.clockMHz
def State.belowNominal (s : State) : Bool := s.dies.any fun d => d.clockMHz < 1600

/-- Junction temperatures as measured, in 1/16 °C, and the coolant's where it is given. -/
def State.senseTemps (s : State) (t0 t1 : Nat) (coolant : Option Nat) : State :=
  s.modSide fun x =>
    { x with
      temp0 := BitVec.ofNat 16 t0, temp1 := BitVec.ofNat 16 t1
      coolant := (coolant.map (BitVec.ofNat 16)).getD x.coolant }

/-- The hottest junction. -/
def State.hottest (s : State) : Int := max s.side.temp0.toInt s.side.temp1.toInt

/-- The draw averaged over the last 1 ms, in 0.1 W. -/
def State.senseDraw (s : State) (d : Nat) : State := s.modSide fun x => { x with draw := BitVec.ofNat 32 d }

/-- POWER_THROTTLE_STEP: a draw above the limit lowers the clock by one step, down to the floor, where the supervisor records that
the draw is still above it, once (01 R18; assumption 123). -/
def execPowerThrottleStep (s : State) : Host.Outcome State Fault Refusal :=
  let s := s.senseDraw s.ev.unit
  .next (if s.side.draw.toNat ≤ s.side.limit.toNat * 10 || !s.stepDue then s
    else if s.aboveFloor then (s.setClock clockDown).modSide fun x => { x with powerSteps := x.powerSteps + 1 }
    else (s.notice (.atFloor 0)).notice (.atFloor 1))

/-- CLOCK_RAISE_STEP: a draw at least 25 W below the limit, and every junction at 100 °C or below, raise it (01 R18, R19). -/
def execClockRaiseStep (s : State) : Host.Outcome State Fault Refusal :=
  let s := (s.senseDraw s.ev.unit).senseTemps s.ev.item s.ev.third s.ev.nums.head?
  .next (if s.side.draw.toNat + 250 ≤ s.side.limit.toNat * 10 && s.hottest ≤ 1600 && s.stepDue && s.belowNominal then
      s.setClock clockUp
    else s)

/-- THERMAL_THROTTLE_STEP: a junction at 105 °C or above lowers it, whatever the power limit (01 R19). -/
def execThermalThrottleStep (s : State) : Host.Outcome State Fault Refusal :=
  let s := s.senseTemps s.ev.unit s.ev.item s.ev.nums.head?
  .next (if 1680 ≤ s.hottest && s.stepDue && s.aboveFloor then
      ((s.setClock clockDown).modSide fun x => { x with thermalSteps := x.thermalSteps + 1 }).raiseFlag 0
    else s)

/-- A thermal trip: its flag, the clocks gated at once whatever fatal error stands already, and the fatal error (01 R19, 19 R429). -/
def State.trip (s : State) : State :=
  let s := s.raiseFlag 1
  ({ s with sup := { s.sup with tripped := true } } : State).raiseFatal 1

/-- THERMAL_TRIP: a junction at 120 °C is a fatal error (01 R19). -/
def execThermalTrip (s : State) : Host.Outcome State Fault Refusal :=
  let s := s.senseTemps s.ev.unit s.ev.item s.ev.nums.head?
  .next (if 1920 ≤ s.hottest && !s.gated then s.trip else s)

end Sys2Proof.Machine
end

