-- ==== Sys2Proof/Machine/Dispatch.lean ====
section
/-! DEFINITION. One arm per instruction of the opcode table, each a direct call of its meaning. -/
namespace Sys2Proof.Machine

def exec (i : Instr) (s : State) : Host.Outcome State Fault Refusal :=
  match i with
  | .nop f => Sys2Proof.Machine.execNop f s
  | .bra f => Sys2Proof.Machine.execBra f s
  | .brc f => Sys2Proof.Machine.execBrc f s
  | .brwAny f => Sys2Proof.Machine.execBrwAny f s
  | .brwAll f => Sys2Proof.Machine.execBrwAll f s
  | .brwNone f => Sys2Proof.Machine.execBrwNone f s
  | .brwWz f => Sys2Proof.Machine.execBrwWz f s
  | .brwWnz f => Sys2Proof.Machine.execBrwWnz f s
  | .jmpi f => Sys2Proof.Machine.execJmpi f s
  | .call f => Sys2Proof.Machine.execCall f s
  | .calli f => Sys2Proof.Machine.execCalli f s
  | .ret f => Sys2Proof.Machine.execRet f s
  | .join f => Sys2Proof.Machine.execJoin f s
  | .exit f => Sys2Proof.Machine.execExit f s
  | .yield f => Sys2Proof.Machine.execYield f s
  | .brk f => Sys2Proof.Machine.execBrk f s
  | .trap f => Sys2Proof.Machine.execTrap f s
  | .mov f => Sys2Proof.Machine.execMov f s
  | .movw f => Sys2Proof.Machine.execMovw f s
  | .bcastw f => Sys2Proof.Machine.execBcastw f s
  | .bcastwP f => Sys2Proof.Machine.execBcastwP f s
  | .sel f => Sys2Proof.Machine.execSel f s
  | .pand f => Sys2Proof.Machine.execPand f s
  | .pandAn f => Sys2Proof.Machine.execPandAn f s
  | .por f => Sys2Proof.Machine.execPor f s
  | .porOn f => Sys2Proof.Machine.execPorOn f s
  | .pxor f => Sys2Proof.Machine.execPxor f s
  | .pnot f => Sys2Proof.Machine.execPnot f s
  | .voteBallot f => Sys2Proof.Machine.execVoteBallot f s
  | .voteAny f => Sys2Proof.Machine.execVoteAny f s
  | .voteAll f => Sys2Proof.Machine.execVoteAll f s
  | .voteUni f => Sys2Proof.Machine.execVoteUni f s
  | .matchAny f => Sys2Proof.Machine.execMatchAny f s
  | .matchAll f => Sys2Proof.Machine.execMatchAll f s
  | .reduce f => Sys2Proof.Machine.execReduce f s
  | .scan f => Sys2Proof.Machine.execScan f s
  | .scanExclusive f => Sys2Proof.Machine.execScanExclusive f s
  | .perm f => Sys2Proof.Machine.execPerm f s
  | .pack f => Sys2Proof.Machine.execPack f s
  | .unpk f => Sys2Proof.Machine.execUnpk f s
  | .subx f => Sys2Proof.Machine.execSubx f s
  | .subxTwo f => Sys2Proof.Machine.execSubxTwo f s
  | .movs f => Sys2Proof.Machine.execMovs f s
  | .movsClr f => Sys2Proof.Machine.execMovsClr f s
  | .iadd f => Sys2Proof.Machine.execIadd f s
  | .isub f => Sys2Proof.Machine.execIsub f s
  | .imul f => Sys2Proof.Machine.execImul f s
  | .imad f => Sys2Proof.Machine.execImad f s
  | .imulh f => Sys2Proof.Machine.execImulh f s
  | .imulhSu f => Sys2Proof.Machine.execImulhSu f s
  | .imadwLo f => Sys2Proof.Machine.execImadwLo f s
  | .imadwHi f => Sys2Proof.Machine.execImadwHi f s
  | .idiv f => Sys2Proof.Machine.execIdiv f s
  | .irem f => Sys2Proof.Machine.execIrem f s
  | .imin f => Sys2Proof.Machine.execImin f s
  | .imax f => Sys2Proof.Machine.execImax f s
  | .iabs f => Sys2Proof.Machine.execIabs f s
  | .shl f => Sys2Proof.Machine.execShl f s
  | .shr f => Sys2Proof.Machine.execShr f s
  | .sar f => Sys2Proof.Machine.execSar f s
  | .rotL f => Sys2Proof.Machine.execRotL f s
  | .rotR f => Sys2Proof.Machine.execRotR f s
  | .fshlL f => Sys2Proof.Machine.execFshlL f s
  | .fshlR f => Sys2Proof.Machine.execFshlR f s
  | .andB f => Sys2Proof.Machine.execAndB f s
  | .orB f => Sys2Proof.Machine.execOrB f s
  | .xor f => Sys2Proof.Machine.execXor f s
  | .andn f => Sys2Proof.Machine.execAndn f s
  | .lop3 f => Sys2Proof.Machine.execLop3 f s
  | .popc f => Sys2Proof.Machine.execPopc f s
  | .clz f => Sys2Proof.Machine.execClz f s
  | .ctz f => Sys2Proof.Machine.execCtz f s
  | .brev f => Sys2Proof.Machine.execBrev f s
  | .bfx f => Sys2Proof.Machine.execBfx f s
  | .bfi f => Sys2Proof.Machine.execBfi f s
  | .icmp f => Sys2Proof.Machine.execIcmp f s
  | .iaddcC f => Sys2Proof.Machine.execIaddcC f s
  | .iaddcB f => Sys2Proof.Machine.execIaddcB f s
  | .lea f => Sys2Proof.Machine.execLea f s
  | .sad f => Sys2Proof.Machine.execSad f s
  | .acsPm f => Sys2Proof.Machine.execAcsPm f s
  | .acsMp f => Sys2Proof.Machine.execAcsMp f s
  | .fadd f => Sys2Proof.Machine.execFadd f s
  | .fsub f => Sys2Proof.Machine.execFsub f s
  | .fmul f => Sys2Proof.Machine.execFmul f s
  | .ffma f => Sys2Proof.Machine.execFfma f s
  | .fmin f => Sys2Proof.Machine.execFmin f s
  | .fmax f => Sys2Proof.Machine.execFmax f s
  | .fcmp f => Sys2Proof.Machine.execFcmp f s
  | .fclass f => Sys2Proof.Machine.execFclass f s
  | .fclassTest f => Sys2Proof.Machine.execFclassTest f s
  | .frnd f => Sys2Proof.Machine.execFrnd f s
  | .frndX f => Sys2Proof.Machine.execFrndX f s
  | .fcvt f => Sys2Proof.Machine.execFcvt f s
  | .fscale f => Sys2Proof.Machine.execFscale f s
  | .fdot2 f => Sys2Proof.Machine.execFdot2 f s
  | .fdiv f => Sys2Proof.Machine.execFdiv f s
  | .fsqrt f => Sys2Proof.Machine.execFsqrt f s
  | .modesetAll f => Sys2Proof.Machine.execModesetAll f s
  | .modesetRm f => Sys2Proof.Machine.execModesetRm f s
  | .modesetFtz f => Sys2Proof.Machine.execModesetFtz f s
  | .modesetFclr f => Sys2Proof.Machine.execModesetFclr f s
  | .modeget f => Sys2Proof.Machine.execModeget f s
  | .modegetClr f => Sys2Proof.Machine.execModegetClr f s
  | .seed f => Sys2Proof.Machine.execSeed f s
  | .seedLane f => Sys2Proof.Machine.execSeedLane f s
  | .cmul f => Sys2Proof.Machine.execCmul f s
  | .cfma f => Sys2Proof.Machine.execCfma f s
  | .cmulj f => Sys2Proof.Machine.execCmulj f s
  | .cconj f => Sys2Proof.Machine.execCconj f s
  | .cabs2 f => Sys2Proof.Machine.execCabs2 f s
  | .rcp f => Sys2Proof.Machine.execRcp f s
  | .rsq f => Sys2Proof.Machine.execRsq f s
  | .sqrta f => Sys2Proof.Machine.execSqrta f s
  | .ex2 f => Sys2Proof.Machine.execEx2 f s
  | .lg2 f => Sys2Proof.Machine.execLg2 f s
  | .sinpi f => Sys2Proof.Machine.execSinpi f s
  | .cospi f => Sys2Proof.Machine.execCospi f s
  | .cispi f => Sys2Proof.Machine.execCispi f s
  | .tanh f => Sys2Proof.Machine.execTanh f s
  | .sigm f => Sys2Proof.Machine.execSigm f s
  | .erf f => Sys2Proof.Machine.execErf f s
  | .lds f => Sys2Proof.Machine.execLds f s
  | .sts f => Sys2Proof.Machine.execSts f s
  | .copy f => Sys2Proof.Machine.execCopy f s
  | .copyout f => Sys2Proof.Machine.execCopyout f s
  | .spclr f => Sys2Proof.Machine.execSpclr f s
  | .spmap f => Sys2Proof.Machine.execSpmap f s
  | .spunmap f => Sys2Proof.Machine.execSpunmap f s
  | .spwb f => Sys2Proof.Machine.execSpwb f s
  | .qbindPop f => Sys2Proof.Machine.execQbindPop f s
  | .qbindPush f => Sys2Proof.Machine.execQbindPush f s
  | .qunbind f => Sys2Proof.Machine.execQunbind f s
  | .qinit f => Sys2Proof.Machine.execQinit f s
  | .qinitDrop f => Sys2Proof.Machine.execQinitDrop f s
  | .qtry f => Sys2Proof.Machine.execQtry f s
  | .qpeek f => Sys2Proof.Machine.execQpeek f s
  | .qlen f => Sys2Proof.Machine.execQlen f s
  | .qclose f => Sys2Proof.Machine.execQclose f s
  | .dqset f => Sys2Proof.Machine.execDqset f s
  | .dqsetClr f => Sys2Proof.Machine.execDqsetClr f s
  | .spawn f => Sys2Proof.Machine.execSpawn f s
  | .poptask f => Sys2Proof.Machine.execPoptask f s
  | .stealAny f => Sys2Proof.Machine.execStealAny f s
  | .stealAt f => Sys2Proof.Machine.execStealAt f s
  | .taskdone f => Sys2Proof.Machine.execTaskdone f s
  | .phasebegin f => Sys2Proof.Machine.execPhasebegin f s
  | .phasewait f => Sys2Proof.Machine.execPhasewait f s
  | .phasewaitTry f => Sys2Proof.Machine.execPhasewaitTry f s
  | .waitle f => Sys2Proof.Machine.execWaitle f s
  | .barinit f => Sys2Proof.Machine.execBarinit f s
  | .bararr f => Sys2Proof.Machine.execBararr f s
  | .barwait f => Sys2Proof.Machine.execBarwait f s
  | .barsync f => Sys2Proof.Machine.execBarsync f s
  | .tbarSync f => Sys2Proof.Machine.execTbarSync f s
  | .tbarArr f => Sys2Proof.Machine.execTbarArr f s
  | .tbarWait f => Sys2Proof.Machine.execTbarWait f s
  | .gang f => Sys2Proof.Machine.execGang f s
  | .arel f => Sys2Proof.Machine.execArel f s
  | .tdesc f => Sys2Proof.Machine.execTdesc f s
  | .mma f => Sys2Proof.Machine.execMma f s
  | .mmas f => Sys2Proof.Machine.execMmas f s
  | .aclr f => Sys2Proof.Machine.execAclr f s
  | .amovCopy f => Sys2Proof.Machine.execAmovCopy f s
  | .amovTr f => Sys2Proof.Machine.execAmovTr f s
  | .amovGet f => Sys2Proof.Machine.execAmovGet f s
  | .amovPut f => Sys2Proof.Machine.execAmovPut f s
  | .ald f => Sys2Proof.Machine.execAld f s
  | .ast f => Sys2Proof.Machine.execAst f s
  | .ared f => Sys2Proof.Machine.execAred f s
  | .aepi f => Sys2Proof.Machine.execAepi f s
  | .ld f => Sys2Proof.Machine.execLd f s
  | .st f => Sys2Proof.Machine.execSt f s
  | .ldx f => Sys2Proof.Machine.execLdx f s
  | .stx f => Sys2Proof.Machine.execStx f s
  | .prefL2 f => Sys2Proof.Machine.execPrefL2 f s
  | .prefMsc f => Sys2Proof.Machine.execPrefMsc f s
  | .prefCore f => Sys2Proof.Machine.execPrefCore f s
  | .atom f => Sys2Proof.Machine.execAtom f s
  | .atomrCas f => Sys2Proof.Machine.execAtomrCas f s
  | .atomrSwap f => Sys2Proof.Machine.execAtomrSwap f s
  | .red f => Sys2Proof.Machine.execRed f s
  | .redfAdd f => Sys2Proof.Machine.execRedfAdd f s
  | .redfFlush f => Sys2Proof.Machine.execRedfFlush f s
  | .bulkCopy f => Sys2Proof.Machine.execBulkCopy f s
  | .bulkFill f => Sys2Proof.Machine.execBulkFill f s
  | .esyncBoth f => Sys2Proof.Machine.execEsyncBoth f s
  | .esyncIn f => Sys2Proof.Machine.execEsyncIn f s
  | .esyncOut f => Sys2Proof.Machine.execEsyncOut f s
  | .probeR f => Sys2Proof.Machine.execProbeR f s
  | .probeW f => Sys2Proof.Machine.execProbeW f s
  | .probeX f => Sys2Proof.Machine.execProbeX f s
  | .asbind f => Sys2Proof.Machine.execAsbind f s
  | .asbindClose f => Sys2Proof.Machine.execAsbindClose f s
  | .asbindClr f => Sys2Proof.Machine.execAsbindClr f s
  | .trace f => Sys2Proof.Machine.execTrace f s
  | .tracew f => Sys2Proof.Machine.execTracew f s
  | .hitacc f => Sys2Proof.Machine.execHitacc f s
  | .hitaccEnd f => Sys2Proof.Machine.execHitaccEnd f s
  | .hitign f => Sys2Proof.Machine.execHitign f s
  | .rayspawn f => Sys2Proof.Machine.execRayspawn f s
  | .rayterm f => Sys2Proof.Machine.execRayterm f s
  | .rload f => Sys2Proof.Machine.execRload f s
  | .rloadSlot f => Sys2Proof.Machine.execRloadSlot f s
  | .clemit f => Sys2Proof.Machine.execClemit f s
  | .build f => Sys2Proof.Machine.execBuild f s
  | .refit f => Sys2Proof.Machine.execRefit f s
  | .refitInplace f => Sys2Proof.Machine.execRefitInplace f s
  | .compact f => Sys2Proof.Machine.execCompact f s
  | .sfwait f => Sys2Proof.Machine.execSfwait f s
  | .sfwaitTry f => Sys2Proof.Machine.execSfwaitTry f s
  | .genadv f => Sys2Proof.Machine.execGenadv f s
  | .launch f => Sys2Proof.Machine.execLaunch f s
  | .notify f => Sys2Proof.Machine.execNotify f s
  | .hret f => Sys2Proof.Machine.execHret f s
  | .srd f => Sys2Proof.Machine.execSrd f s
  | .swr f => Sys2Proof.Machine.execSwr f s
  | .swrT f => Sys2Proof.Machine.execSwrT f s
  | .clockCyc f => Sys2Proof.Machine.execClockCyc f s
  | .clockNs f => Sys2Proof.Machine.execClockNs f s
  | .nxHalt f => Sys2Proof.Machine.execNxHalt f s
  | .nxLdc f => Sys2Proof.Machine.execNxLdc f s
  | .nxLdi f => Sys2Proof.Machine.execNxLdi f s
  | .nxAddi f => Sys2Proof.Machine.execNxAddi f s
  | .nxAdd f => Sys2Proof.Machine.execNxAdd f s
  | .nxAnd f => Sys2Proof.Machine.execNxAnd f s
  | .nxShr f => Sys2Proof.Machine.execNxShr f s
  | .nxShl f => Sys2Proof.Machine.execNxShl f s
  | .nxLdm f => Sys2Proof.Machine.execNxLdm f s
  | .nxStm f => Sys2Proof.Machine.execNxStm f s
  | .nxBeq f => Sys2Proof.Machine.execNxBeq f s
  | .nxBne f => Sys2Proof.Machine.execNxBne f s
  | .nxBltu f => Sys2Proof.Machine.execNxBltu f s
  | .nxDjnz f => Sys2Proof.Machine.execNxDjnz f s
  | .nxNlaunch f => Sys2Proof.Machine.execNxNlaunch f s
  | .nxNcopy f => Sys2Proof.Machine.execNxNcopy f s
  | .nxNbuild f => Sys2Proof.Machine.execNxNbuild f s
  | .nxNwait f => Sys2Proof.Machine.execNxNwait f s
  | .nxNdone f => Sys2Proof.Machine.execNxNdone f s
  | .teamBarrierRelease => Sys2Proof.Machine.execTeamBarrierRelease s
  | .gangGrant => Sys2Proof.Machine.execGangGrant s
  | .tileReturn => Sys2Proof.Machine.execTileReturn s
  | .mxeEntryStart => Sys2Proof.Machine.execMxeEntryStart s
  | .mxeRetire => Sys2Proof.Machine.execMxeRetire s
  | .slotWaitResume => Sys2Proof.Machine.execSlotWaitResume s
  | .headerWaitPass => Sys2Proof.Machine.execHeaderWaitPass s
  | .sluiceAdmit => Sys2Proof.Machine.execSluiceAdmit s
  | .sluiceRefill => Sys2Proof.Machine.execSluiceRefill s
  | .joinRelease => Sys2Proof.Machine.execJoinRelease s
  | .warpDrainEnd => Sys2Proof.Machine.execWarpDrainEnd s
  | .teamPlacement => Sys2Proof.Machine.execTeamPlacement s
  | .dictionaryLoad => Sys2Proof.Machine.execDictionaryLoad s
  | .allotmentClear => Sys2Proof.Machine.execAllotmentClear s
  | .allotmentFree => Sys2Proof.Machine.execAllotmentFree s
  | .lineDataArrival => Sys2Proof.Machine.execLineDataArrival s
  | .copyEngineComplete => Sys2Proof.Machine.execCopyEngineComplete s
  | .rayPop => Sys2Proof.Machine.execRayPop s
  | .nodeVisit => Sys2Proof.Machine.execNodeVisit s
  | .fencePass => Sys2Proof.Machine.execFencePass s
  | .leafTest => Sys2Proof.Machine.execLeafTest s
  | .builderCommandStart => Sys2Proof.Machine.execBuilderCommandStart s
  | .builderWritePhase => Sys2Proof.Machine.execBuilderWritePhase s
  | .builderComplete => Sys2Proof.Machine.execBuilderComplete s
  | .leaseRenewal => Sys2Proof.Machine.execLeaseRenewal s
  | .l2Evict => Sys2Proof.Machine.execL2Evict s
  | .l2Fill => Sys2Proof.Machine.execL2Fill s
  | .ptsAdvance => Sys2Proof.Machine.execPtsAdvance s
  | .timestampOverflow => Sys2Proof.Machine.execTimestampOverflow s
  | .peerLinkRead => Sys2Proof.Machine.execPeerLinkRead s
  | .peerLinkWrite => Sys2Proof.Machine.execPeerLinkWrite s
  | .correctedError => Sys2Proof.Machine.execCorrectedError s
  | .memUncorrect => Sys2Proof.Machine.execMemUncorrect s
  | .unconsumedError => Sys2Proof.Machine.execUnconsumedError s
  | .tlbMissWalk => Sys2Proof.Machine.execTlbMissWalk s
  | .walkComplete => Sys2Proof.Machine.execWalkComplete s
  | .faultReplay => Sys2Proof.Machine.execFaultReplay s
  | .faultFail => Sys2Proof.Machine.execFaultFail s
  | .supervisorContinue => Sys2Proof.Machine.execSupervisorContinue s
  | .supervisorHalt => Sys2Proof.Machine.execSupervisorHalt s
  | .haltSaveComplete => Sys2Proof.Machine.execHaltSaveComplete s
  | .evictionRequest => Sys2Proof.Machine.execEvictionRequest s
  | .victimSave => Sys2Proof.Machine.execVictimSave s
  | .evictionReleaseTimeout => Sys2Proof.Machine.execEvictionReleaseTimeout s
  | .warpResume => Sys2Proof.Machine.execWarpResume s
  | .feuSlotExamine => Sys2Proof.Machine.execFeuSlotExamine s
  | .queueRestart => Sys2Proof.Machine.execQueueRestart s
  | .ndoneStore => Sys2Proof.Machine.execNdoneStore s
  | .nxStepBudget => Sys2Proof.Machine.execNxStepBudget s
  | .dispatchStarvation => Sys2Proof.Machine.execDispatchStarvation s
  | .issueClassBoost => Sys2Proof.Machine.execIssueClassBoost s
  | .ticket => Sys2Proof.Machine.execTicket s
  | .notifyRecord => Sys2Proof.Machine.execNotifyRecord s
  | .mbxClaim => Sys2Proof.Machine.execMbxClaim s
  | .mbxSubmit => Sys2Proof.Machine.execMbxSubmit s
  | .mbxNext => Sys2Proof.Machine.execMbxNext s
  | .mbxRelease => Sys2Proof.Machine.execMbxRelease s
  | .claimLapse => Sys2Proof.Machine.execClaimLapse s
  | .reqCreate => Sys2Proof.Machine.execReqCreate s
  | .reqMap => Sys2Proof.Machine.execReqMap s
  | .reqUnmap => Sys2Proof.Machine.execReqUnmap s
  | .reqQueueCreate => Sys2Proof.Machine.execReqQueueCreate s
  | .reqQueueDestroy => Sys2Proof.Machine.execReqQueueDestroy s
  | .reqHalt => Sys2Proof.Machine.execReqHalt s
  | .reqResume => Sys2Proof.Machine.execReqResume s
  | .reqAttest => Sys2Proof.Machine.execReqAttest s
  | .reqDestroy => Sys2Proof.Machine.execReqDestroy s
  | .registerSpaceError => Sys2Proof.Machine.execRegisterSpaceError s
  | .registerWrite => Sys2Proof.Machine.execRegisterWrite s
  | .setPointer => Sys2Proof.Machine.execSetPointer s
  | .privateRead => Sys2Proof.Machine.execPrivateRead s
  | .entdaa => Sys2Proof.Machine.execEntdaa s
  | .powerLimitWrite => Sys2Proof.Machine.execPowerLimitWrite s
  | .eventFlagsClear => Sys2Proof.Machine.execEventFlagsClear s
  | .moduleReset => Sys2Proof.Machine.execModuleReset s
  | .powerThrottleStep => Sys2Proof.Machine.execPowerThrottleStep s
  | .clockRaiseStep => Sys2Proof.Machine.execClockRaiseStep s
  | .thermalThrottleStep => Sys2Proof.Machine.execThermalThrottleStep s
  | .thermalTrip => Sys2Proof.Machine.execThermalTrip s
  | .powerOnBoot => Sys2Proof.Machine.execPowerOnBoot s
  | .ptpSteer => Sys2Proof.Machine.execPtpSteer s
  | .ptpFirstLock => Sys2Proof.Machine.execPtpFirstLock s
  | .complexFailed => Sys2Proof.Machine.execComplexFailed s
  | .fatalDump => Sys2Proof.Machine.execFatalDump s
  | .linkPortFailure => Sys2Proof.Machine.execLinkPortFailure s
  | .packageRemoval => Sys2Proof.Machine.execPackageRemoval s
  | .heartbeat => Sys2Proof.Machine.execHeartbeat s
  | .mscEviction => Sys2Proof.Machine.execMscEviction s
  | .pathReturns => Sys2Proof.Machine.execPathReturns s

end Sys2Proof.Machine
end

