-- ==== Sys2Proof/Machine/Place.lean ====
section
/-! DEFINITION. An instruction placed so that the very next step runs it (assumption 20: a program is loaded from outside, by the supervisor, a work queue and a launch). -/
namespace Sys2Proof.Machine

/-- Where the placed code stands: its header, and the root and next tables that map the low 512 GiB onto themselves. -/
def placeHeader : Word := 0x20000
def placeRoot : Nat := 0x10000
def placeTable : Nat := 0x11000

/-- A running context over those tables, with no save pools. -/
def placedCtx : Ctx where
  state := .running
  owner := 0
  root := BitVec.ofNat 64 (0xA * 2 ^ 60 + placeRoot / 4096)
  deleg := 0
  supv := 0
  wsb := 0
  wsn := 0
  gsb := 0
  gsn := 0
  asb := 0
  asn := 0
  esb := 0
  esz := 0
  hcause := 0
  hinfo := 0
  hwho := 0
  key := 0
  pages := []
  tables := []
  haltStep := 0
  freezing := false

/-- A live lane inside the block at `h`, at its first parcel. -/
def placedLane (h : Word) (t L : Nat) : Lane where
  pc := h + 8
  live := true
  held := false
  bypass := 0
  hdr := h
  stage := .inBody
  way := .launch
  bundle := 1
  homeHdr := 0
  homeBundle := 0
  changed := false
  sr := srSeed t L
  hlane := false
  tret := false

/-- A launch of one 16-wide warp with the whole uniform file. -/
def placedLaunch : Launch where
  ctx := 0
  die := 0
  entry := placeHeader
  dictBase := 0
  dictN := 0
  width := 16
  gang := 0
  teamLanes := 16
  teams := 1
  units := 0
  nw := 16
  barriers := 0
  peak := 255
  maxDemand := 255
  roles := []
  strict := false
  args := []
  dc := 0
  deadline := 0
  window := 0
  queue := none
  boosted := false
  owner := .nibex 0 0
  serial := 0
  started := 0
  next := 1
  teamsDone := 0
  time := 0
  doneTime := 0
  placedAt := 0

/-- The header of a block whose body is one inline word with a demand of 255. -/
def placedHeaderWord : Word := BitVec.ofNat 64 (0xC * 2 ^ 60 + 11 * 2 ^ 51 + 255 * 2 ^ 43)

/-- The page tables in memory: the low 512 GiB of the address space map onto themselves. -/
def placedTables (m : Memory) : Memory :=
  Memory.writeN (Memory.writeN m placeRoot (bytesOf 8 (placeTable / 4096 * 2 ^ 10 + 1))) placeTable (bytesOf 8 0xCF)

/-- Page tables and code in memory. -/
def placedMemory (m : Memory) (w : Nat) : Memory :=
  Memory.writeN (placedTables m) placeHeader.toNat (bytesOf 8 placedHeaderWord.toNat ++ bytesOf 2 0x8000 ++ bytesOf 20 w)

/-- A cleared allotment of all the scratchpad. -/
def placedAllot : Allot where
  ctx := 0
  launch := 0
  team := 0
  core := 0
  teamCore := 0
  units := 96
  warps := 1
  seats := [(0, 0)]
  saveIdx := 0
  cleared := true
  saved := false
  mem := []
  lines := []
  maps := []
  spTimes := []
  queues := []
  deques := []
  edges := []
  barriers := []
  nBarriers := 256
  written := []

/-- An Irlek word as the only instruction of a warp in slot 0, which issues next. -/
def State.placeIrlek (s : State) (w : Nat) : State :=
  { s with
    mem := placedMemory s.mem w
    ctxs := AMap.set s.ctxs 0 placedCtx
    launches := AMap.set s.launches 0 placedLaunch
    warps := AMap.set s.warps 0 { Warp.start 0 0 0 16 16 ((List.range 16).map (placedLane placeHeader 0)) with
      res := [(1, 255)], nextBundle := 2 }
    teams := AMap.set s.teams 0 ⟨0, 0, .placed, [0], 0, [], 1⟩
    allots := AMap.set s.allots 0 placedAllot
    agenda := [.issue 0] }

/-- A class L queue of that context, its program the given word and HALT, its first command running. -/
def placedQueue (w : Nat) : Queue where
  ctx := 0
  classL := true
  ring := 0x40000
  k := 4
  dc := 0
  window := 0
  program := [BitVec.ofNat 32 w, 0]
  windows := [⟨0, 2 ^ 30⟩]
  key := 0
  control := 0x50000
  peers := []
  rd := 0
  tk := 0
  commits := []
  nonce := 0
  status := 0
  stopped := false
  missed := 0
  late := 0
  badNotify := 0
  notified := false
  faulted := false
  running := some ⟨0, 1, List.replicate 8 0, 0, 0, 0, 0⟩
  serial := 1
  work := []
  workTime := 0
  dones := []
  destroying := false

/-- A Nibex word as the next instruction of a running command of queue 0. -/
def State.placeNibex (s : State) (w : Nat) : State :=
  { s with
    mem := placedTables s.mem
    ctxs := AMap.set s.ctxs 0 placedCtx
    queues := AMap.set s.queues 0 (placedQueue w)
    agenda := [.nibex 0] }

end Sys2Proof.Machine
end

