-- ==== Sys2Proof/Machine/Sched.lean ====
section
/-! DEFINITION. What the machine does next: the head of the agenda, or one of the things its units may do now, freely chosen; and time (00 R1). -/
namespace Sys2Proof.Machine

/-! ### Nibex steps -/

/-- A step of the command a queue runs: the instruction at its counter. -/
def nibexStep (run : Run) (q : Nat) (s : State) : Host.Outcome State Fault Refusal :=
  match (AMap.get s.queues q).bind fun k => k.running.map fun r => (k, r) with
  | none => .next s
  | some (k, r) =>
    if r.spent || !s.queueRuns k then .next s
    else match (k.program[r.pc]?).bind decodeNibex with
      | none => .next s
      | some i => match run i { s with nib := some q } with
        | .next s => .next { s with nib := none }
        | .fault e => .fault e
        | .refused e => .refused e

/-- A queue's next step can proceed: it changes its queue. -/
def proceeds (run : Run) (s : State) (q : Nat) : Bool :=
  match nibexStep run q s with
  | .next s' => AMap.get s'.queues q != AMap.get s.queues q
  | _ => true

/-- The queue whose command a front end steps: the lowest deadline class, then the earliest deadline, 0 last, then the lowest
number (17 R385). -/
def frontPick (run : Run) (s : State) (die : Nat) : Option Nat :=
  let key (x : Nat × Queue) : List Nat :=
    let d := (x.2.running.map (·.deadline)).getD 0
    [x.2.dc, if d = 0 then 2 ^ 64 else d, x.1]
  let before (a b : List Nat) : Bool := ((a.zip b).find? fun (x, y) => x != y).all fun (x, y) => x < y
  ((s.queues.filter fun (q, k) => dieOfQueue q == die && k.running.isSome && proceeds run s q).foldl (fun best x =>
    match best with
    | none => some x
    | some b => if before (key b) (key x) then some b else some x) none).map (·.1)

/-! ### One action -/

/-- An action of the board manager, of its sensors, of power-on, or of the dump: what still happens in a part whose clocks are gated or that is
held in reset (01 R20, 19 R429). -/
def Action.outside : Action → Bool
  | .event i _ => [Instr.registerWrite, .setPointer, .privateRead, .entdaa, .powerLimitWrite, .eventFlagsClear, .moduleReset,
      .powerThrottleStep, .clockRaiseStep, .thermalThrottleStep, .thermalTrip, .powerOnBoot, .fatalDump].contains i
  | _ => false

/-- One action. -/
def act (run : Run) (a : Action) (s : State) : Host.Outcome State Fault Refusal :=
  if s.gated && !a.outside then .next s
  else match a with
    | .issue wid => issueWarp run wid s
    | .nibex q => nibexStep run q s
    | .mxeUnit cl n => .next (mxeUnit s cl n)
    | .mxeFetch cl n key => .next (mxeFetches s cl n key)
    | .settle wid => .next (settle s wid)
    | .takeover => .next s.takeoverStep
    | .peer k => match s.deferred[k]? with
      | some (.event i args) => match run i { s with ev := args, deferred := s.deferred.take k } with
        | .next t => .next { t with deferred := t.deferred ++ s.deferred.drop (k + 1) }
        | r => r
      | _ => .next s
    | .event i args => run i { s with ev := args }

/-! ### What the units may do -/

/-- An event at a unit. -/
def at_ (i : Instr) (unit item third : Nat) : Action := .event i { unit := unit, item := item, third := third }

/-- Resident warps: a header to enter, a drain to end, an update to count down, a save, a clock to advance. -/
def warpActions (s : State) : List Action :=
  s.warps.flatMap fun (wid, w) =>
    let arrived := ((w.lanes.filter fun x => x.live && x.stage == .arrived).map (·.hdr)).eraseDups
    (arrived.map fun h => Action.event .headerWaitPass { unit := wid, word := h })
    ++ (if w.draining then [at_ .warpDrainEnd wid 0 0] else [])
    ++ (if (s.teamOf w).any fun t => t.tbars.any fun (_, b) => b.told != b.phase then [at_ .teamBarrierRelease wid 0 0] else [])
    ++ (if w.sending.isSome then [.issue wid] else [])
    ++ (if w.owed.isEmpty then [] else [.settle wid])
    ++ if w.asked == .evict then [at_ .victimSave wid 0 0, at_ .evictionReleaseTimeout wid 0 0] else []

/-- Cores: a pick in each quarter, the sluice, rays, and copies renewed. -/
def coreActions (run : Run) (s : State) : List Action :=
  let here := (s.warps.map fun (wid, _) => coreOf wid).eraseDups
  let picks := here.flatMap fun c => (List.range 4).filterMap fun q => (quarterPick run s c q).map Action.issue
  picks ++ s.cores.flatMap fun (c, k) =>
    (if k.sluice.isEmpty && s.moving.isEmpty then [] else [at_ .sluiceAdmit c 0 0, at_ .sluiceRefill c 0 0])
    ++ (if k.slots.isEmpty then [] else [at_ .rayPop c 0 0])
    ++ (k.tvu.rays.flatMap fun (r, _) => [at_ .nodeVisit c r 0, at_ .fencePass c r 0, at_ .leafTest c r 0])
    ++ k.copies.flatMap fun (line, _) =>
      (s.warps.filter fun (wid, _) => coreOf wid == c).map fun (_, w) => at_ .leaseRenewal c line w.pts

/-- The unit of a copy-engine command that a free choice names among those still to do. -/
def Cmd.anyUnit (c : Cmd) (k : Nat) : Nat :=
  let n := (c.todo.map fun (a, b) => b - a).sum
  (c.todo.foldl (fun (found, left) (a, b) => match found with
    | some x => (some x, left)
    | none => if left < b - a then (some (a + left), left) else (none, left - (b - a))) (none, k % max n 1)).1.getD 0

/-- Clusters: the copy engine, the matrix engine, and gangs. -/
def clusterActions (s : State) : List Action :=
  let k := Config.pick (s.free + 1)
  (s.clusters.flatMap fun (cl, c) =>
    (c.cpe.flatMap fun (n, x) => [at_ .lineDataArrival cl n (x.anyUnit k), at_ .copyEngineComplete cl n 0])
    ++ (c.entries.flatMap fun (n, e) =>
      let next := e.missing
      [at_ .mxeEntryStart cl n 0, .mxeUnit cl n, .mxeFetch cl n ((next[k % max 1 next.length]?).getD 0),
       .mxeFetch cl n (k % (5 * 128 * 16 * 32)), at_ .mxeRetire cl n 0]))
  ++ s.gangs.flatMap fun (g, x) => [at_ .gangGrant x.cluster 0 0, at_ .tileReturn g 0 0]

/-- Dies: builders, walkers, waiting contributions, starvation, and the front end's step. -/
def dieActions (run : Run) (s : State) : List Action :=
  (List.range 2).flatMap fun d =>
    ((List.range 4).flatMap fun b =>
      let b := 4 * d + b
      if (s.builder b).queue.isEmpty then []
      else [at_ .builderCommandStart b 0 0, at_ .builderWritePhase b 0 0, at_ .builderComplete b 0 0])
    ++ ((s.die d).walks.zipIdx.map fun (_, i) => at_ .walkComplete d i 0)
    ++ (if s.slotWaits.isEmpty then [] else [at_ .slotWaitResume d 0 0])
    ++ (if s.waitingLaunches.isEmpty then [] else [at_ .dispatchStarvation d 0 0])
    ++ ((frontPick run s d).map Action.nibex).toList

/-- Queues: a slot to examine, a store of NDONE, a command past its steps. -/
def queueActions (s : State) : List Action :=
  s.queues.flatMap fun (q, k) =>
    (if k.notified && k.running.isNone then [at_ .feuSlotExamine q 0 0] else [])
    ++ (k.dones.map fun (n, _) => at_ .ndoneStore q n 0)
    ++ (if (k.running.map (·.spent)).getD false then [at_ .nxStepBudget q 0 0] else [])

/-- The dispatcher: banks loaded, teams placed, allotments cleared and freed, classes raised, evictions. -/
def launchActions (s : State) : List Action :=
  (s.waitingLaunches.flatMap fun (id, l) =>
    ((List.range 320).flatMap fun c => [at_ .dictionaryLoad c 0 id, at_ .dictionaryLoad c 1 id])
    ++ (if s.mayPlace id then
        ((s.placeable l 17).map fun cs => Action.event .teamPlacement { unit := id, nums := cs }).toList
      else [])
    ++ (if s.mayEvict id l then
        ((s.evictionCores l).map fun (_, cs) => Action.event .evictionRequest { unit := id, nums := cs }).toList
      else []))
  ++ (s.launches.map fun (id, _) => at_ .issueClassBoost id 0 0)
  ++ s.allots.flatMap fun (id, a) => if a.cleared then [at_ .allotmentFree id 0 0] else [at_ .allotmentClear id 0 0]

/-- The banks that returning warps need. -/
def returnActions (s : State) : List Action :=
  s.saved.flatMap fun (key, x) =>
    at_ .warpResume key 0 0 :: match x with
      | .warp w c _ _ => [at_ .dictionaryLoad c 0 w.launch, at_ .dictionaryLoad c 1 w.launch]
      | _ => []

/-- Memory: lines evicted from L2 and from the memory-side cache. -/
def memoryActions (s : State) : List Action :=
  (s.l2.map fun (l, _) => at_ .l2Evict l 0 0) ++ (s.msc.map fun (l, _) => at_ .mscEviction l 0 0)

/-- The supervisor: halt walks, requests it needs no choice for, lapsed claims, heartbeats and their lack, takeovers and the dump. -/
def supervisorActions (s : State) : List Action :=
  ((s.ctxs.filter fun (_, c) => c.state == .halting).map fun (c, _) => at_ .haltSaveComplete c 0 0)
  ++ (if s.mbx.state == .running then
      [at_ .reqUnmap 0 0 0, at_ .reqQueueDestroy 0 0 0, at_ .reqHalt 0 0 0, at_ .reqResume 0 0 0, at_ .reqAttest 0 0 0,
       at_ .reqDestroy 0 0 0]
    else [])
  ++ (if s.claimLapsed then [at_ .claimLapse 0 0 0] else [])
  ++ (if s.heartbeatDue then [at_ .heartbeat 0 0 0] else [])
  ++ (if s.heartbeatsMissed then [at_ .complexFailed s.sup.primary 1 0] else [])
  ++ (if s.sup.takeover != 0 || s.ctxs.any (fun (_, c) => c.state == .frozen) then [.takeover] else [])
  ++ if s.sup.fatal != 0 && !s.sup.heldInReset then [at_ .fatalDump 0 0 0] else []

/-- Everything that may happen next without the outside world. -/
def actions (run : Run) (s : State) : List Action :=
  warpActions s ++ coreActions run s ++ clusterActions s ++ dieActions run s ++ queueActions s ++ launchActions s
  ++ returnActions s ++ memoryActions s ++ supervisorActions s ++ (List.range s.deferred.length).map .peer

/-! ### Time and the step -/

/-- Time passes by amounts that nothing constrains: cycles of the common clock, with the clocks of the resident warps (13 R304), and
nanoseconds. -/
def State.tick (s : State) : State :=
  let n := Config.cyclesPass s.free
  let later (d : Die) : Die := { d with cycles := d.cycles + n }
  let t := { s with free := s.free + 1, dies := s.dies.map later }
  ({ t with warps := t.warps.map fun ((k, w) : Nat × Warp) => (k, w.resideTo (t.die (dieOf k)).cycles) }).passNs (Config.nanosPass s.free)

/-- A victim has waited for its counters as long as it may (18 R412). -/
def State.victimOverdue (s : State) (wid : Nat) (w : Warp) : Bool :=
  w.asked == .evict && w.askedAt + 100000 ≤ s.ns && !s.quiet wid w && s.evicts.any fun e => e.victims.contains wid

/-- What of a warp happens ahead of everything else: held lanes released, a victim whose time has run out, a header passed. -/
def State.urgentAt (s : State) (wid : Nat) (w : Warp) : Option Action :=
  match w.releasable, s.passable wid w with
  | some rc, _ => some (.event .joinRelease { unit := wid, word := rc })
  | none, some h => some (.event .headerWaitPass { unit := wid, word := h })
  | none, none => if s.victimOverdue wid w then some (at_ .evictionReleaseTimeout wid 0 0) else none

/-- What happens in the same cycle as what went before, ahead of everything else: the failure of a primary whose heartbeats are missing
(19 R416), the release of lanes held at a point that nothing is below any more (04 R84), and of a victim whose time has run out (18
R412); and, so that a group at a header that it can pass is ready when its quarter next picks, the header's counters passed and
the bundle admitted that fits (04 R77). -/
def State.urgent (s : State) : Option Action :=
  if s.heartbeatsMissed then some (at_ .complexFailed s.sup.primary 1 0)
  else match s.warps.findSome? fun (wid, w) => s.urgentAt wid w with
    | some a => some a
    | none => s.cores.findSome? fun (c, k) =>
      if !k.sluice.isEmpty && s.admissible c then some (at_ .sluiceAdmit c 0 0) else none

/-- A step: the head of the agenda, which says what the outside world does; with nothing there, a release that is due, or else time
passes and one of the things that may happen next happens, once the queue operations that find their queues unable to
serve them have taken their places (09 R203). -/
def stepWith (run : Run) (s : State) : Host.Outcome State Fault Refusal :=
  match s.agenda with
  | a :: rest => act run a { s with agenda := rest }
  | [] =>
    match (if s.gated then none else s.urgent) with
    | some a => act run a s
    | none =>
      let s := (s.queuesFound run).tick
      let (k, s) := s.choose 64
      let s := { s with burst := k }
      let (a, s) := s.chooseFrom (actions run s)
      match a with
      | none => .next s
      | some a => act run a s

end Sys2Proof.Machine
end

