-- ==== Sys2Proof/Safety.lean ====
section
/-! DEFINITION. The terms the claims use: when an instruction of a bundle goes through, what it then does, and the invariants of the machine. -/
namespace Sys2Proof.Safety
open Sys2Proof.Machine

/-! ### Irlek instructions -/

/-- The fields of a word with no operand, unguarded (guards p15 and p15), with no set-counter. -/
def plainFields : Fields where
  variant := 0
  ty := .noType
  rounding := 0
  op0 := .absent
  op1 := .absent
  op2 := .absent
  op3 := .absent
  op4 := .absent
  guardA := ⟨false, 15⟩
  guardB := ⟨false, 15⟩
  combineOr := false
  hint := 0
  counter := 15
  yield := false
  sat := false
  mods := 0

/-- Nothing stands before an instruction's own effect: State names a bundle of a warp in a slot, the word passes its decode
checks (03 R60), no bundle of the warp is at its accesses still (12 R275), the level suffices (18 R401), no register of it
awaits an engine (04 R78), its PC is not held by a fault (14 R325), its queue operands are bound the right way (09 R202), strict reads are of mapped registers
(05 R109), some lane is active (05 R119), and its counter has room (10 R225). -/
abbrev Ready (e : Enc) (f : Fields) (level : Bool) (s : State) (c : Cur) (w : Warp) : Prop :=
  s.cur = some c ∧ s.warp? c.wid = some w ∧ w.sending = none ∧ Enc.legal w.width w.nw e f = true
  ∧ (level = true → w.handler = true)
  ∧ w.interlocked e f = false ∧ w.faultPcs.contains c.pc = false ∧ s.ringBinding c.wid w e f = none
  ∧ (w.strict = true → (vectorSources e f).all w.mapped = true) ∧ activeLanes w f c.lanes ≠ 0
  ∧ (counterOf f).all (fun k => w.counter k != 63) = true

/-- What an instruction does with its active lanes: the condition on operands and state it is described for, the state it
leaves but for its writes, its writes, and where the lanes go. -/
structure Effect where
  cond : Iss → State → Bool := fun _ _ => true
  st : Iss → State → State := fun _ s => s
  ws : Iss → State → List Wr := fun _ _ => []
  mv : Iss → State → Warp → Warp := fun i _ w => w.advance i.c i.c.lanes

/-- An instruction, its encoding row, when it needs handler level, and what it does. -/
structure Row where
  ins : Fields → Instr
  enc : Enc
  level : Fields → Bool := fun _ => false
  eff : Effect

/-- The reservation of the bundle covers what the writes allocate (05 R111). -/
abbrev Covered (s : State) (e : Enc) (f : Fields) (c : Cur) (ws : List Wr) : Prop :=
  (s.warp? c.wid).all (fun w => (w.marked e f c).covers c ws) = true

/-- A bundle of the state `s` that an instruction with fields `f` goes through for: it is ready, its pops and pushes are ready
and the pops made and what it reads delivered, which leaves `s1` and gives the instruction what it works on, `i`; what the instruction does is described
for these, and the reservation covers its writes. `push` is the allotment and line its pushes go to. -/
structure Row.Runs (r : Row) (f : Fields) (s s1 : State) (c : Cur) (push : Option (Nat × Nat)) (i : Iss) : Prop where
  ready : ∃ w, Ready r.enc f (r.level f) s c w ∧ ∃ pop bs popped,
    s.ringReady c.wid w c.pc r.enc f (activeLanes w f c.lanes).count = .ready pop push bs
    ∧ s.deliver c.wid r.enc f (activeLanes w f c.lanes) pop bs = (s1, popped)
    ∧ i = c.iss (s1.popped c.wid w) r.enc f (activeLanes w f c.lanes) popped
  described : r.eff.cond i s1 = true
  covered : Covered (r.eff.st i s1) r.enc f c (r.eff.ws i s1)

/-- The state after: what the instruction leaves, with its last-use marks and writes made, its lanes moved, and its pushes at
their queue. -/
def Row.after (r : Row) (f : Fields) (s1 : State) (c : Cur) (push : Option (Nat × Nat)) (i : Iss) : State :=
  (r.eff.st i s1).finish r.enc f c push (r.eff.ws i s1) (r.eff.mv i s1)

/-- The instruction runs to its end: exec answers the next state in which all it does is done. -/
def Row.Does (r : Row) : Prop :=
  ∀ (f : Fields) (s s1 : State) (c : Cur) (push : Option (Nat × Nat)) (i : Iss),
    r.Runs f s s1 c push i → exec (r.ins f) s = .next (r.after f s1 c push i)

/-- Whether the bundle that State names runs an instruction with these fields to its end. -/
def Row.meets (r : Row) (f : Fields) (s : State) : Bool :=
  match s.cur with
  | none => false
  | some c =>
    match s.warp? c.wid with
    | none => false
    | some w =>
      decide (Ready r.enc f (r.level f) s c w) &&
      match s.ringReady c.wid w c.pc r.enc f (activeLanes w f c.lanes).count with
      | .ready pop _ bs =>
        let t := s.deliver c.wid r.enc f (activeLanes w f c.lanes) pop bs
        let i := c.iss (t.1.popped c.wid w) r.enc f (activeLanes w f c.lanes) t.2
        r.eff.cond i t.1 && decide (Covered (r.eff.st i t.1) r.enc f c (r.eff.ws i t.1))
      | _ => false

/-- An instruction that runs at either level. -/
def row (ins : Fields → Instr) (enc : Enc) (eff : Effect) : Row := ⟨ins, enc, fun _ => false, eff⟩

/-- Every row of a family does what it says. -/
def AllDo (rows : List Row) : Prop := ∀ r ∈ rows, r.Does

/-- Writes alone. -/
def writes (ws : Iss → List Wr) : Effect where
  ws i _ := ws i

/-- A change of the state and writes. -/
def leaving (st : Iss → State → State) (ws : Iss → List Wr) : Effect where
  st := st
  ws i _ := ws i

/-- What is described only where it is some: the state and the writes. -/
def when (run : Iss → State → Option (State × List Wr)) : Effect where
  cond i s := (run i s).isSome
  st i s := ((run i s).map (·.1)).getD s
  ws i s := ((run i s).map (·.2)).getD []

/-- One value a lane, written to operand 0. -/
def perLane (val : Iss → Nat → Word) : Effect where
  ws i _ := i.dest (val i)

/-- One bit a lane, written to the predicate of operand 0. -/
def perBit (bit : Iss → Nat → Bool) : Effect where
  ws i _ := i.bits 0 (bit i)

/-- The lanes an instruction computes: the active ones, or with a w destination the lowest of them (06 R132). -/
def computed (i : Iss) : List Nat :=
  match i.f.op0 with
  | .w _ => [i.low]
  | _ => i.act.lanes

/-- Every flag of a list. -/
def flagsOf (fs : List FFlags) : FFlags := fs.foldl (fun a b => a ||| b) 0#5

/-- Sticky flags raised in the warp's mode register (02 R33). -/
def accrued (i : Iss) (s : State) (fl : FFlags) : State := s.modWarp i.wid fun w => w.accrue fl

/-- One value a lane with the flags of every lane computed. -/
def perLaneFlags (val : Iss → Nat → Word × FFlags) : Effect where
  st i s := accrued i s (flagsOf ((computed i).map fun l => (val i l).2))
  ws i _ := i.dest fun l => (val i l).1

/-- The active lanes' bits, written to the predicate of operand 0. -/
def predTo (i : Iss) (o : Operand) (bit : Nat → Bool) : List Wr :=
  match o with
  | .p n => [.p n.toNat i.act (Mask.of 64 fun l => i.act.has l && bit l)]
  | _ => []

end Sys2Proof.Safety
end

