-- ==== Sys2Proof/Safety/Events.lean ====
section
/-! DEFINITION. What the events of the units do: barriers, matrix engine, scratchpad engines, sluice, dispatch, queues, tracing, builders, memory and translation (05, 08-17). -/
namespace Sys2Proof.Safety
open Sys2Proof.Machine

/-- An event and what it does where it is described: the machine after it. -/
structure EventRow where
  ins : Instr
  run : State → Option State

/-- The event happens as described. -/
def EventRow.Does (r : EventRow) : Prop := ∀ s t : State, r.run s = some t → exec r.ins s = .next t

/-- Every event of a family does what it says. -/
def EventsDo (rows : List EventRow) : Prop := ∀ r ∈ rows, r.Does

/-- An event under a condition. -/
def whenever (ins : Instr) (cond : State → Bool) (st : State → State) : EventRow :=
  ⟨ins, fun s => if cond s then some (st s) else none⟩

/-! ### Team barriers and the matrix engine (10 R233, 11 R240-R252) -/

/-- Every phase of the team's barriers that has started is told to its warps. -/
def teamRelease (s : State) : Option State := do
  let w ← s.warp? s.ev.unit
  some (s.modTeam w.team fun t => { t with tbars := t.tbars.map fun x => (x.1, { x.2 with told := x.2.phase }) })

/-- The first gang of a cluster's tile queue, once the cycle of its rendezvous is over, takes its tiles: zero at a rendezvous, whose
waiting bundles it grants their status, or those it had before a save, and then waits on where all have arrived for its next. -/
def gangGrant (s : State) : Option State := do
  let (id, g) ← s.oldestGang s.ev.unit
  let n := if g.restore then g.count else g.latch.getD 0
  guard (n ≤ s.freeTiles s.ev.unit && s.turnPast (dieOfCluster s.ev.unit) g.turn && s.haltStepOf g.ctx < 5
    && (g.tiles.isNone || g.restore))
  some (s.modGang id fun x =>
    if x.restore then { x with restore := false, waiting := x.latch.isSome && s.allIn x x.arrived }
    else
      { x with
        tiles := some (List.replicate n []), waiting := false, released := false, latch := none
        arrived := [], waiters := [], granted := x.granted ++ x.waiters })

/-- A released gang without entries gives its tiles back, and its launch ends where it waits for nothing else. -/
def tileReturn (s : State) : Option State := do
  let g ← AMap.get s.gangs s.ev.unit
  guard (g.released && !g.restore && (s.gangEntries s.ev.unit g).isEmpty)
  some ((s.modGang s.ev.unit fun g => { g with tiles := none, released := false }).finishLaunch g.launch)

/-- A ready entry starts where no ready one of its kind stands before it and none of its kind runs with data at hand; one that runs
without gives its server up (11 R249). -/
def entryStart (s : State) : Option State := do
  let c := s.cluster s.ev.unit
  let e ← AMap.get c.entries s.ev.item
  guard (s.entryReady s.ev.unit e)
  guard (c.entries.all fun x =>
    !(x.2.onArray == e.onArray && x.2.running && !x.2.faulted && s.dataAtHand s.ev.unit x.2))
  guard (c.entries.all fun x => !(x.2.onArray == e.onArray && s.entryReady s.ev.unit x.2 && s.entryBefore x.2 e))
  let stop (y : Entry) : Entry := { y with running := y.running && !(y.onArray == e.onArray && y.running) }
  some ((s.modCluster s.ev.unit fun c => { c with entries := c.entries.map fun x => (x.1, stop x.2) }).modEntry
    s.ev.unit s.ev.item fun e => { e with running := true })

/-- The result of an entry in its vector register at the lanes still live, where that is still mapped. -/
def entryResult (s : State) (e : Entry) (g : Gang) : State :=
  match e.result g with
  | some xs => s.modWarp e.wid fun w =>
      { (if w.mapped (regNum e.f.op0) then w.writeV (regNum e.f.op0) (xs.filter fun x => w.live.has x.1) else w) with
        awaitV := w.awaitV.erase (regNum e.f.op0) }
  | none => s

/-- An entry whose units are done writes its register, leaves, and is counted down; the writes of a warp that has left its slot count
in its launch. -/
def entryRetire (s : State) : Option State := do
  let e ← AMap.get (s.cluster s.ev.unit).entries s.ev.item
  let g ← AMap.get s.gangs e.gang
  guard (e.units ≤ e.unit && !e.faulted && !e.stopped && !g.restore && s.haltStepOf g.ctx ≤ 5)
  let t := ((entryResult s e g).modCluster s.ev.unit fun c => { c with entries := AMap.erase c.entries s.ev.item }).ownerDone
    (.warp e.wid e.counter) (ordOf e.f) e.times
  some (if e.wid = nobody then t.launchWork (some e.launch) e.times.domain else t)

def groupEvents : List EventRow :=
  [⟨.teamBarrierRelease, teamRelease⟩, ⟨.gangGrant, gangGrant⟩, ⟨.tileReturn, tileReturn⟩, ⟨.mxeEntryStart, entryStart⟩,
   ⟨.mxeRetire, entryRetire⟩]

/-! ### Blocks and the sluice (03 R42, 04 R84, 05 R112, R113) -/

/-- A bundle's request admitted, once a spill that a fault stopped has gone on, the releases pending at its header applied and the
victims that it needs spilled first. -/
def admitted (s : State) : Option State :=
  match (s.goOnSpill s.ev.unit).nextAtSluice s.ev.unit with
  | some (.bundle wid h d) =>
    let t := (s.goOnSpill s.ev.unit).modWarp wid fun w => w.applyPending h
    let t := spillUntil s.ev.unit (.bundle wid h d) (t.victims s.ev.unit wid) t
    if t.fits s.ev.unit (.bundle wid h d) then some ((t.dropRequest s.ev.unit (.bundle wid h d)).letIn wid h d) else none
  | _ => none

/-- A spilled warp's registers come back, the victims that it needs spilled first. -/
def refilled (s : State) : Option State :=
  match s.nextAtSluice s.ev.unit with
  | some (.refill wid) =>
    let t := spillUntil s.ev.unit (.refill wid) (s.victims s.ev.unit wid) s
    if t.fits s.ev.unit (.refill wid) then some (t.refill s.ev.unit wid) else none
  | _ => none

/-- The live lanes held at a point go on together once every live lane has come to it or stands beyond it. -/
def joined (s : State) : Option State := do
  let w ← s.warp? s.ev.unit
  guard (s.ev.unit < savedWid && w.lanes.all fun x => !x.live || (x.held && x.pc == s.ev.word)
    || s.ev.word.toNat ≤ x.pc.toNat)
  some (s.modWarp s.ev.unit fun w => { w with
    lanes := w.lanes.map fun x => if x.live && x.held && x.pc == s.ev.word then { x with held := false } else x })

def blockEvents : List EventRow :=
  [⟨.headerWaitPass, fun s => some (enterHeader s s.ev.unit s.ev.word)⟩, ⟨.sluiceAdmit, admitted⟩,
   ⟨.sluiceRefill, refilled⟩, ⟨.joinRelease, joined⟩]

/-! ### Dispatch (03 R53, 04 R72-R75, R93, 08 R178, R180, 17 R385, R386) -/

/-- A dictionary image read into a bank that takes it, which is the one held where a fault stopped the load. -/
def dictionaryRead (s : State) : Option State := do
  let l ← AMap.get s.launches s.ev.third
  guard (s.ctxRunning l.ctx && !s.bankReady s.ev.unit l && s.bankLoadable s.ev.unit s.ev.item l
    && (!s.loadHeld l || s.loadsHere s.ev.unit s.ev.item l))
  match s.readImage s.ev.unit l.ctx s.ev.third l.dictBase (20 * l.dictN) with
  | (t, .ok bs) =>
    let words := (List.range l.dictN).map fun j => BitVec.ofNat 160 (ofBytes ((bs.drop (20 * j)).take 20))
    some (t.modCore s.ev.unit fun c =>
      { c with banks := c.banks.set s.ev.item (some ⟨l.ctx, l.dictBase, l.dictN, words, true, false, t.stamp, l.serial⟩) })
  | _ => none

/-- The first waiting launch of the order is recorded as starving. -/
def starved (s : State) : Option State :=
  match s.waitingLaunches with
  | (id, l) :: _ =>
    if s.starves l && l.die == s.ev.unit then some (s.modDie l.die fun d => { d with starving := some id }) else none
  | [] => none

/-- A launch at its deadline less the boost window. -/
def boosted (s : State) : Option State := do
  let l ← AMap.get s.launches s.ev.unit
  guard (l.deadline ≠ 0 && l.deadline ≤ s.nsAt l.die + l.window)
  some (s.modLaunch s.ev.unit fun l => { l with boosted := true })

/-- A team goes on its cores: the order lets it, fewer cores would not do, and these have what its shares need. -/
def teamPlaced (s : State) : Option State := do
  let l ← AMap.get s.launches s.ev.unit
  let k := s.ev.nums.length
  let shares ← l.split k
  let idx ← s.teamIdx l k
  guard (1 ≤ k && k ≤ 16 && s.mayPlace s.ev.unit && !s.loadHeld l && (s.placeable l k).isNone
    && s.coresOk l shares s.ev.nums)
  some (s.placeTeam s.ev.unit l shares s.ev.nums idx)

/-- An allotment reads zero and lacks no line. -/
def allotmentZeroed (s : State) : Option State := do
  let a ← AMap.get s.allots s.ev.unit
  guard (!a.cleared)
  some (s.modAllot s.ev.unit fun a => { a with mem := [], lines := [], cleared := true })

/-- A drained warp gives up the task it holds, or leaves its slot once its counters read 0 and nothing is owed. -/
def drained (s : State) : Option State := do
  let w ← s.warp? s.ev.unit
  guard (w.draining && !w.faultPcs.contains 0 && s.haltStepOf w.ctx ≤ 6)
  if w.task.valid then
    match s.rootUpdate s.ev.unit w.ctx w.task.root (rootReturn w.task.tw) with
    | .done t _ => some (t.setTask s.ev.unit { w.task with valid := false })
    | _ => none
  else
    guard (w.idle && w.owed.isEmpty)
    some (s.leaveSlot s.ev.unit w)

/-- An allotment that nothing uses is written back, its trace slots end, and it goes. -/
def allotmentFreed (s : State) : Option State := do
  let id := s.ev.unit
  let a ← AMap.get s.allots id
  guard ((s.warpsOn a).isEmpty && !s.allotBusy id a && !a.saved && a.maps.all fun x => a.readyToWriteBack x.1)
  let t := (s.unmapAll id).endSlots a.core id
  some (({ t with allots := AMap.erase t.allots id }).endTeam a.team a.launch)

def dispatchEvents : List EventRow :=
  [⟨.dictionaryLoad, dictionaryRead⟩, ⟨.dispatchStarvation, starved⟩, ⟨.issueClassBoost, boosted⟩,
   ⟨.teamPlacement, teamPlaced⟩, ⟨.allotmentClear, allotmentZeroed⟩, ⟨.warpDrainEnd, drained⟩,
   ⟨.allotmentFree, allotmentFreed⟩]

/-! ### Queues (17 R377-R383) -/

/-- A stopped queue goes on at the slot that the supervisor gives. -/
def restarted (s : State) : Option State := do
  let k ← AMap.get s.queues s.ev.unit
  guard k.stopped
  some (s.modQueue s.ev.unit fun k =>
    { k with rd := s.ev.item % 2 ^ 64, status := 0, stopped := false, notified := true })

/-- A store of NDONE is made once its command's work is done. -/
def doneStored (s : State) : Option State := do
  let k ← AMap.get s.queues s.ev.unit
  let d ← AMap.get k.dones s.ev.item
  guard (!d.faulted && (AMap.get k.work d.serial).isNone && s.ctxRuns k.ctx)
  match s.feStore (dieOfQueue s.ev.unit) k.ctx k.workTime d.addr d.value with
  | (t, .ok _) => some (t.modQueue s.ev.unit fun k => { k with dones := AMap.erase k.dones s.ev.item })
  | _ => none

/-- A command past its steps stops its queue with status 2. -/
def overspent (s : State) : Option State := do
  let r ← (AMap.get s.queues s.ev.unit).bind (·.running)
  guard r.spent
  some (s.stopQueue s.ev.unit 2)

def queueEvents : List EventRow :=
  [⟨.feuSlotExamine, fun s => some (s.examineSlot s.ev.unit)⟩, ⟨.queueRestart, restarted⟩,
   ⟨.ticket, fun s => some (s.readTicket s.peerId s.ev.item)⟩,
   ⟨.notifyRecord, fun s => some (s.takeNotify s.peerId s.ev.item s.ev.bytes)⟩,
   ⟨.ndoneStore, doneStored⟩, ⟨.nxStepBudget, overspent⟩]

/-! ### Copy engine, tracing and builders (08 R181, R186, 15 R334-R354, 16 R360-R371) -/

/-- A unit of a command that is still to do is moved. -/
def unitMoved (s : State) : Option State := do
  let c ← AMap.get (s.cluster s.ev.unit).cpe s.ev.item
  guard (inPieces c.todo s.ev.third && s.unitRuns c s.ev.third)
  some (cpeUnit s s.ev.unit s.ev.item s.ev.third c)

/-- A command completes. -/
def commandEnds (s : State) : Option State := do
  let c ← s.cmdAt
  some (cpeComplete s s.ev.unit s.ev.item c)

/-- A ray takes a free place: one answered that waits, then the first on the resume list, then a ray queue's oldest. -/
def rayPopped (s : State) : Option State := do
  let core := s.ev.unit
  let u := (s.core core).tvu
  guard (u.busy < 64)
  match u.rays.find? fun x => !x.2.placed with
  | some (key, _) => some (s.modRay core key fun r => { r with placed := true })
  | none =>
    match u.resume.find? fun x => ((AMap.get (s.core core).slots x.1).map s.slotRuns).getD false with
    | some (slot, i) => do
      let t ← AMap.get ((s.modTvu core fun u => { u with resume := u.resume.erase (slot, i) }).core core).slots slot
      some ((s.modTvu core fun u => { u with resume := u.resume.erase (slot, i) }).enterRay core slot t i true)
    | none => some (popRayQueue s core ((List.range 8).map fun j => (u.lastSlot + 1 + j) % 8))

/-- A ray reads a quadword of its header, or visits its node. -/
def nodeVisited (s : State) : Option State := do
  let (r, t) ← s.rayAt
  match r.at_ with
  | .fetch got => some (readHeader s s.ev.unit s.ev.item t r got)
  | .node index depth => some (visitNode s s.ev.unit s.ev.item t r index depth)
  | _ => none

/-- A ray at a fence reads its entry, a copy's or the home's, and goes to the child where the entry is the generation or
more. -/
def fencePassed (s : State) : Option State := do
  let (r, t) ← s.rayAt
  match r.at_ with
  | .fence leaf target id depth =>
    let (k, s) := s.choose 2
    some (rayRead s s.ev.unit s.ev.item r (r.fences + BitVec.ofNat 64 (8 * id)) 8 (if k = 0 then 3 else 0) fun t' r' num =>
      if num 0 8 < t.gen then t'.modRay s.ev.unit s.ev.item fun x => { x with time := r'.time }
      else t'.modRay s.ev.unit s.ev.item fun _ => r'.toChild leaf target 0 depth (t'.recNum t r'.index 0x93 1))
  | _ => none

/-- The units of a cluster whose first bytes have been read, and its triangles: one unit, and none, of a format that is not known. -/
def leafSize (data : List Byte) : Nat × Nat :=
  let v := ((data[5]?).getD 0).toNat
  let n := clusterTris ((data[4]?).getD 0).toNat v
  (if n = 0 then 1 else ceilDiv (16 + 12 * v + 3 * n) 128, n)

/-- A ray reads the next unit of its leaf, or, with all of them read, tests the next pair of triangles, or leaves the leaf after
the last. -/
def leafTested (s : State) : Option State := do
  let (r, t) ← s.rayAt
  match r.at_ with
  | .leaf addr tri data =>
    let (units, n) := leafSize data
    some (if data.length < 128 * units then
        rayRead s s.ev.unit s.ev.item r (addr + BitVec.ofNat 64 data.length) 128 0 fun t r num =>
          t.modRay s.ev.unit s.ev.item fun _ =>
            { r with at_ := .leaf addr tri (data ++ (List.range 128).map fun j => BitVec.ofNat 8 (num j 1)) }
      else if n ≤ tri then nextPending s s.ev.unit s.ev.item t r
      else testPair s s.ev.unit s.ev.item t r addr tri n data)
  | _ => none

/-- A builder's planning in one step, of a whole command or of a side of a split one: its reads begin after those of earlier steps. -/
def planning (s : State) (c : BCmd) : Except BErr (Plan × Option BLaid) × BRun :=
  ((planStep ⟨c.ctx, s.ev.unit, c.old⟩ (s.laidOf c.id) c).run).run
    ⟨s, c.time, c.reads, [], if s.burst = 0 then 2 ^ 64 else s.burst, c.area⟩

/-- A command whose state and entries have been written to its space in the engine save region begins its writes (18 R396). -/
def planEnters (s : State) (c : BCmd) (entries : List Byte) : Option State :=
  let at_ := 256 + 16 * ((c.side.map (·.before)).getD 0)
  let pieces := if c.area.isNone then [] else c.statePieces ++ if entries.isEmpty then [] else [(at_, entries)]
  match s.sendOut [tlbBuilder s.ev.unit] c.ctx 3 c.id (s.areaBase c) pieces with
  | (t, none) => some (t.beginBuild s.ev.unit c)
  | (_, some _) => none

/-- A builder's command is checked and planned: one to be split becomes its two sides, and any other begins with its status, 1 or the
one that its checks give, and its need (16 R360, R366). -/
def buildStarted (s : State) : Option State := do
  let c ← s.buildAt s.ev.unit
  guard (!c.started && (c.side.bind (·.laid)).isNone)
  let r := planning s c
  let c := c.planned r.2
  let t := r.2.s.modBuild s.ev.unit c.id fun _ => c
  let failed (code need : Nat) : Option BLaid := c.half.map fun _ => ⟨0, 0, (0, 0, 0), (0, 0, 0), some (code, need)⟩
  match r.1 with
  | .ok (plan, laid) => match plan.sides with
    | some x => some (t.splitBuild s.ev.unit c x)
    | none => planEnters t (c.begun plan laid (1 + plan.need * 2 ^ 32)) plan.entries
  | .error (.status code need) =>
    planEnters t (c.begun { writes := [], need := 0 } (failed code need) (code + need * 2 ^ 32)) []
  | .error _ => none

/-- The next write of a command takes its place, in its turn, and a cluster that it writes is named by its key from then on. -/
def buildWritten (s : State) : Option State := do
  let b := s.ev.unit
  let c ← s.buildAt b
  guard (c.started && s.mayWrite c)
  let x ← c.plan.head?
  match s.engineTranslate [tlbBuilder b] c.ctx x.addr .write with
  | (_, .error _) => none
  | (t, .ok pa) => do
    guard (!t.absentAt pa (c.bytesOf x).length)
    let r := t.engineWrite c.time pa (c.bytesOf x) 0
    some ((r.1.modBuild b c.id fun c' =>
      { c' with
        plan := c.plan.tail, own := c'.own - 1, time := max c'.time r.2
        times := r.1.addTime c.times c.die pa r.2 }).named c x)

/-- A builder's command leaves with its writes made: its status register, its counter, its launch's work. One side of a split
command leaves its times to the other. -/
def buildEnded (s : State) : Option State := do
  let c ← s.buildAt s.ev.unit
  guard (c.started && c.plan.isEmpty)
  let t := s.modBuilder s.ev.unit fun x => { x with queue := x.queue.filter (·.id != c.id) }
  match c.half with
  | some id => some (t.modBuildId id fun l => { l with time := max l.time c.time, times := l.times.max_ c.times })
  | none =>
    let t := match c.statusReg with
      | some n => t.laterW c.owner n c.status
      | none => t
    some ((t.builtDone c).launchWork c.launch c.times.domain)

def engineEvents : List EventRow :=
  [⟨.lineDataArrival, unitMoved⟩, ⟨.copyEngineComplete, commandEnds⟩, ⟨.rayPop, rayPopped⟩, ⟨.nodeVisit, nodeVisited⟩,
   ⟨.fencePass, fencePassed⟩, ⟨.leafTest, leafTested⟩, ⟨.builderCommandStart, buildStarted⟩,
   ⟨.builderWritePhase, buildWritten⟩, ⟨.builderComplete, buildEnded⟩]

/-! ### Memory (12 R271, R285-R288, 13 R302-R305) -/

/-- A contribution of a die that waits, placed: where its line is present and its slot has room. -/
def placedNow (s : State) (x : SlotWait) : Option (SlotWait × State × Nat) := do
  guard (homeDie x.pa == s.ev.unit && !s.absentAt x.pa 2)
  let r ← s.contribute (coreOf x.wid) x.time x.ctx x.launch x.pa x.fmt x.bits x.hint.toNat
  some (x, r.1, r.2)

/-- The oldest contribution of a die that finds room is placed; the last of its instruction ends it, once all its accesses have been
made. -/
def contributionPlaced (s : State) : Option State := do
  let (x, t, time) ← s.slotWaits.findSome? (placedNow s)
  let t := ({ t with slotWaits := t.slotWaits.erase x } : State).raisePts x.wid time
  let more := t.slotWaits.any (fun y => y.stamp == x.stamp && y.wid == x.wid)
    || ((t.warp? x.wid).bind fun w => w.sending.map (·.stamp)) == some x.stamp
  some (if more then t
    else (t.modWarp x.wid fun w => { w with owed := w.owed ++ [(x.counter.getD 15, x.stamp)] }).launchWork (some x.launch) time)

/-- A line of memory that L2 does not hold is filled, both its sectors. -/
def lineFilled (s : State) : Option State := do
  guard (s.inMemory (s.ev.unit * 256) && (AMap.get s.l2 s.ev.unit).isNone)
  some ((s.fillLine (s.ev.unit * 256) 0).fillLine (s.ev.unit * 256 + 128) 0)

/-- A sector of a renewed copy: kept where the copy is of the home's version, read again where not. -/
def renewedSector (s : State) (fresh : Bool) (old : Option (List Byte)) (a : Nat) : Option (List Byte) :=
  if fresh then old else old.map fun _ => s.sector a

/-- A copy's lease ends 10 past the asker's clock or later, its version the home's. -/
def renewed (s : State) : Option State := do
  let c ← AMap.get (s.core s.ev.unit).copies s.ev.item
  let pa := s.ev.item * 256
  let t := (s.fillLine pa 0).fillLine (pa + 128) 0
  let wts := (t.lineTimes pa).1
  let rts := max (t.lineTimes pa).2 (max s.ev.third wts + lease)
  let c' : Copy :=
    { c with
      wts := wts, rts := rts, lo := renewedSector t (c.wts == wts) c.lo pa
      hi := renewedSector t (c.wts == wts) c.hi (pa + 128) }
  some (((t.setTimes pa wts rts).checkTime rts).modCore s.ev.unit fun k =>
    { k with copies := AMap.set k.copies s.ev.item c' })

/-- After 64 cycles a resident warp's clock rises by one. -/
def clockRises (s : State) : Option State := do
  let w ← s.warp? s.ev.unit
  guard (w.ptsSince + 64 ≤ (s.die (dieOf s.ev.unit)).cycles)
  some (s.setWarp s.ev.unit { w with pts := w.pts + 1, ptsSince := w.ptsSince + 64 })

/-- Every context that maps a page of an address halts, and the supervisor is told once. -/
def mappersHalt (s : State) (pa : Nat) : State :=
  (s.mappers pa).foldl (fun t c => t.haltCtx c .memUncorrect (BitVec.ofNat 64 (Config.uncorrectInfo pa 0)) none)
    (s.notice (.uncorrectable pa 0))

/-- A dirty sector of L2 (`item` 1) or of the memory-side cache that cannot be written back is lost: the levels behind keep what they
had, and its contexts halt. A fill with an error (`item` 0) is dropped, and the supervisor told. -/
def sectorLost (s : State) : Option State := do
  let pa := s.ev.unit
  if s.ev.item = 0 then some (s.notice (.dropped pa))
  else if s.ev.item = 1 then
    let l ← AMap.get s.l2 (lineOf pa)
    guard (l.half pa).dirty
    some (mappersHalt (s.discardL2 pa) pa)
  else
    let m ← AMap.get s.msc (lineOf pa)
    guard (m.half pa).dirty
    some (mappersHalt (s.discardMsc pa) pa)

/-- A peer, if there is one, is sent an error completion without data. -/
def peerTold : Option Nat → State → State
  | some p, t => t.post ⟨p, 1, []⟩
  | none, t => t

def memoryEvents : List EventRow :=
  [⟨.slotWaitResume, contributionPlaced⟩, ⟨.l2Evict, fun s => some (s.evictL2 s.ev.unit)⟩, ⟨.l2Fill, lineFilled⟩,
   ⟨.mscEviction, fun s => some (s.evictMsc s.ev.unit)⟩, ⟨.leaseRenewal, renewed⟩, ⟨.ptsAdvance, clockRises⟩,
   ⟨.correctedError, fun s => some (s.modDie s.ev.unit fun d => { d with corrected := d.corrected + 1 })⟩,
   ⟨.memUncorrect, fun s => some (peerTold s.ev.nums[1]? ((s.notice (.uncorrectable s.ev.item s.ev.third)).haltCtx s.ev.unit .memUncorrect
     (BitVec.ofNat 64 (Config.uncorrectInfo s.ev.item s.ev.third)) ((s.ev.nums.head?.bind s.warp?).map (·.saveIdx))))⟩,
   ⟨.unconsumedError, sectorLost⟩]

/-! ### Translation (14 R321-R325) -/

/-- A miss joins its die's walks: the one for its page, whichever TLBs wait for it, or a new one, with a walker of its own while one
of the 128 is free, and in the queue of 1,024 otherwise. -/
def walkAsked (s : State) : Option State := do
  let ws := (s.die s.ev.unit).walks
  let va := s.ev.word &&& ~~~0xFFF#64
  let busy := decide ((ws.filter (·.busy)).length < 128)
  let same (x : Walk) : Bool := x.ctx == s.ev.third && x.va == va
  let share (x : Walk) : Walk := if same x then { x with tlbs := (x.tlbs ++ [s.ev.item]).eraseDups } else x
  if ws.any same then
    some (s.modDie s.ev.unit fun d => { d with walks := d.walks.map share })
  else
    guard (busy || (ws.filter fun x => !x.busy).length < 1024)
    some (s.modDie s.ev.unit fun d => { d with walks := d.walks ++ [⟨[s.ev.item], s.ev.third, va, busy⟩] })

/-- A walk that ends gives its walker to the first that waits, and its entry to the TLBs that asked. -/
def walkEnded (s : State) : Option State := do
  let w ← (s.die s.ev.unit).walks[s.ev.item]?
  guard w.busy
  let t := s.modDie s.ev.unit fun d => { d with walks := startWalk (d.walks.eraseIdx s.ev.item) }
  some (match t.walk w.ctx w.va with
    | .ok e => if canonical w.va then w.tlbs.foldl (fun t k => t.fillTlb e k) t else t
    | .error _ => t)

/-- A fault answered with replay: its record goes and its work goes on, or the answer waits for the context's resume. -/
def replayed (s : State) : Option State := do
  let r ← AMap.get (s.die s.ev.unit).faults s.ev.item
  some (if s.savedCtx r.ctx then
      s.modDie s.ev.unit fun d => { d with faults := AMap.set d.faults s.ev.item { r with answered := some true } }
    else (s.takeFault s.ev.unit s.ev.item).release r.held)

/-- A fault answered with fail: the context halts with PAGE_FAULT and the record's address, which alone is recorded where it
has halted for another cause. -/
def failed (s : State) : Option State := do
  let r ← AMap.get (s.die s.ev.unit).faults s.ev.item
  let t := s.modDie s.ev.unit fun d => { d with faults := AMap.set d.faults s.ev.item { r with answered := some false } }
  let c ← AMap.get t.ctxs r.ctx
  some (if c.hcause = 0 then t.haltCtx r.ctx .pageFault (faultAddr s.ev.unit s.ev.item) (t.heldWarp r.held)
    else t.modCtx r.ctx fun c => { c with hinfo := faultAddr s.ev.unit s.ev.item })

def translationEvents : List EventRow :=
  [⟨.tlbMissWalk, walkAsked⟩, ⟨.walkComplete, walkEnded⟩, ⟨.faultReplay, replayed⟩, ⟨.faultFail, failed⟩]

end Sys2Proof.Safety
end

