-- ==== Sys2Proof/Safety/Outside.lean ====
section
/-! DEFINITION. What the events of contexts, peers, the supervisor, and the board do (01, 13, 17-19). -/
namespace Sys2Proof.Safety
open Sys2Proof.Machine

/-! ### Contexts and evictions (18 R394-R413) -/

/-- A stopped warp goes on: a saved one at its return, a resident one with its lanes at the PCs that its control part gives, and all
else as it has it. -/
def continued (s : State) : Option State := do
  let wid := s.ev.item
  let w ← s.anyWarp wid
  guard (w.stop && !s.heldBy (.control wid) && !s.heldBy (.reply wid) && (s.moveOf 6 wid).isNone
    && (s.die s.ev.unit).traps.any fun t => t.wid == wid)
  if savedWid ≤ wid then some ((s.takeTrapRec s.ev.unit wid).modWarp wid fun w => { w with stop := false })
  else match s.takeIn [tlbCluster (clusterOf wid)] w.ctx 7 wid (s.saveBase w) [(controlOff w.width, 0x800)] with
    | (_, .error _) => none
    | (t, .ok bs) =>
      let back := w.restoreLanes fun off n => readsOf bs (off - controlOff w.width) n
      match (((t.dropMove 7 wid).takeTrapRec s.ev.unit wid).setWarp wid { back with stop := false }).moveLanes wid w with
      | (_, some _) => none
      | (t, none) => some t

/-- A stopped warp's context halts with the trap's own cause; the warp stays stopped. -/
def haltedByTrap (s : State) : Option State := do
  let w ← s.anyWarp s.ev.item
  let c ← causeOf w.tcause.toNat
  guard (w.stop && (s.die s.ev.unit).traps.any fun t => t.wid == s.ev.item)
  some ((s.takeTrapRec s.ev.unit s.ev.item).haltCtx w.ctx c w.tinfo (some w.saveIdx))

/-- What must have ended before the halt walk leaves a step: the bundles under way, the commands' units, the bundles of the gangs'
warps, the rows of AST, and the accesses not yet placed and the launches that have exited (18 R407, R414). -/
def haltStepOver (s : State) (ctx : Nat) : Nat → Bool
  | 2 => s.bundlesEnd ctx false
  | 3 => s.cmdsAtBoundary ctx
  | 4 => s.bundlesEnd ctx true
  | 5 => s.rowsEnd ctx
  | 6 => s.accessesEnd ctx && s.exitsEnd ctx
  | _ => true

/-- The halt walk one step on, once what it waits for has ended: its third step stops the rays, its sixth settles what is owed, and
the seventh saves one thing after another. -/
def walkedOn (s : State) : Option State := do
  let ctx := s.ev.unit
  let c ← AMap.get s.ctxs ctx
  guard (c.state == .halting && haltStepOver s ctx c.haltStep)
  if 7 ≤ c.haltStep then some (s.saveNext ctx)
  else
    let t := if c.haltStep = 3 then s.stopCtxRays ctx else if c.haltStep = 6 then s.settleCtx ctx else s
    some (t.modCtx ctx fun c => { c with haltStep := c.haltStep + 1 })

/-- An eviction request for a waiting team names its victims on the cores it asks for. -/
def evictionAsked (s : State) : Option State := do
  let l ← AMap.get s.launches s.ev.unit
  guard (s.mayEvict s.ev.unit l)
  let (shares, cores) ← s.evictionCores l
  guard (cores = s.ev.nums)
  let vs ← s.chooseAll l (cores.zip shares) [] []
  let e : Evict := { team := s.ev.unit, cores := cores, victims := vs, released := [], since := s.ns }
  let rest := s.evicts.filter fun x => x.team != s.ev.unit
  some (({ s with evicts := rest ++ [e] }).askEvict vs)

/-- The allotment of a team's last warp on its core is used by a command, or a save of it waits. -/
def allotInUse (s : State) (wid : Nat) (w : Warp) : Bool :=
  (s.lastOfTeam wid w).any fun id => s.heldBy (.save 2 id)
    || (AMap.get s.allots id).any fun a => !a.saved && (s.allotBusy id a
      || ((s.moveOf 2 id).isNone && !(a.maps.all fun x => a.readyToWriteBack x.1)))

/-- The tiles of a gang's last warp are saved. -/
def gangSaved (s : State) (wid : Nat) (w : Warp) : State × Bool :=
  match s.lastOfGang wid w with
  | some g => s.saveGang g
  | none => (s, true)

/-- The allotment of a team's last warp on the core is saved. -/
def allotSaved (s : State) (wid : Nat) (w : Warp) : State × Bool :=
  match s.lastOfTeam wid w with
  | some id => s.saveAllot id
  | none => (s, true)

/-- A quiet victim is saved, after its gang's tiles and its team's allotment where it is the last. -/
def victimSaved (s : State) : Option State := do
  let wid := s.ev.unit
  let w ← s.warp? wid
  guard (w.asked == .evict && s.quiet wid w && !w.draining && !allotInUse s wid w && !s.heldBy (.save 0 wid)
    && (s.lastOfGang wid w).all fun g => !s.heldBy (.save 1 g))
  guard (gangSaved s wid w).2
  let t := (gangSaved s wid w).1
  guard (allotSaved t wid w).2
  some ((allotSaved t wid w).1.saveWarp wid).1

/-- Warps no longer asked to stop. -/
def unasked (s : State) (vs : List Nat) : State := vs.foldl (fun s v => s.modWarp v fun w => { w with asked := .none }) s

/-- A victim not quiet after 100 µs is let go with its gang, and others are named in its place, or the request ends, and keeps its
place until a warp of its cores drains or is saved. -/
def victimReleased (s : State) : Option State := do
  let wid := s.ev.unit
  let w ← s.warp? wid
  let e ← s.evicts.find? fun e => e.victims.contains wid
  guard (w.asked == .evict && !s.quiet wid w && w.askedAt + 100000 ≤ s.ns)
  let out := (wid :: (s.warps.filter fun x => x.2.gang.isSome && x.2.gang == w.gang).map (·.1)).eraseDups
  let t := unasked s out
  let passed := (e.released ++ out).eraseDups
  let start := e.victims.filter fun v => !out.contains v && (t.warp? v).isSome
  let again := ((AMap.get t.launches e.team).bind fun l => l.evictShares.map fun sh => (l, sh)).bind fun x =>
    t.chooseAll x.1 (e.cores.zip x.2) start passed
  let put (t : State) (e' : Evict) : State := { t with evicts := t.evicts.map fun x => if x.team == e.team then e' else x }
  some (match again with
    | some vs => (put t { e with victims := vs, released := passed }).askEvict vs
    | none => put (unasked t start) { e with victims := [], released := [], ended := true })

/-- What a fault of a restore holds. -/
def heldRestore (key : Nat) : Saved → Held
  | .warp _ _ _ _ => .save 0 (savedWid + key)
  | .gang g _ => .save 1 g
  | .allot a _ _ => .save 2 a
  | _ => .save 3 key

/-- What was saved comes back. -/
def restored (s : State) (key : Nat) : Saved → State
  | .allot id _ tvu => s.restoreAllot key id tvu
  | .cmd cl c => s.restoreCmd key cl c
  | .build b c => s.restoreBuild key b c
  | .gang gid es => s.restoreGang key gid es
  | .warp w core place was => s.restoreWarp key w was core (place / 16)

/-- A request for a waiting team keeps the core of a saved warp. -/
def coreKept (s : State) : Saved → Bool
  | .warp _ c _ _ => s.evicts.any fun e => !e.ended && e.cores.contains c && s.waitingLaunches.any fun l => l.1 == e.team
  | _ => false

/-- A saved item of a running context comes back in its turn; with the last one that a halt saved the context's queues and launches go
on. -/
def resumed (s : State) : Option State := do
  let key := s.ev.unit
  let x ← AMap.get s.saved key
  let ctx ← s.savedCtxOf x
  let c ← AMap.get s.ctxs ctx
  guard (c.state == .running && s.turnOf ctx x && !s.heldBy (heldRestore key x) && !coreKept s x)
  let t := (restored s key x).applyAnswers ctx
  some (if t.haltedSaved ctx then t
    else t.modCtx ctx fun c => if c.state == .running then { c with haltStep := 0 } else c)

def contextEvents : List EventRow :=
  [⟨.supervisorContinue, continued⟩, ⟨.supervisorHalt, haltedByTrap⟩, ⟨.haltSaveComplete, walkedOn⟩,
   ⟨.evictionRequest, evictionAsked⟩, ⟨.victimSave, victimSaved⟩, ⟨.evictionReleaseTimeout, victimReleased⟩,
   ⟨.warpResume, resumed⟩]

/-! ### Peers and the mailbox (13 R318, 19 R421-R423) -/

/-- Lines of this package's memory, all present, read one after another, behind no access of the peer that still waits; an access with
a time gets its time back. -/
def peerRead (s : State) : Option State := do
  let pa := s.linkAddress
  let n := s.ev.third
  if s.inRegisters pa then some (s.readRegister s.peerId (localOf pa) n)
  else
    guard (s.reachable s.peerId pa n false && !s.peerWaits s.peerId pa n)
    let line (r : State × List Byte × Nat) (x : Nat × Nat) : State × List Byte × Nat :=
      let y := r.1.peerRead s.peerId x.1 x.2 (s.ev.word != 0) s.peerTime
      (y.1, r.2.1 ++ y.2.1, max r.2.2 y.2.2)
    let r := (lineCuts (n / 256 + 2) pa n).foldl line (s, [], 0)
    some (r.1.post ⟨s.peerId, 0, r.2.1.map BitVec.toNat ++ if s.peerTime.isNone then [] else [r.2.2]⟩)

/-- Lines of this package's memory that the peer may write, all present, written one after another, behind no access of the peer that
still waits; an access with a time gets its time back, and an operation of the home what stood there. -/
def peerWrite (s : State) : Option State := do
  let pa := s.linkAddress
  let op := peerOp s.ev
  let n := op.extent s.ev.bytes.length
  if s.inRegisters pa then some (s.writeRegisterSpace s.peerId (localOf pa) s.ev.bytes)
  else
    guard (s.reachable s.peerId pa n true && op.aligned pa && !s.peerWaits s.peerId pa n)
    let r ← s.peerLines s.peerId pa s.ev.bytes op s.peerTime
    some (r.1.post ⟨s.peerId, 2, r.2.1.map BitVec.toNat ++ if s.peerTime.isNone then [] else [r.2.2]⟩)

/-- CLAIM of an idle mailbox gives the peer a token that is not 0. -/
def claimed (s : State) : Option State := do
  let s := s.lapsed
  guard (s.mbx.state == .idle)
  let (k, t) := s.choose (2 ^ 32 - 1)
  some ((t.modMbx fun m => { m with state := .claimed, token := k + 1, claimant := s.peerId, at_ := t.elapsed }).post
    ⟨s.peerId, 0, [k + 1]⟩)

/-- SUBMIT by the claimant with its token: the request is examined. -/
def submitted (s : State) : Option State := do
  let s := s.lapsed
  guard (s.holdsClaim s.peerId s.ev.item && s.mbx.state == .claimed)
  some ((s.modMbx fun m => { m with state := .running }).vet.post ⟨s.peerId, 2, []⟩)

/-- NEXT by the claimant: the next segment of an answer that has one. -/
def nextGiven (s : State) : Option State := do
  let s := s.lapsed
  let m := s.mbx
  guard (s.holdsClaim s.peerId s.ev.item && m.state == .answered
    && segmentBytes * (m.segment + 1) < m.answer.length)
  some ((s.modMbx fun m => { m.put 0x30 (segmentOf m.answer (m.segment + 1)) with segment := m.segment + 1 }).post
    ⟨s.peerId, 2, []⟩)

/-- RELEASE by the claimant, no request running: the mailbox is idle and zero. -/
def claimReleased (s : State) : Option State := do
  let s := s.lapsed
  guard (s.holdsClaim s.peerId s.ev.item && s.mbx.state != .running)
  some ((s.modMbx Mailbox.idle).post ⟨s.peerId, 2, []⟩)

def peerEvents : List EventRow :=
  [⟨.peerLinkRead, peerRead⟩, ⟨.peerLinkWrite, peerWrite⟩,
   whenever .registerSpaceError (fun s => s.inRegisters s.linkAddress && if s.ev.word = 0
       then !regReadOk (localOf s.linkAddress) s.ev.third else !regWriteOk (localOf s.linkAddress) s.ev.third)
     (fun s => s.refusePeer s.peerId),
   ⟨.mbxClaim, claimed⟩, ⟨.mbxSubmit, submitted⟩, ⟨.mbxNext, nextGiven⟩, ⟨.mbxRelease, claimReleased⟩,
   whenever .claimLapse State.claimLapsed fun s => s.modMbx Mailbox.idle]

/-! ### Requests (19 R419-R430) -/

/-- The request that the mailbox runs, examined and of a code that is served. -/
def serving (s : State) (code : Nat) : Option (State × Req) := do
  let t := s.vet
  guard (t.mbx.state == .running && t.serves && t.mbx.request.code == code)
  some (t, t.mbx.request)

/-- A request about a context of its peer that is not being destroyed. -/
def servingCtx (s : State) (code : Nat) : Option (State × Req × Ctx) := do
  let (t, r) ← serving s code
  let c ← AMap.get t.ctxs r.ctx
  guard (c.owner == t.mbx.claimant && (c.state != .destroying || code == 8))
  some (t, r, c)

/-- The record of a new context. -/
def newCtx (r : Req) (owner key : Nat) (nums : List Nat) (pages : List (Nat × Nat × Nat × Nat)) (left : Nat) : Ctx :=
  let num (i : Nat) : Nat := (nums[i]?).getD 0
  let tables := nums.drop 6
  { state := .running, owner := owner, root := BitVec.ofNat 64 (0xA * 2 ^ 60 + num 0 / 4096)
    deleg := BitVec.ofNat 64 (r.field 0x20 8), supv := BitVec.ofNat 64 (r.field 0x28 8)
    wsb := BitVec.ofNat 64 (num 2), wsn := r.field 0x30 8, gsb := BitVec.ofNat 64 (num 3), gsn := r.field 0x38 8
    asb := BitVec.ofNat 64 (num 4), asn := r.field 0x40 8, esb := BitVec.ofNat 64 (num 5), esz := r.field 0x48 8
    hcause := 0, hinfo := 0, hwho := 0, key := key, pages := pages
    tables := num 0 :: tables.take (tables.length - left), haltStep := 0, freezing := false }

/-- CREATE with a good vector, a free context number, and memory for its pools and tables: the context runs, and the answer
holds its number, the features, and the key's ciphertext. -/
def created (s : State) : Option State := do
  let (t, r) ← serving s 1
  let num (i : Nat) : Nat := (s.ev.nums[i]?).getD 0
  let n := s.ev.unit
  let pools := poolsOf r fun i => num (2 + i)
  let bytes := (pools.map fun x => x.2.1).sum
  guard (r.len == 1648 && 1 ≤ r.field 0x30 8 && r.field 0x30 8 ≤ 32768 && majors (r.field 0 32) == majors featureVector)
  guard (n < 64 && (AMap.get t.ctxs n).isNone && !s.ev.nums.isEmpty)
  guard (poolsApart pools && num 1 % 4096 == 0 && t.freeMemory (num 1) bytes
    && t.freeTables (num 0 :: s.ev.nums.drop 6) (num 1) bytes)
  let (u, left, pages) ← ((t.zeroRange (num 0) 4096).zeroRange (num 1) bytes).mapPools (num 0) pools (num 1)
    (s.ev.nums.drop 6)
  let ek := r.field 0x50 1568
  let key := Config.kemSecret ek u.draw.1 % 2 ^ 256
  let v := u.draw.2
  let c := newCtx r v.mbx.claimant key s.ev.nums pages left.length
  some (({ v with ctxs := AMap.set v.ctxs n c }).answer r (some key) 0
    (bytesOf 8 n ++ bytesOf 32 (answeredFeatures (r.field 0 32)) ++ bytesOf 1568 (Config.kemCiphertext ek u.draw.1)))

/-- MAP of a range that is aligned, canonical in one half, and overlaps no other: fresh zeroed memory that the supervisor
chooses, or pages that the peer holds. The answer holds the physical address. -/
def mapped (s : State) : Option State := do
  let (t, r, c) ← servingCtx s 2
  let va := r.field 0 8
  let n := r.field 8 8
  let flags := r.field 0x10 8
  let size := natBits flags 5 3
  let rwx := flags % 8
  let bytes := leafBytes size
  let v := va % 2 ^ 57
  guard (r.len == 32 && flags < 64 && size ≤ 4 && rwx != 0 && rwx % 4 != 2 && n != 0)
  guard (va % bytes == 0 && n % bytes == 0 && canonical (BitVec.ofNat 64 va) && va + n ≤ 2 ^ 64
    && canonical (BitVec.ofNat 64 (va + n - 1)) && (decide (va < 2 ^ 56) == decide (va + n - 1 < 2 ^ 56))
    && c.pages.all fun x => !overlap v n x.1 x.2.1)
  let fresh := r.field 0x18 8 == 2 ^ 64 - 1
  let pa := if fresh then t.ev.unit else r.field 0x18 8
  guard (pa != 2 ^ 64 - 1 && pa % bytes == 0)
  guard (if fresh then t.freeMemory pa n && t.freeTables t.ev.nums pa n
    else t.freeTables t.ev.nums 0 0 && if packageOf pa == t.links.package then t.heldByOwner t.mbx.claimant pa n
      else t.links.domain.contains (packageOf pa) && t.ev.item != 0)
  let (u, left) ← (if fresh then t.zeroRange pa n else t).mapSpan c.rootTable v pa n size rwx t.ev.nums
  some ((u.modCtx r.ctx fun c =>
    { c with
      pages := c.pages ++ [(v, n, pa, size)]
      tables := c.tables ++ t.ev.nums.take (t.ev.nums.length - left.length) }).answer r (some c.key) 0 (bytesOf 8 pa))

/-- UNMAP of a range that cuts no page: its leaves go; then every TLB's entries for it, once no access translated before still waits for
its place, and the request is answered. -/
def unmapped (s : State) : Option State := do
  let (t, r, c) ← servingCtx s 3
  let v := r.field 0 8 % 2 ^ 57
  let n := r.field 8 8
  let hit := c.pages.filter fun x => overlap v n x.1 x.2.1
  guard (r.len == 16 && v % 4096 == 0 && n % 4096 == 0 && canonical (BitVec.ofNat 64 (r.field 0 8)))
  let lo (x : Nat × Nat × Nat × Nat) : Nat := max v x.1
  let len (x : Nat × Nat × Nat × Nat) : Nat := min (v + n) (x.1 + x.2.1) - lo x
  guard (hit.all fun x => (lo x - x.1) % pageBytes x.2.2.2 == 0
    && (min (v + n) (x.1 + x.2.1) - x.1) % pageBytes x.2.2.2 == 0)
  if hit.isEmpty then
    guard !t.oldAccess r.ctx c
    some (((t.modCtx r.ctx fun c => { c with dropping := [] }).invalidate r.ctx v n).answer r (some c.key) 0 [])
  else
    let u := hit.foldl (fun u x =>
      (List.range (len x / pageBytes x.2.2.2)).foldl (fun u i =>
        u.clearPage c.rootTable (lo x + i * pageBytes x.2.2.2) (x.2.2.2 % 8)) u) t
    some (u.modCtx r.ctx fun c =>
      { c with
        pages := c.pages.flatMap (pageRest v n), dropping := hit.map fun x => (x.2.2.1 + (lo x - x.1), len x) })

/-- A new queue: nothing taken, committed or running. -/
def newQueue (r : Req) (program : List (BitVec 32)) (key : Nat) : Queue :=
  { ctx := r.ctx, classL := r.field 0x10 1 == 1, ring := BitVec.ofNat 64 (r.field 0x20 8), k := r.field 0x11 1
    dc := r.field 0x12 1, window := r.field 0x18 8, program := program, windows := r.windows, key := key
    control := BitVec.ofNat 64 (r.field 0x28 8), peers := (List.range (r.field 0x13 1)).map fun i => r.field (0x78 + 8 * i) 8
    rd := 0, tk := 0, commits := [], nonce := 0, status := 0, stopped := false, missed := 0, late := 0, badNotify := 0
    notified := false, faulted := false, running := none, serial := 0, work := [], workTime := 0, dones := []
    destroying := false }

/-- QUEUE create with a free number, ranges that are mapped and a program that verifies: the ring is zeroed, and a class R
queue gets a notify key, which the answer holds encrypted. -/
def queueCreated (s : State) : Option State := do
  let (t, r, c) ← servingCtx s 4
  let q := if r.field 8 8 == 2 ^ 64 - 1 then t.ev.unit else r.field 8 8
  guard (r.len == 184 && r.field 0 8 == 0 && q < 256 && t.queueFree q && c.queueOk r)
  match t.readVirt [] r.ctx (BitVec.ofNat 64 (r.field 0x70 8)) (4 * r.field 0x14 4) .read with
  | (_, .error _) => none
  | (u, .ok bs) =>
    let program := (List.range (r.field 0x14 4)).map fun i => BitVec.ofNat 32 (numIn bs (4 * i) 4)
    guard (verifyNibex program)
    match u.writeVirt [] r.ctx (BitVec.ofNat 64 (r.field 0x20 8)) (List.replicate (64 * 2 ^ r.field 0x11 1) 0) with
    | (_, some _) => none
    | (u, none) =>
      let classL := r.field 0x10 1 == 1
      let nk := if classL then 0 else u.draw.1 % 2 ^ 256
      let nonce := u.draw.2.draw.1 % 2 ^ 96
      let u := u.draw.2.draw.2
      some (({ u with queues := AMap.set u.queues q (newQueue r program nk) }).answer r (some c.key) 0 (bytesOf 8 q
        ++ if classL then List.replicate 60 0
          else bytesOf 12 nonce ++ aesGcm (bytesOf 32 c.key) (bytesOf 12 nonce) (bytesOf 32 nk)))

/-- QUEUE destroy of a live queue of the context: it stops, and its window state and key are cleared. -/
def queueDestroyed (s : State) : Option State := do
  let (t, r, c) ← servingCtx s 4
  guard (r.len == 16 && r.field 0 8 == 1)
  let k ← t.liveQueue (r.field 8 8)
  guard (k.ctx == r.ctx)
  some ((t.modQueue (r.field 8 8) fun k =>
    { k with
      destroying := true, stopped := true, running := none, notified := false, key := 0, rd := 0, tk := 0, commits := []
      nonce := 0, status := 0, missed := 0, late := 0, badNotify := 0 }).answer r (some c.key) 0 [])

/-- HALT asserts the context's halt line with OWNER. -/
def haltAsked (s : State) : Option State := do
  let (t, r, c) ← servingCtx s 5
  guard (r.len == 0)
  some ((t.haltCtx r.ctx .owner 0 none).answer r (some c.key) 0 [])

/-- RESUME of a halted context. -/
def resumeAsked (s : State) : Option State := do
  let (t, r, c) ← servingCtx s 6
  guard (r.len == 0 && c.state == .halted)
  some ((t.resumeCtx r.ctx).answer r (some c.key) 0 [])

/-- A report's signature by a die's key. -/
def signature (s : State) (die : Nat) (rep : List Byte) : List Byte :=
  bytesOf 4627 (Config.mldsaSign die (s.digest die) (ofBytes rep))

/-- ATTEST: the report, the primary's signature, and the standby's or zeros. -/
def attested (s : State) : Option State := do
  let (t, r) ← serving s 7
  guard (r.len == 64)
  let rep := t.report (r.body.take 64)
  some (t.answer r none 0 (rep ++ signature t t.sup.primary rep
    ++ if t.sup.standby then signature t (1 - t.sup.primary) rep else List.replicate 4627 0))

/-- DESTROY halts a running context, marks a halted one, and frees the one so marked, which answers the request. -/
def destroyed (s : State) : Option State := do
  let (t, r, c) ← servingCtx s 8
  guard (r.len == 0)
  match c.state with
  | .running => some (t.haltCtx r.ctx .owner 0 none)
  | .halted => some (t.modCtx r.ctx fun c => { c with state := .destroying })
  | .destroying => some ((t.freeCtx r.ctx).answer r (some c.key) 0 [])
  | _ => none

def requestEvents : List EventRow :=
  [⟨.reqCreate, created⟩, ⟨.reqMap, mapped⟩, ⟨.reqUnmap, unmapped⟩, ⟨.reqQueueCreate, queueCreated⟩,
   ⟨.reqQueueDestroy, queueDestroyed⟩, ⟨.reqHalt, haltAsked⟩, ⟨.reqResume, resumeAsked⟩, ⟨.reqAttest, attested⟩,
   ⟨.reqDestroy, destroyed⟩]

/-! ### Complexes, time and links (13 R306, 17 R387, 19 R416, R417, R429-R433) -/

/-- A fatal error where none stands: its cause, the dump's first quadwords, the flag, and every context's halt, which a
thermal trip leaves out. -/
def fatalRaised (cause : Nat) (s : State) : State :=
  let t := ({ s with sup := { s.sup with fatal := cause, dump := some ⟨cause, s.incarnation, s.ns, [], 0⟩ } }).raiseFlag 2
  if cause = 1 then t else t.ctxs.foldl (fun t x => t.haltCtx x.1 .supervisor 0 none) t

/-- The dump: once the contexts are at their stop points, or the clocks are gated, dirty sectors go to memory, the dump is
written with the private SRAMs and streamed to its peer, and the part is held in reset. -/
def dumped (s : State) : Option State :=
  if s.sup.fatal = 0 then if s.ev.unit = 4 then some (fatalRaised 4 s) else none
  else do
    guard (!s.sup.heldInReset && (s.sup.tripped || s.atStopPoints))
    let dump := s.sup.dump.map fun x => { x with srams := s.sup.complexes.map (·.sram), free := s.free }
    let t := s.writeBackAll
    let t := match s.links.dumpPeer with
      | some p => t.post ⟨p, 5, (dump.map Dump.bytes).getD []⟩
      | none => t
    some { t with
      free := s.free + 1
      sup := { s.sup with
        dump := dump, dumpWritten := true, dumpStreamed := s.links.dumpPeer.isSome, heldInReset := true } }

/-- A running context begins to freeze. -/
def freezes (s : State) (x : Nat × Ctx) : State :=
  if x.2.state == .running then
    s.modCtx x.1 fun k => { k with state := .halting, freezing := true, haltStep := 1, haltFrom := s.uid }
  else s

/-- A booted complex fails: the standby takes over from a failed primary and every context freezes; without a standby it is
fatal; a failed standby is recorded. -/
def complexFails (s : State) : Option State := do
  let die := s.ev.unit
  let c ← s.sup.complexes[die]?
  guard (c.booted && !c.failed && (s.ev.item != 1 || (die == s.sup.primary && s.sup.heartbeat + 30000 < s.elapsed)))
  let t : State := { s with sup := { s.sup with
    complexes := s.sup.complexes.modify die fun c => { c with failed := true } } }
  if s.sup.primary ≠ die then some { t with sup := { t.sup with standby := false } }
  else if s.sup.standby then
    let u := ({ t with sup := { t.sup with
      primary := 1 - die, standby := false, takeover := 1, takeoverAt := s.elapsed, heartbeat := s.elapsed } } : State).raiseFlag 3
    some (u.ctxs.foldl freezes u)
  else some (t.raiseFatal 3)

/-- The image of a die at power-on, or none. -/
def imageOf (s : State) (die : Nat) : BootImage := (s.ev.images[die]?).getD ⟨false, [], [], [], 0, false, 0⟩

/-- The status of a die's boot (19 R417). -/
def bootOf (s : State) (die : Nat) : Nat :=
  bootStatus ((s.powerOn.sup.complexes[die]?).getD Complex.fresh).fuse (imageOf s die)

/-- Power-on: each die meets its image, the primary is the first that booted, and global time, package and domains come
from the clock, the switch and the configuration. -/
def poweredOn (s : State) : State :=
  let t := s.powerOn
  let met (d : Nat) : Machine.Complex := ((t.sup.complexes[d]?).getD Complex.fresh).meet (imageOf s d)
    (bootOf s 0 == 0 && bootOf s 1 == 0 && sha3 (imageOf s 0).data == sha3 (imageOf s 1).data)
  let clock := s.ev.nums.head?.getD 0 - 1
  { t with
    ev := s.ev, ns := clock, ns1 := clock
    sup := { t.sup with
      complexes := [met 0, met 1]
      primary := if bootOf s 0 = 0 then 0 else if bootOf s 1 = 0 then 1 else 0
      standby := bootOf s 0 == 0 && bootOf s 1 == 0
      bootCount := if bootOf s 0 == 0 || bootOf s 1 == 0 then (t.sup.bootCount + 1) % 2 ^ 32 else t.sup.bootCount
      heartbeat := t.elapsed }
    links := { t.links with
      package := s.ev.item % 1024
      coherence := s.ev.item % 1024 :: (s.ev.nums.drop 1).take (min 7 s.ev.third)
      domain := s.ev.item % 1024 :: s.ev.nums.drop 1
      dumpPeer := if s.ev.word = 0 then none else some s.ev.word.toNat } }

/-- At the first lock the counter steps to a master that is ahead, and die 1's follows, or holds for one behind. -/
def firstLocked (s : State) : State :=
  let m := s.ev.unit % 2 ^ 64
  let u := { s.sup with firstLock := true, locked := true }
  if s.ns ≤ m then ({ s with ns := m, sup := u } : State).followNs else { s with sup := { u with ptpHold := some m } }

/-- A port fails; with the last of the 16 no other package is reachable. -/
def portFails (s : State) : State :=
  { s with links := { s.links with
    deadPorts := s.ev.unit :: s.links.deadPorts
    unreachable := if s.links.deadPorts.length = 15 then s.links.domain.filter (· != s.links.package)
      else s.links.unreachable } }

/-- A page of a context lies in a package. -/
def pagesIn (p : Nat) (c : Ctx) : Bool :=
  c.pages.any fun x => packageOf x.2.2.1 ≤ p && p ≤ packageOf (x.2.2.1 + x.2.1 - 1)

/-- An unreachable package leaves the domain, no cache keeps a line of it, and the contexts with pages there halt. -/
def packageRemoved (s : State) : State :=
  let p := s.ev.unit
  let t : State := ({ s with links := { s.links with
    unreachable := s.links.unreachable.filter (· != p), removed := p :: s.links.removed
    domain := s.links.domain.filter (· != p), coherence := s.links.coherence.filter (· != p) } } : State).forget p
  (t.ctxs.filter fun x => pagesIn p x.2).foldl (fun t x => t.haltCtx x.1 .supervisor (BitVec.ofNat 64 p) none) t

/-- A path returns: accesses held for its package go on, but for those of a removed package. -/
def pathBack (s : State) : State :=
  { s with links := { s.links with
    unreachable := s.links.unreachable.filter (· != s.ev.unit)
    waiting := s.links.waiting.filter fun x => x.1 != s.ev.unit || s.links.removed.contains x.1 } }

def boardEvents : List EventRow :=
  [whenever .timestampOverflow (fun s => s.sup.fatal == 0) (fatalRaised 2), ⟨.complexFailed, complexFails⟩,
   ⟨.fatalDump, dumped⟩,
   whenever .heartbeat State.heartbeatDue (fun s => { s with sup := { s.sup with heartbeat := s.elapsed } }),
   ⟨.powerOnBoot, fun s => some (poweredOn s)⟩,
   whenever .ptpSteer (fun s => s.sup.locked && s.ev.signed.natAbs ≤ 100) (fun s =>
     s.passNs (((s.ev.unit : Int) + (s.ev.unit : Int) * s.ev.signed / 1000000).toNat)),
   whenever .ptpFirstLock (fun s => !s.sup.firstLock) firstLocked,
   whenever .linkPortFailure (fun s => s.ev.unit < 16 && !s.links.deadPorts.contains s.ev.unit) portFails,
   whenever .packageRemoval (fun s => s.links.unreachable.contains s.ev.unit) packageRemoved,
   ⟨.pathReturns, fun s => some (pathBack s)⟩]

/-! ### The sideband and clock steps (01 R17-R21) -/

/-- The register pointer at a place. -/
def pointedAt (p : Nat) (s : State) : State := { s with side := { s.side with pointer := BitVec.ofNat 8 p } }

/-- A transfer to the address that the target answers at (01 R21). -/
def atTarget (st : State → State) (s : State) : State := if s.ev.third = s.side.address then st s else s

/-- A private write with bytes for the register at the pointer. -/
def registerWritten (s : State) : Option State :=
  match s.ev.bytes with
  | p :: bs => some (atTarget (fun s => (pointedAt p.toNat s).writeSide bs) s)
  | [] => none

/-- The target's dynamic address, given by ENTDAA or by SETDASA, which names its static address. -/
def addressGiven (s : State) : State :=
  if s.ev.item = 0 ∨ s.ev.item = 0x5C then { s with side := { s.side with dynamic := some (BitVec.ofNat 7 s.ev.unit) } } else s

/-- Bytes from the pointer up, wrapping at 256, which leave the pointer past them. -/
def privatelyRead (s : State) : State :=
  { s with side := { s.side with
    reply := (List.range s.ev.unit).map fun i => s.sideByte ((s.side.pointer.toNat + i) % 256)
    pointer := BitVec.ofNat 8 (s.side.pointer.toNat + s.ev.unit) } }

/-- A limit of 1,200 to 2,100 W in steps of 25 is taken, and any other is refused. -/
def limitWritten (s : State) : State :=
  let w := BitVec.ofNat 16 s.ev.unit
  let t := pointedAt 0x24 s
  if 1200 ≤ w.toNat ∧ w.toNat ≤ 2100 ∧ w.toNat % 25 = 0 then { t with side := { t.side with limit := w, limitResult := 0 } }
  else { t with side := { t.side with limitResult := 1 } }

/-- Flags cleared where ones are written. -/
def flagsCleared (s : State) : State :=
  let t := pointedAt 0x6C s
  { t with side := { t.side with events := t.side.events &&& ~~~(BitVec.ofNat 4 s.ev.unit) } }

/-- Both dies' clocks step, and the time of the step is kept. -/
def stepped (f : Nat → Nat) (s : State) : State :=
  { s with dies := s.dies.map fun d => { d with clockMHz := f d.clockMHz }, side := { s.side with lastStep := some s.elapsed } }

/-- A draw above the limit: at the floor the supervisor records that it still is. -/
def powerStep (s : State) : Option State := do
  let t := s.senseDraw s.ev.unit
  guard (t.side.limit.toNat * 10 < t.side.draw.toNat && t.stepDue)
  if t.aboveFloor then
    let u := stepped clockDown t
    some { u with side := { u.side with powerSteps := u.side.powerSteps + 1 } }
  else some ((t.notice (.atFloor 0)).notice (.atFloor 1))

/-- A draw 25 W or more below the limit, every junction at 100 °C or below. -/
def raiseStep (s : State) : Option State := do
  let t := (s.senseDraw s.ev.unit).senseTemps s.ev.item s.ev.third s.ev.nums.head?
  guard (t.side.draw.toNat + 250 ≤ t.side.limit.toNat * 10 && t.hottest ≤ 1600 && t.stepDue && t.belowNominal)
  some (stepped clockUp t)

/-- A junction at 105 °C or above. -/
def thermalStep (s : State) : Option State := do
  let t := s.senseTemps s.ev.unit s.ev.item s.ev.nums.head?
  guard (1680 ≤ t.hottest && t.stepDue && t.aboveFloor)
  let u := stepped clockDown t
  some (({ u with side := { u.side with thermalSteps := u.side.thermalSteps + 1 } } : State).raiseFlag 0)

/-- A junction at 120 °C or above, the clocks running: the trip is flagged, gates the clocks, and is fatal. -/
def tripped (s : State) : Option State := do
  let t := s.senseTemps s.ev.unit s.ev.item s.ev.nums.head?
  guard (1920 ≤ t.hottest && !t.gated)
  let u := t.raiseFlag 1
  some (({ u with sup := { u.sup with tripped := true } } : State).raiseFatal 1)

def sidebandEvents : List EventRow :=
  [⟨.setPointer, fun s => some (atTarget (pointedAt s.ev.unit) s)⟩, ⟨.registerWrite, registerWritten⟩,
   ⟨.privateRead, fun s => some (atTarget privatelyRead s)⟩, ⟨.entdaa, fun s => some (addressGiven s)⟩,
   ⟨.powerLimitWrite, fun s => some (atTarget limitWritten s)⟩, ⟨.eventFlagsClear, fun s => some (atTarget flagsCleared s)⟩,
   whenever .moduleReset (fun s => s.ev.unit == 0x52455345) (atTarget fun s => (pointedAt 0x70 s).powerOn),
   ⟨.powerThrottleStep, powerStep⟩, ⟨.clockRaiseStep, raiseStep⟩, ⟨.thermalThrottleStep, thermalStep⟩,
   ⟨.thermalTrip, tripped⟩]

end Sys2Proof.Safety
end

