-- ==== Sys2Proof/Safety/Moves.lean ====
section
/-! DEFINITION. What moves, predicate logic and cross-lane instructions do (05 R120-R130, 04 R97-R99). -/
namespace Sys2Proof.Safety
open Sys2Proof.Machine

/-- MOV, MOVW, BCASTW and SEL (05 R121, R122). -/
def moveRows : List Row :=
  [row .mov Enc.mov <| perLane fun i l => i.f.ty.fill (i.src 1 l),
   row .movw Enc.movw <| perLane fun i _ => i.f.ty.fill (i.src 1 i.low),
   row .bcastw Enc.bcastw <| perLane fun i l => i.f.ty.fill (i.src 1 l),
   row .bcastwP Enc.bcastwP <| perBit fun i l => (i.uni 1).getLsbD l,
   row .sel Enc.sel <| perLane fun i l => i.f.ty.fill (if i.pred 1 l then i.src 2 l else i.src 3 l)]

/-- Predicate logic (05 R123). -/
def predicateRows : List Row :=
  [row .pand Enc.pand <| perBit fun i l => i.pred 1 l && i.pred 2 l,
   row .pandAn Enc.pandAn <| perBit fun i l => i.pred 1 l && !i.pred 2 l,
   row .por Enc.por <| perBit fun i l => i.pred 1 l || i.pred 2 l,
   row .porOn Enc.porOn <| perBit fun i l => i.pred 1 l || !i.pred 2 l,
   row .pxor Enc.pxor <| perBit fun i l => i.pred 1 l ^^ i.pred 2 l,
   row .pnot Enc.pnot <| perBit fun i l => !i.pred 1 l]

/-- VOTE over the active lanes (05 R124). -/
def voteRows : List Row :=
  [row .voteBallot Enc.voteBallot <| perLane fun i _ => Mask.of 64 fun l => i.act.has l && i.pred 1 l,
   row .voteAny Enc.voteAny <| perBit fun i _ => i.ballot != 0,
   row .voteAll Enc.voteAll <| perBit fun i _ => i.ballot == i.act,
   row .voteUni Enc.voteUni <| perBit fun i _ => i.ballot == i.act || i.ballot == 0]

/-- MATCH over the delivered values' low bits (05 R125). -/
def matchRows : List Row :=
  [row .matchAny Enc.matchAny <| perLane fun i l => Mask.of 64 fun m =>
      i.act.has m && (i.src 1 m).toNat % 2 ^ i.f.ty.width == (i.src 1 l).toNat % 2 ^ i.f.ty.width,
   row .matchAll Enc.matchAll <| perBit fun i _ => i.act.lanes.all fun m =>
      (i.src 1 m).toNat % 2 ^ i.f.ty.width == (i.src 1 i.low).toNat % 2 ^ i.f.ty.width]

/-- What the tree of REDUCE makes of the active lanes, and its flags (02 R35, 05 R126). -/
def reduction (i : Iss) : Word × FFlags :=
  let leaf (l : Nat) : Option Partial :=
    if i.act.has l then some (contribution i.f.ty i.env (i.src 1 l)) else none
  match tree (redOp i.f) i.f.ty i.env i.w.width.log2 ((List.range i.w.width).map leaf) with
  | some (xs, fl) => (redJoin i.f.ty xs, fl)
  | none => (redIdentity (redOp i.f) i.f.ty, 0)

/-- REDUCE: one result for the bundle. A REDUCE whose tree is empty raises nothing (05 R126). -/
def reduceRows : List Row :=
  [row .reduce Enc.reduce <|
    { st := fun i s => if (tree (redOp i.f) i.f.ty i.env i.w.width.log2 ((List.range i.w.width).map fun l =>
          if i.act.has l then some (contribution i.f.ty i.env (i.src 1 l)) else none)).isSome
        then accrued i s (reduction i).2 else s
      ws := fun i _ => i.dest fun _ => (reduction i).1 }]

/-- The running combinations of SCAN, lane by lane in ascending order. -/
def scanned (i : Iss) : List (Nat × Option Partial × Partial) :=
  scanFrom (redOp i.f) i.f.ty i.env (i.act.lanes.map fun l => (l, contribution i.f.ty i.env (i.src 1 l))) none

/-- SCAN inclusive: what stands after a lane's own step; exclusive: what stands before it, the identity at the first
(05 R126). -/
def scanRows : List Row :=
  [row .scan Enc.scan <|
    { st := fun i s => accrued i s (((scanned i).getLast?.map fun o => o.2.2.2).getD 0)
      ws := fun i _ => i.dest fun l => (((scanned i).find? fun o => o.1 == l).map fun o => redJoin i.f.ty o.2.2.1).getD 0 },
   row .scanExclusive Enc.scanExclusive <|
    { st := fun i s => accrued i s (((scanned i).dropLast.getLast?.map fun o => o.2.2.2).getD 0)
      ws := fun i _ => i.dest fun l => (((scanned i).find? fun o => o.1 == l).map fun o => match o.2.1 with
        | some b => redJoin i.f.ty b.1
        | none => redIdentity (redOp i.f) i.f.ty).getD 0 }]

/-- PERM, PACK, UNPK and SUBX (05 R128-R130). -/
def permuteRows : List Row :=
  [row .perm Enc.perm <| perLane fun i l =>
      let k := (i.src 2 l).toNat
      let edge := natBits i.f.mods.toNat 1 0
      if k < i.w.width then i.src 1 k
      else if edge = 0 then 0 else if edge = 1 then i.src 1 (i.w.width - 1) else i.src 1 (k % i.w.width),
   row .pack Enc.pack <| perLane fun i l => packLane i.f.ty i.f.sat (i.src 1 l) (i.src 2 l),
   row .unpk Enc.unpk <| perLane fun i l => unpkLane i.f.ty (i.src 1 l) (i.src 2 l).toNat,
   row .subx Enc.subx <|
    perLane fun i l => subxLane i.f.ty i.f.ty.count.log2 (i.f.ty.elems (i.src 1 l)) (i.src 2 l),
   row .subxTwo Enc.subxTwo <| perLane fun i l =>
      subxLane i.f.ty (i.f.ty.count.log2 + 1) (i.f.ty.elems (i.src 1 l) ++ i.f.ty.elems (i.src 2 l)) (i.src 3 l)]

/-- MOVS, and MOVS.clr which also clears ZLANE (04 R97, R99). -/
def specialRows : List Row :=
  [row .movs Enc.movs <|
    { ws := fun i s => i.dest fun l => specialReg s i i.special l },
   row .movsClr Enc.movsClr <|
    { st := fun i s => s.modWarp i.wid fun w => { w with zlane := false }
      ws := fun i s => i.dest fun l => specialReg s i i.special l }]

end Sys2Proof.Safety
end

