-- ==== Sys2Proof/Safety/Control.lean ====
section
/-! DEFINITION. What control transfers, handler-level instructions and clocks do (04 R89-R96, 18 R401-R406). -/
namespace Sys2Proof.Safety
open Sys2Proof.Machine

/-- N(H) of the block a bundle is in (03 R43). -/
def nextOf (c : Cur) : Word := nextHeader c.hdr (headerOf c.hword)

/-- The active lanes with their targets. -/
def moves (i : Iss) (goal : Nat → Word) : List (Nat × Word) := i.act.lanes.map fun l => (l, goal l)

/-- What the checks of the targets find, and the state with the translations they made (03 R41). -/
def checks (i : Iss) (goal : Nat → Word) (s : State) : State × Targets := checkTargets i.wid i.w (moves i goal) [] s

/-- Every target is a header that may be entered. -/
def targetsGood (i : Iss) (goal : Nat → Word) (s : State) : Bool :=
  match (checks i goal s).2 with
  | .good => true
  | _ => false

/-- Active lanes arrive at their targets, the others go to N(H) (04 R89). -/
def arrive (i : Iss) (goal : Nat → Word) (w : Warp) : Warp :=
  ((moves i goal).foldl (fun w m => w.goHeader (Mask.of 64 (· == m.1)) m.2 .transfer) w).goNext
    i.c (i.c.lanes &&& ~~~i.act)

/-- A transfer of every active lane. -/
def goes (goal : Iss → Nat → Word) (ws : Iss → List Wr) : Effect where
  cond i s := targetsGood i (goal i) s
  st i s := (checks i (goal i) s).1
  ws i _ := ws i
  mv i _ := arrive i (goal i)

/-- A transfer of all active lanes together where a condition holds, and of none otherwise: then the bundle goes to N(H). -/
def goesIf (cond : Iss → Bool) : Effect where
  cond i s := !cond i || targetsGood i (fun _ => i.target 1) s
  st i s := if cond i then (checks i (fun _ => i.target 1) s).1 else s
  mv i _ w := if cond i then arrive i (fun _ => i.target 1) w else w.goNext i.c i.c.lanes

/-- Branches, jumps and calls (04 R90, R91). -/
def branchRows : List Row :=
  [row .bra Enc.bra <| goes (fun i _ => i.target 0) fun _ => [],
   row .brc Enc.brc <| goes (fun i l => if i.pred 0 l then i.target 1 else i.target 2) fun _ => [],
   row .brwAny Enc.brwAny <| goesIf fun i => i.condition != 0,
   row .brwAll Enc.brwAll <| goesIf fun i => i.condition == i.act,
   row .brwNone Enc.brwNone <| goesIf fun i => i.condition == 0,
   row .brwWz Enc.brwWz <| goesIf fun i => i.uni 0 == 0,
   row .brwWnz Enc.brwWnz <| goesIf fun i => i.uni 0 != 0,
   row .jmpi Enc.jmpi <| goes (fun i l => i.src 0 l) fun _ => [],
   row .ret Enc.ret <| goes (fun i l => i.src 0 l) fun _ => [],
   row .call Enc.call <| goes (fun i _ => i.target 1) fun i => i.dest fun _ => nextOf i.c,
   row .calli Enc.calli <| goes (fun i l => i.src 1 l) fun i => i.dest fun _ => nextOf i.c]

/-- What is found of the block's reconvergence header, where it names one (04 R84). -/
def reconvergence (i : Iss) (s : State) : Option (Word × State × TargetCheck) :=
  (reconvTarget i.c.hdr (headerOf i.c.hword)).map fun rc => (rc, s.checkTarget i.wid i.w .transfer rc)

/-- JOIN: active lanes go to the reconvergence header and are held there (04 R92). -/
def joins : Effect where
  cond i s := (reconvergence i s).any fun r => match r.2.2 with
    | .good => true
    | _ => false
  st i s := ((reconvergence i s).map fun r => r.2.1).getD s
  mv i s w := ((w.goHeader i.act (((reconvergence i s).map fun r => r.1).getD 0) .transfer).modLanes i.act fun x =>
    { x with held := true }).goNext i.c (i.c.lanes &&& ~~~i.act)

/-- NOP, JOIN, EXIT and YIELD (04 R92-R95). -/
def flowRows : List Row :=
  [row .nop Enc.nop <| writes fun _ => [],
   row .join Enc.join joins,
   row .exit Enc.exit
     { st := fun i s => if i.w.live &&& ~~~i.act = 0 then s.drainGang i.wid i.w else s
       mv := fun i _ w => (w.goNext i.c (i.c.lanes &&& ~~~i.act)).exitLanes i.act },
   row .yield Enc.yield <| leaving
     (fun i s => s.modWarp i.wid fun w =>
       if (i.uni 0).toNat = 0 then { w with yieldNext := true }
       else { w with
         yieldUntil := some (max ((s.die (dieOf i.wid)).cycles + passes i.c.lanes + (i.uni 0).toNat) (w.yieldUntil.getD 0)) })
     (fun _ => [])]

/-- Where TEPC leads a bundle that returns (18 R404). -/
def returnsTo (i : Iss) (s : State) : State × Resumption :=
  s.resumption i.wid i.w (((i.w.lanes[i.low]?).map (·.homeHdr)).getD 0) i.w.tepc

/-- HRET: the active lanes return to TEPC, in the block it lies in or at the header it is (18 R404). -/
def returns : Effect where
  cond i s := match (returnsTo i s).2 with
    | .body _ => true
    | .header => true
    | _ => false
  st i s := (returnsTo i s).1
  mv i s w := (w.goNext i.c (i.c.lanes &&& ~~~i.act)).trapReturn i.act (match (returnsTo i s).2 with
    | .body h => some h
    | _ => none)

/-- The system register's number (18 Table 18.7). -/
def sysNumber (o : Operand) : Nat := immNum o

/-- A system register read: HVEC, TCAUSE, TINFO, TEPC, TMASK, and LEVEL (18 Table 18.7). -/
def sysValue (w : Warp) (n : Nat) : Word :=
  if n = 1 then w.hvec else if n = 2 then w.tcause else if n = 3 then w.tinfo else if n = 4 then w.tepc
  else if n = 5 then w.tmask else if w.handler then 1 else 0

/-- Handler level and clocks (18 R401-R406). -/
def handlerRows : List Row :=
  [⟨.hret, Enc.hret, fun _ => true, returns⟩,
   ⟨.srd, Enc.srd, fun f => 2 ≤ sysNumber f.op1 && sysNumber f.op1 ≤ 5,
     writes fun i => i.dest fun _ => sysValue i.w (sysNumber i.f.op1)⟩,
   ⟨.swr, Enc.swr, fun f => sysNumber f.op0 == 4,
     leaving (fun i s => s.modWarp i.wid fun w => w.setSysReg (sysNumber i.f.op0) (i.uni 1)) fun _ => []⟩,
   ⟨.swrT, Enc.swrT, fun f => sysNumber f.op0 == 4,
     leaving (fun i s => s.modWarp i.wid fun w => w.setSysReg (sysNumber i.f.op0) (i.target 1)) fun _ => []⟩,
   row .clockCyc Enc.clockCyc { ws := fun i s => i.dest fun _ => BitVec.ofNat 64 (s.die (dieOf i.wid)).cycles },
   row .clockNs Enc.clockNs { ws := fun i s => i.dest fun _ => BitVec.ofNat 64 (s.nsAt (dieOf i.wid)) }]

/-- BRK and TRAP: the lanes move, and then the warp takes the trap with the tag (04 R96, 18 R403). -/
structure RaiseRow where
  ins : Fields → Instr
  enc : Enc
  cause : Cause
  tepc : Cur → Word
  mv : Cur → Mask → Warp → Warp

/-- BRK goes past itself with its active lanes; TRAP takes the bundle to N(H). -/
def raiseRows : List RaiseRow :=
  [⟨.brk, Enc.brk, .break_, Cur.after, fun c act w => w.advance c act⟩,
   ⟨.trap, Enc.trap, .trap, nextOf, fun c _ w => w.goNext c c.lanes⟩]

/-- The bundles it runs for are those of an instruction with no writes. -/
def RaiseRow.row (r : RaiseRow) : Row := Safety.row r.ins r.enc {}

/-- The instruction raises its trap, with the tag in TINFO. -/
def RaiseRow.Does (r : RaiseRow) : Prop :=
  ∀ (f : Fields) (s s1 : State) (c : Cur) (push : Option (Nat × Nat)) (i : Iss), r.row.Runs f s s1 c push i →
    exec (r.ins f) s = .next ((s1.modWarp c.wid fun w => r.mv c i.act (w.marked r.enc f c)).takeTrap
      c.wid r.cause c.lanes i.act (i.uni 0) (r.tepc c))

end Sys2Proof.Safety
end

