-- ==== Sys2Proof/Safety/Floating.lean ====
section
/-! DEFINITION. What floating-point, complex and special-function instructions do (07). -/
namespace Sys2Proof.Safety
open Sys2Proof.Machine

/-- FSCALE of a lane: each element times a power of two, an immediate power for all of them (07 R169). -/
def scaled (i : Iss) (l : Nat) : Word × FFlags :=
  joinFl i.f.ty ((i.f.ty.elems (i.src 1 l)).zipIdx.map fun (x, k) => (fmtOf i.f.ty).scale i.env x (match i.f.op2 with
    | .imm n => immSigned n
    | _ => toSigned i.f.ty.width (elemAt i.f.ty.width (i.src 2 l) k)))

/-- FDOT2 of a pair of elements: two products and the addend's element, exactly, rounded once to binary32 (07 R170). -/
def dotted1 (i : Iss) (l k : Nat) : Nat × FFlags :=
  let x (j m : Nat) : Nat := elemAt i.f.ty.width (i.src j l) m
  let c := match i.f.op3 with
    | .imm n => splat 32 (fmtF32.immBits n)
    | _ => i.src 3 l
  (fmtOf i.f.ty).dot fmtF32 i.env [(x 1 (2 * k), x 2 (2 * k), false), (x 1 (2 * k + 1), x 2 (2 * k + 1), false)]
    [elemAt 32 c k]

/-- FDOT2 of a lane: one sum of binary32 pairs, or two of halves (07 R170). -/
def dotted (i : Iss) (l : Nat) : Word × FFlags :=
  if i.f.ty = .f32x2 then (BitVec.ofNat 64 (dotted1 i l 0).1, (dotted1 i l 0).2)
  else (joinElems 32 [(dotted1 i l 0).1, (dotted1 i l 1).1], (dotted1 i l 0).2 ||| (dotted1 i l 1).2)

/-- Arithmetic, minima, rounding, scaling, dot products, quotients and roots (07 R160, R161, R164, R169-R171). -/
def floatRows : List Row :=
  [row .fadd Enc.fadd <| perLaneFlags fun i l => fl2 i.f.ty ((fmtOf i.f.ty).add i.env) (i.src 1 l) (i.src 2 l),
   row .fsub Enc.fsub <| perLaneFlags fun i l => fl2 i.f.ty ((fmtOf i.f.ty).sub i.env) (i.src 1 l) (i.src 2 l),
   row .fmul Enc.fmul <| perLaneFlags fun i l => fl2 i.f.ty ((fmtOf i.f.ty).mul i.env) (i.src 1 l) (i.src 2 l),
   row .ffma Enc.ffma <| perLaneFlags fun i l => fl3 i.f.ty ((fmtOf i.f.ty).fma i.env) (i.src 1 l) (i.src 2 l) (i.src 3 l),
   row .fmin Enc.fmin <| perLaneFlags fun i l => fl2 i.f.ty ((fmtOf i.f.ty).minMax false i.env.ftz) (i.src 1 l) (i.src 2 l),
   row .fmax Enc.fmax <| perLaneFlags fun i l => fl2 i.f.ty ((fmtOf i.f.ty).minMax true i.env.ftz) (i.src 1 l) (i.src 2 l),
   row .frnd Enc.frnd <| perLaneFlags fun i l => fl1 i.f.ty ((fmtOf i.f.ty).frnd false i.env) (i.src 1 l),
   row .frndX Enc.frndX <| perLaneFlags fun i l => fl1 i.f.ty ((fmtOf i.f.ty).frnd true i.env) (i.src 1 l),
   row .fscale Enc.fscale <| perLaneFlags fun i l => scaled i l,
   row .fdot2 Enc.fdot2 <| perLaneFlags fun i l => dotted i l,
   row .fdiv Enc.fdiv <| perLaneFlags fun i l => fl2 i.f.ty ((fmtOf i.f.ty).div i.env) (i.src 1 l) (i.src 2 l),
   row .fsqrt Enc.fsqrt <| perLaneFlags fun i l => fl1 i.f.ty ((fmtOf i.f.ty).sqrt i.env) (i.src 1 l)]

/-- What FCMP finds of a lane (07 R162). -/
def compared (i : Iss) (l : Nat) : Bool × FFlags :=
  (fmtOf i.f.ty).compare i.f.variant.toNat i.env.ftz (elemAt i.f.ty.width (i.src 1 l) 0) (elemAt i.f.ty.width (i.src 2 l) 0)

/-- What FCVT makes of a lane, with the lane's stochastic-rounding state after it (07 R166). -/
def converted (i : Iss) (l : Nat) : Word × FFlags × BitVec 32 :=
  cvtLane i.f i.env ((Enc.fcvtSrc i.f).getD .noType) (i.src 1 l) (i.src 3 l) (i.w.srOf l)

/-- Compares, classes and conversions (07 R162, R163, R166). -/
def classRows : List Row :=
  [row .fcmp Enc.fcmp <| leaving
     (fun i s => accrued i s (flagsOf (i.act.lanes.map fun l => (compared i l).2)))
     (fun i => predTo i i.f.op0 fun l => (compared i l).1),
   row .fclass Enc.fclass <| perLane fun i l =>
      i.f.ty.join ((i.f.ty.elems (i.src 1 l)).map fun x => 2 ^ (fmtOf i.f.ty).classBit x),
   row .fclassTest Enc.fclassTest <| writes fun i => predTo i i.f.op0 fun l =>
      (i.uni 2).getLsbD ((fmtOf i.f.ty).classBit (elemAt i.f.ty.width (i.src 1 l) 0)),
   row .fcvt Enc.fcvt <| leaving
     (fun i s => s.modWarp i.wid fun w =>
         { w.accrue (flagsOf ((computed i).map fun l => (converted i l).2.1)) with
           lanes := w.lanes.zipIdx.map fun (x, l) =>
             if (computed i).contains l then { x with sr := (converted i l).2.2 } else x })
     (fun i => i.dest fun l => (converted i l).1)]

/-- Complex products, conjugates and magnitudes (07 R172, R173). -/
def complexRows : List Row :=
  [row .cmul Enc.cmul <| perLaneFlags fun i l => complexDot i.env false (i.src 1 l) (i.src 2 l) none,
   row .cfma Enc.cfma <| perLaneFlags fun i l => complexDot i.env false (i.src 1 l) (i.src 2 l) (some (i.src 3 l)),
   row .cmulj Enc.cmulj <| perLaneFlags fun i l => complexDot i.env true (i.src 1 l) (i.src 2 l) none,
   row .cconj Enc.cconj <| perLane fun i l => i.src 1 l ^^^ (1#64 <<< 63),
   row .cabs2 Enc.cabs2 <| perLaneFlags fun i l =>
      let r := fmtF32.dot fmtF32 i.env [(rePart (i.src 1 l), rePart (i.src 1 l), false),
        (imPart (i.src 1 l), imPart (i.src 1 l), false)] []
      (BitVec.ofNat 64 r.1, r.2)]

/-- MODESET with a new value of the mode register. -/
def modeTo (g : Word → Word → Word) : Effect where
  st i s := s.modWarp i.wid fun w => { w with mode := g w.mode (i.uni 0) }

/-- The active lanes' stochastic-rounding states. -/
def seeds (x : Iss → Nat → Nat) : Effect where
  st i s := s.modWarp i.wid fun w => { w with
    lanes := w.lanes.zipIdx.map fun (y, l) => if i.act.has l then { y with sr := srStore (BitVec.ofNat 32 (x i l)) } else y }

/-- The mode register and the stochastic-rounding state (07 R158, R159, R168). -/
def modeRows : List Row :=
  [row .modesetAll Enc.modesetAll <| modeTo fun m v => (setRm m v &&& 7#64) ||| (v &&& 0x1F08#64),
   row .modesetRm Enc.modesetRm <| modeTo fun m v =>
      if v.toNat % 8 ≤ 4 then (m &&& ~~~7#64) ||| (v &&& 7#64) else m,
   row .modesetFtz Enc.modesetFtz <| modeTo fun m v => (m &&& ~~~8#64) ||| ((v &&& 1#64) <<< 3),
   row .modesetFclr Enc.modesetFclr <| modeTo fun m v => m &&& ~~~(v &&& 0x1F00#64),
   row .modeget Enc.modeget <| perLane fun i _ => i.w.mode,
   row .modegetClr Enc.modegetClr <| leaving
     (fun i s => s.modWarp i.wid fun w => { w with mode := w.mode &&& ~~~0x1F00#64 })
     (fun i => i.dest fun _ => i.w.mode),
   row .seed Enc.seed <| seeds fun i l => (i.src 0 l).toNat,
   row .seedLane Enc.seedLane <| seeds fun i l => (i.src 0 l).toNat + (i.w.teamWarp * i.w.width + l) * 0x2545F491]

/-- Special functions (07 R174-R177), numbered as their opcodes follow 0x1C0. -/
def functionRows : List Row :=
  [row .rcp Enc.rcp <| perLaneFlags fun i l => fl1 i.f.ty ((fmtOf i.f.ty).sfu 0) (i.src 1 l),
   row .rsq Enc.rsq <| perLaneFlags fun i l => fl1 i.f.ty ((fmtOf i.f.ty).sfu 1) (i.src 1 l),
   row .sqrta Enc.sqrta <| perLaneFlags fun i l => fl1 i.f.ty ((fmtOf i.f.ty).sfu 2) (i.src 1 l),
   row .ex2 Enc.ex2 <| perLaneFlags fun i l => fl1 i.f.ty ((fmtOf i.f.ty).sfu 3) (i.src 1 l),
   row .lg2 Enc.lg2 <| perLaneFlags fun i l => fl1 i.f.ty ((fmtOf i.f.ty).sfu 4) (i.src 1 l),
   row .sinpi Enc.sinpi <| perLaneFlags fun i l => fl1 i.f.ty ((fmtOf i.f.ty).sfu 5) (i.src 1 l),
   row .cospi Enc.cospi <| perLaneFlags fun i l => fl1 i.f.ty ((fmtOf i.f.ty).sfu 6) (i.src 1 l),
   row .cispi Enc.cispi <| perLaneFlags fun i l =>
      let c := fmtF32.sfu 6 (rePart (i.src 1 l))
      let d := fmtF32.sfu 5 (rePart (i.src 1 l))
      (joinElems 32 [c.1, d.1], c.2 ||| d.2),
   row .tanh Enc.tanh <| perLaneFlags fun i l => fl1 i.f.ty ((fmtOf i.f.ty).sfu 8) (i.src 1 l),
   row .sigm Enc.sigm <| perLaneFlags fun i l => fl1 i.f.ty ((fmtOf i.f.ty).sfu 9) (i.src 1 l),
   row .erf Enc.erf <| perLaneFlags fun i l => fl1 i.f.ty ((fmtOf i.f.ty).sfu 10) (i.src 1 l)]

end Sys2Proof.Safety
end

