-- ==== Sys2Proof/Safety/Integer.lean ====
section
/-! DEFINITION. What integer, logic and address instructions do (06 R131-R150). -/
namespace Sys2Proof.Safety
open Sys2Proof.Machine

/-- Sums, products, quotients, minima and absolute values (06 R135-R139). -/
def arithmeticRows : List Row :=
  [row .iadd Enc.iadd <| perLane fun i l => IntOps.iadd i.f.ty i.f.sat (i.src 1 l) (i.src 2 l),
   row .isub Enc.isub <| perLane fun i l => IntOps.isub i.f.ty i.f.sat (i.src 1 l) (i.src 2 l),
   row .imul Enc.imul <| perLane fun i l => IntOps.imul i.f.ty i.f.sat (i.src 1 l) (i.src 2 l),
   row .imad Enc.imad <| perLane fun i l => IntOps.imad i.f.ty i.f.sat (i.src 1 l) (i.src 2 l) (i.src 3 l),
   row .imulh Enc.imulh <| perLane fun i l => IntOps.imulh i.f.ty false (i.src 1 l) (i.src 2 l),
   row .imulhSu Enc.imulhSu <| perLane fun i l => IntOps.imulh i.f.ty true (i.src 1 l) (i.src 2 l),
   row .imadwLo Enc.imadwLo <| perLane fun i l => IntOps.imadw i.f.ty false i.f.sat (i.src 1 l) (i.src 2 l) (i.src 3 l),
   row .imadwHi Enc.imadwHi <| perLane fun i l => IntOps.imadw i.f.ty true i.f.sat (i.src 1 l) (i.src 2 l) (i.src 3 l),
   row .idiv Enc.idiv <| perLane fun i l => IntOps.idiv i.f.ty i.f.sat (i.src 1 l) (i.src 2 l),
   row .irem Enc.irem <| perLane fun i l => IntOps.irem i.f.ty (i.src 1 l) (i.src 2 l),
   row .imin Enc.imin <| perLane fun i l => IntOps.imin i.f.ty (i.src 1 l) (i.src 2 l),
   row .imax Enc.imax <| perLane fun i l => IntOps.imax i.f.ty (i.src 1 l) (i.src 2 l),
   row .iabs Enc.iabs <| perLane fun i l => IntOps.iabs i.f.ty i.f.sat (i.src 1 l)]

/-- Shifts, rotations and funnel shifts (06 R140, R141). -/
def shiftRows : List Row :=
  [row .shl Enc.shl <| perLane fun i l => IntOps.shl i.f.ty i.f.sat (i.src 1 l) (i.amount 2 l),
   row .shr Enc.shr <| perLane fun i l => IntOps.shr i.f.ty (i.src 1 l) (i.amount 2 l),
   row .sar Enc.sar <| perLane fun i l => IntOps.sar i.f.ty (i.src 1 l) (i.amount 2 l),
   row .rotL Enc.rotL <| perLane fun i l => IntOps.rot i.f.ty false (i.src 1 l) (i.turn 2 l),
   row .rotR Enc.rotR <| perLane fun i l => IntOps.rot i.f.ty true (i.src 1 l) (i.turn 2 l),
   row .fshlL Enc.fshlL <| perLane fun i l => IntOps.fshl i.f.ty false (i.src 1 l) (i.src 2 l) (i.amount 3 l),
   row .fshlR Enc.fshlR <| perLane fun i l => IntOps.fshl i.f.ty true (i.src 1 l) (i.src 2 l) (i.amount 3 l)]

/-- Logic, bit counts and bit fields (06 R142-R145). -/
def logicRows : List Row :=
  [row .andB Enc.andB <| perLane fun i l => i.f.ty.fill (i.src 1 l &&& i.src 2 l),
   row .orB Enc.orB <| perLane fun i l => i.f.ty.fill (i.src 1 l ||| i.src 2 l),
   row .xor Enc.xor <| perLane fun i l => i.f.ty.fill (i.src 1 l ^^^ i.src 2 l),
   row .andn Enc.andn <| perLane fun i l => i.f.ty.fill (i.src 1 l &&& ~~~(i.src 2 l)),
   row .lop3 Enc.lop3 <| perLane fun i l => IntOps.lop3 i.f.ty i.f.mods (i.src 1 l) (i.src 2 l) (i.src 3 l),
   row .popc Enc.popc <| perLane fun i l => IntOps.popc i.f.ty (i.src 1 l),
   row .clz Enc.clz <| perLane fun i l => IntOps.clz i.f.ty (i.src 1 l),
   row .ctz Enc.ctz <| perLane fun i l => IntOps.ctz i.f.ty (i.src 1 l),
   row .brev Enc.brev <| perLane fun i l => IntOps.brev i.f.ty (i.src 1 l),
   row .bfx Enc.bfx <| perLane fun i l => IntOps.bfx i.f.ty (i.src 1 l) (i.amount 2 l) (i.amount 3 l),
   row .bfi Enc.bfi <| perLane fun i l => IntOps.bfi i.f.ty (i.src 1 l) (i.src 2 l) (i.amount 3 l) (i.amount 4 l)]

/-- Carries of IADDC and decisions of ACS, to the predicates that operand 1 names. -/
def decisions (i : Iss) (n : Nat) (bit : Nat → Nat → Bool) : List Wr :=
  match i.f.op1 with
  | .p p => (List.range n).map fun k => .p (p.toNat + k) i.act (Mask.of 64 fun l => i.act.has l && bit l k)
  | _ => []

/-- What ACS makes of a lane (06 R150). -/
def survivors (mp : Bool) (i : Iss) (l : Nat) : Word × List Bool :=
  IntOps.acs mp i.f.sat (i.f.mods.getLsbD 0) (i.f.mods.getLsbD 1) (i.src 2 l) (i.src 3 l) (i.src 4 l)

/-- Compares, carries, addresses, differences and add-compare-select (06 R146-R150). -/
def compareRows : List Row :=
  [row .icmp Enc.icmp <| writes fun i => predTo i i.f.op0 fun l =>
      IntOps.icmp i.f.ty i.f.variant.toNat (i.src 1 l) (i.src 2 l),
   row .iaddcC Enc.iaddcC <| writes fun i =>
      i.dest (fun l => (IntOps.iaddc i.f.ty false (i.src 2 l) (i.src 3 l) (i.carryIn l)).1)
      ++ decisions i 1 fun l _ => (IntOps.iaddc i.f.ty false (i.src 2 l) (i.src 3 l) (i.carryIn l)).2,
   row .iaddcB Enc.iaddcB <| writes fun i =>
      i.dest (fun l => (IntOps.iaddc i.f.ty true (i.src 2 l) (i.src 3 l) (i.carryIn l)).1)
      ++ decisions i 1 fun l _ => (IntOps.iaddc i.f.ty true (i.src 2 l) (i.src 3 l) (i.carryIn l)).2,
   row .lea Enc.lea <| perLane fun i l => IntOps.lea i.f.ty (i.src 1 l) (i.src 2 l) (i.src 3 l).toNat (i.src 4 l),
   row .sad Enc.sad <| perLane fun i l => IntOps.sad i.f.ty i.f.sat (i.src 1 l) (i.src 2 l) (i.src 3 l),
   row .acsPm Enc.acsPm <| writes fun i =>
      i.dest (fun l => (survivors false i l).1) ++ decisions i 4 fun l k => (((survivors false i l).2)[k]?).getD false,
   row .acsMp Enc.acsMp <| writes fun i =>
      i.dest (fun l => (survivors true i l).1) ++ decisions i 4 fun l k => (((survivors true i l).2)[k]?).getD false]

end Sys2Proof.Safety
end

