-- ==== Sys2Proof/Safety/Units.lean ====
section
/-! DEFINITION. What scratchpad, queue, task, phase, barrier and matrix instructions do once their checks pass (08-11). -/
namespace Sys2Proof.Safety
open Sys2Proof.Machine

/-! ### Scratchpad (08 R191-R196) -/

/-- A byte range of an allotment that overlaps no claimed range of it (09 R199). -/
def unclaimed (s : State) (id : Nat) (a : Allot) (off n : Nat) : Bool := !overlapsAny (s.claims id a) off n

/-- The scratchpad address of a lane: a base operand and a signed immediate. -/
def spAddr (i : Iss) (base off l : Nat) : Int := (i.src base l).toNat + immInt (i.op off)

/-- Accesses of `n` bytes made one after another, each to a line that is present then, of a package that has not been removed, with
what they get by lane. -/
def eachMade (one : AccessStep) (n : Nat) : List Access → State → AMap Nat → Option (State × AMap Nat)
  | [], s, got => some (s, got)
  | x :: xs, s, got => do
    guard (!s.goneFrom x && !s.awayFrom x n)
    eachMade one n xs (one s x).1 ((one s x).2.foldl (fun m y => AMap.set m y.1 y.2) got)

/-- LDS and STS may begin: every active lane's `n` bytes are aligned, inside the allotment and present; a contribution of the
bundle's lanes that has no place yet is not passed by at a line of memory; and no warp of the core is at an LDS or STS (08 R181,
R183, R192, 13 R298, R303). -/
def spReached (i : Iss) (s : State) (a : Allot) (n base off : Nat) : Bool :=
  i.act.lanes.all (fun l => spAddr i base off l % (n : Int) == 0 && 0 ≤ spAddr i base off l
    && spAddr i base off l + n ≤ a.size && a.present (spAddr i base off l).toNat n)
  && (!s.contributes i.wid i.c.lanes || i.act.lanes.all fun l => (a.paOf (spAddr i base off l).toNat).isNone)
  && !s.spTaken i.wid

/-- All accesses of an LDS or STS made in one step under its stamp: those of lines that are not mapped, then those of mapped lines
(08 R183, 13 R300). -/
def spMade (i : Iss) (s : State) (a : Allot) (n : Nat) (xs : List Access) (one : AccessStep) : Option (State × AMap Nat) := do
  let own (x : Access) : Bool := (a.paOf x.pa).isNone
  let (t, got) ← eachMade one n (xs.filter own) { s with stamp := s.stamp + 1 } []
  guard (t.burst = 0 ∨ (xs.filter fun x => !own x).length ≤ t.burst)
  let (t, got) ← eachMade one n (xs.filter fun x => !own x) t got
  some (t.modWarp i.wid fun w => { w with sending := none }, got)

/-- LDS: one access an address, of all lanes that name it (08 R183, R192). -/
def lds (i : Iss) (s : State) : Option (State × List Wr) := do
  let (id, a) ← s.allotOf i.wid i.w
  let n := accessBytes i.f.ty
  guard (i.w.sending.isNone && spReached i s a n 1 2)
  let at_ (l : Nat) : Nat := (spAddr i 1 2 l).toNat
  let xs := ((computed i).map at_).eraseDups.map fun off =>
    (⟨off, ((computed i).filter fun l => at_ l == off).map fun l => (l, []), some id⟩ : Access)
  let (t, got) ← spMade i s a n xs (spLoadOne i n)
  some (t, i.dest fun l => i.f.ty.fill (BitVec.ofNat 64 (AMap.getD got l 0)))

/-- STS: one access a lane, in ascending lane order, to ranges that nothing has claimed (08 R183, R192). -/
def sts (i : Iss) (s : State) : Option (State × List Wr) := do
  let (id, a) ← s.allotOf i.wid i.w
  let n := accessBytes i.f.ty
  guard (i.w.sending.isNone && spReached i s a n 0 1
    && i.act.lanes.all fun l => unclaimed s id a (spAddr i 0 1 l).toNat n)
  let xs := i.act.lanes.map fun l =>
    (⟨(spAddr i 0 1 l).toNat, [(l, [(i.src 2 l).toNat])], some id⟩ : Access)
  let (t, _) ← spMade i s a n xs (spStoreOne i n)
  some (t, [])

/-- An acquire passes by no contribution of the bundle's lanes that has no place yet (13 R308). -/
def mayAcquire (i : Iss) (s : State) (ord : Ord) : Bool := !ord.acquire || !s.contributesIn i.wid ord.scope i.c.lanes

/-- An engine command sent: with a place free in the cluster's queue it stands there, and the counter rises (08 R185,
R186). -/
def sent (i : Iss) (s : State) (kind : CmdKind) (id : Option Nat) (ord : Ord) (ws : List Wr) : Option (State × List Wr) := do
  guard (mayAcquire i s ord)
  let n ← s.cpePlace (clusterOf i.wid)
  some ((s.putCmd (clusterOf i.wid) n
        { kind := kind, owner := .warp i.wid (counterOf i.f), ctx := i.w.ctx, launch := some i.w.launch
          die := dieOf i.wid, allot := id, ord := ord, hint := i.f.hint, time := i.w.pts, stamp := 0, todo := []
          old := s.unsettled i.w i.wid ord.acquire ord.scope, times := ScopeTimes.zero, faulted := false
          stopped := false }).modWarp i.wid fun w => w.countUp (counterOf i.f), ws)

/-- Rows of a copy within the limits of Table 8.2. -/
def rowsOk (a : Allot) (off addr rb rows : Nat) (stride : Int) : Bool :=
  off % 8 == 0 && addr % 8 == 0 && stride % 8 == 0 && rb % 8 == 0 && 8 ≤ rb && rb ≤ 65536 && 1 ≤ rows && rows ≤ 4096
  && off + rows * rb ≤ a.size

def copy (i : Iss) (s : State) : Option (State × List Wr) := do
  let (id, a) ← s.allotOf i.wid i.w
  let off := (i.uni 0).toNat
  let rb := (i.uni 2).toNat
  let rows := (i.uni 3).toNat
  guard (rowsOk a off (i.uni 1).toNat rb rows (i.stride 4) && unclaimed s id a off (rows * rb))
  sent i s (.copy off (i.uni 1) rb rows (i.stride 4)) (some id) (ordOf i.f) []

def copyout (i : Iss) (s : State) : Option (State × List Wr) := do
  let (id, a) ← s.allotOf i.wid i.w
  let off := (i.uni 1).toNat
  guard (rowsOk a off (i.uni 0).toNat (i.uni 2).toNat (i.uni 3).toNat (i.stride 4))
  sent i s (.copyOut (i.uni 0) off (i.uni 2).toNat (i.uni 3).toNat (i.stride 4)) (some id) (ordOf i.f) []

def spclr (i : Iss) (s : State) : Option (State × List Wr) := do
  let (id, a) ← s.allotOf i.wid i.w
  let off := (i.uni 0).toNat
  let n := (i.uni 1).toNat
  guard (off % 128 == 0 && n % 128 == 0 && 128 ≤ n && off + n ≤ a.size && unclaimed s id a off n)
  sent i s (.spclr off n) (some id) Ord.plain []

/-- SPMAP takes a free entry of the mapping table, and its status register is filled at completion; with none free its status is 5
at once (08 R195). -/
def spmap (i : Iss) (s : State) : Option (State × List Wr) := do
  let (id, a) ← s.allotOf i.wid i.w
  let off := (i.uni 1).toNat
  let g := (i.uni 3).toNat
  guard (off % 4096 == 0 && (i.uni 2).toNat % 4096 == 0 && 1 ≤ g && g ≤ 96 && off + 4096 * g ≤ a.size
    && unclaimed s id a off (4096 * g))
  match AMap.freeKey a.maps 16, i.f.op0 with
  | some entry, .w n => do
    let (s, ws) ← sent i s (.spmap n.toNat entry off (i.uni 2) g) (some id) Ord.plain [.wLater n.toNat]
    some (s.modAllot id fun a => { a with maps := AMap.set a.maps entry ⟨off, i.uni 2, g, [], []⟩ }, ws)
  | _, _ => some (s, i.dest fun _ => 5)

/-- SPUNMAP and SPWB of the entry that begins at an offset (08 R196). -/
def ofEntry (kind : Nat → CmdKind) (i : Iss) (s : State) : Option (State × List Wr) := do
  let (id, a) ← s.allotOf i.wid i.w
  let n ← a.entryAt (i.uni 0).toNat
  sent i s (kind n) (some id) Ord.plain []

def scratchpadRows : List Row :=
  [row .lds Enc.lds <| when lds,
   row .sts Enc.sts <| when sts,
   row .copy Enc.copy <| when copy,
   row .copyout Enc.copyout <| when copyout,
   row .spclr Enc.spclr <| when spclr,
   row .spmap Enc.spmap <| when spmap,
   row .spunmap Enc.spunmap <| when (ofEntry .spunmap),
   row .spwb Enc.spwb <| when (ofEntry .spwb)]

/-! ### Queues (09 R214-R217) -/

/-- QINIT: its status says whether the range was free (2 otherwise) and the core had fewer than 64 queues (3 otherwise). -/
def qinit (i : Iss) (s : State) : Option (State × List Wr) := do
  let (id, a) ← s.allotOf i.wid i.w
  let off := (i.uni 1).toNat
  let k := (i.uni 2).toNat
  guard (off % 128 == 0 && k ≤ 12 && off + queueBytes k ≤ a.size && a.present off (queueBytes k))
  let free := !overlapsAny (s.claims id a ++ a.mappedRanges) off (queueBytes k)
  let room := ((s.allotsOn a.core).map fun x => x.2.queues.length).sum < 64
  some (if free && room then s.modAllot id fun a => a.initQueue off k else s,
    i.dest fun _ => if !free then 2 else if !room then 3 else 1)

/-- QINIT.drop: 3 where no queue starts, 4 while it is bound or a trace slot has it. -/
def qdrop (i : Iss) (s : State) : Option (State × List Wr) := do
  let (id, a) ← s.allotOf i.wid i.w
  let line := (i.uni 1).toNat / 128
  guard ((i.uni 1).toNat % 128 == 0)
  let used := s.isRayQueue id a line || s.isHitQueue id a line
    || (s.warpsOn a).any fun w => w.q.any fun b => b.2.line == line
  let gone := a.queues.contains line && !used
  some (if gone then s.modAllot id fun a => { a with queues := a.queues.filter (· != line) } else s,
    i.dest fun _ => if !a.queues.contains line then 3 else if used then 4 else 1)

/-- QBIND to a queue that starts at the offset and that no trace slot keeps from it (09 R215, 15 R330). -/
def qbind (push : Bool) (ep : Iss → BitVec 4) (i : Iss) (s : State) : Option (State × List Wr) := do
  let (id, a) ← s.allotOf i.wid i.w
  let line := (i.uni 1).toNat / 128
  guard ((i.uni 1).toNat % 128 == 0 && a.queues.contains line && !s.isRayQueue id a line
    && !(push && s.isHitQueue id a line))
  some (s.modWarp i.wid fun w => { w with q := AMap.set w.q (regNum i.f.op0) ⟨push, ep i, line⟩ }, [])

/-- QTRY: every active lane takes an element and the predicate says so, or there are too few and nothing else happens. -/
def qtry (i : Iss) (s : State) : Option (State × List Wr) := do
  let (id, a, line) ← s.boundAny i.wid i.w (regNum i.f.op1)
  guard (i.f.op0.cls != .w || i.act.count == 1)
  if (a.desc line).count < i.act.count then some (s, i.bits 2 fun _ => false)
  else
    let r := popLanes i.wid id line 15 i.act.lanes s []
    some (r.1, (i.dest fun l => AMap.getD r.2 l 0) ++ i.bits 2 fun _ => true)

/-- QPEEK: the elements as they stand, by rank among the active lanes, and which lanes have one. -/
def qpeek (i : Iss) (s : State) : Option (State × List Wr) := do
  let (_, a, line) ← s.boundAny i.wid i.w (regNum i.f.op1)
  let d := a.desc line
  let rank (l : Nat) : Nat := (i.act.lanes.filter (· < l)).length
  some (s, (i.dest fun l =>
      if rank l < d.count then BitVec.ofNat 64 (a.num (ringOff line (d.place (d.head + rank l))) 8) else 0)
    ++ i.bits 2 fun l => rank l < d.count)

/-- QLEN: count, k and the closed bit (09 R216). -/
def qlen (i : Iss) (s : State) : Option (State × List Wr) := do
  let (_, a, line) ← s.boundAny i.wid i.w (regNum i.f.op1)
  let d := a.desc line
  some (s, i.dest fun _ => BitVec.ofNat 64 (d.count + d.k * 2 ^ 32 + (if d.closed then 2 ^ 36 else 0)))

/-- QCLOSE of a queue bound for pushing, once what the warp ordered before it has its places: it closes once (09 R204, R217). -/
def qclose (i : Iss) (s : State) : Option (State × List Wr) :=
  match s.bound i.wid i.w (regNum i.f.op0) true with
  | .error _ => none
  | .ok (id, a, b) => do
    guard !s.contributes i.wid
    let d := a.desc b.line
    some (if d.closed then s
      else s.modAllot id fun a => (a.setDesc b.line { d with closed := true }).setEdge (closeKey b.line) i.w.pts, [])

def queueRows : List Row :=
  [row .qbindPop Enc.qbindPop <| when (qbind false fun i => BitVec.ofNat 4 (regNum i.f.op2)),
   row .qbindPush Enc.qbindPush <| when (qbind true fun _ => 0),
   row .qunbind Enc.qunbind <| leaving
     (fun i s => s.modWarp i.wid fun w => { w with q := AMap.erase w.q (regNum i.f.op0) }) (fun _ => []),
   row .qinit Enc.qinit <| when qinit,
   row .qinitDrop Enc.qinitDrop <| when qdrop,
   row .qtry Enc.qtry <| when qtry,
   row .qpeek Enc.qpeek <| when qpeek,
   row .qlen Enc.qlen <| when qlen,
   row .qclose Enc.qclose <| when qclose]

/-! ### Task deques and phases (09 R218-R222) -/

/-- DQSET of a present range: 2 where it is not free, 3 where the core has a deque of that number. -/
def dqset (i : Iss) (s : State) : Option (State × List Wr) := do
  let (id, a) ← s.allotOf i.wid i.w
  let d := (i.uni 1).toNat
  let base := (i.uni 2).toNat
  let limit := (i.uni 3).toNat
  guard (base % 128 == 0 && limit % 128 == 0 && d ≤ 7 && base + 256 ≤ limit && limit ≤ base + 393216
    && limit ≤ a.size && a.present base (limit - base))
  let free := !overlapsAny (s.claims id a ++ a.mappedRanges) base (limit - base)
  let taken := (s.allotsOn a.core).any fun x => (AMap.get x.2.deques d).isSome
  some (if free && !taken then s.modAllot id fun a =>
      { a.poke base (bytesOf 8 0 ++ bytesOf 2 ((limit - base) / 128 - 1) ++ bytesOf 6 0) with
        deques := AMap.set a.deques d (base, limit) } else s,
    i.dest fun _ => if !free then 2 else if taken then 3 else 1)

/-- DQSET.clr of an empty deque; 3 where there is none or it holds tasks. -/
def dqclr (i : Iss) (s : State) : Option (State × List Wr) := do
  let (id, a) ← s.allotOf i.wid i.w
  let d := (i.uni 1).toNat
  guard (d ≤ 7)
  let empty := (AMap.get a.deques d).any fun x => a.dequeCount x.1 == 0
  some (if empty then s.modAllot id fun a => { a with deques := AMap.erase a.deques d } else s,
    i.dest fun _ => if empty then 1 else 3)

/-- A deque of the warp's own core with room, and one with tasks. -/
def roomyDeque (a : Allot) (d : Nat) : Option (Nat × Nat) :=
  (AMap.get a.deques d).filter fun x => a.dequeCount x.1 != dequeSlots x.1 x.2

/-- The owner's operation on a deque is not in a cycle in which a steal has arrived at it: the owner's would have gone first (09
R208). -/
def ownersTurn (s : State) (a : Allot) (d : Nat) : Bool := (AMap.get a.deques d).isNone || !s.stolenNow a d
def fullDeque (a : Allot) (d : Nat) : Option (Nat × Nat) := (AMap.get a.deques d).filter fun x => a.dequeCount x.1 != 0

/-- The 128 bytes of a task slot: eight arguments, the weight it carries, its root, and zeros (09 Table 9.5). -/
def taskBytes (args : Nat → Word) (tw : Nat) (root : Word) : List Byte :=
  ((List.range 8).flatMap fun k => bytesOf 8 (args k).toNat) ++ bytesOf 8 tw ++ bytesOf 8 root.toNat ++ List.replicate 48 0

/-- An update of a root that needs no wait and no fault, after what the warp ordered before it (09 R209). -/
def rootDone (i : Iss) (s : State) (va : Word) (g : Nat → Nat) : Option (State × Nat) :=
  if s.contributes i.wid then none else match s.rootUpdate i.wid i.w.ctx va g with
  | .done s old => some (s, old)
  | _ => none

/-- SPAWN with weight to share: half of it goes with the task, which stands at the bottom of the deque, and the predicate
says so; with no deque, or a full one, only the predicate is written (09 R219). A weight of 1 first takes a loan at the
root. -/
def spawn (i : Iss) (s : State) : Option (State × List Wr) := do
  guard i.w.task.valid
  let (id, a) ← s.allotOf i.wid i.w
  let d := (i.uni 2).toNat
  guard (d ≤ 7 && ownersTurn s a d && ((AMap.get a.deques d).isNone || !s.contributes i.wid))
  match roomyDeque a d with
  | none => some (s, i.bits 0 fun _ => false)
  | some (base, limit) => do
    let (s, tw) ← if i.w.task.tw = 1 then
        (rootDone i s i.w.task.root rootLoan).map fun x => (x.1, 1 + 2 ^ 32)
      else some (s, i.w.task.tw)
    let slot := a.dequeBottom base % dequeSlots base limit
    let s := s.modAllot id fun a =>
      ((a.poke (base + 128 + 128 * slot)
          (taskBytes (fun k => i.w.wreg (regNum i.f.op1 + k)) (tw / 2) i.w.task.root)).poke
        (base + 4) (bytesOf 4 (a.dequeBottom base + 1))).setEdge (taskKey d slot) (((s.warp? i.wid).map (·.pts)).getD 0)
    some (s.setTask i.wid { i.w.task with tw := tw - tw / 2 }, i.bits 0 fun _ => true)

/-- What a task slot gives the warp that takes it: arguments to eight uniform registers, its weight and root, and the time
it carries. -/
def taken (i : Iss) (s : State) (a : Allot) (d base slot : Nat) : State × List Wr :=
  let off := base + 128 + 128 * slot
  ((s.setTask i.wid ⟨true, a.num (off + 0x40) 8, BitVec.ofNat 64 (a.num (off + 0x48) 8)⟩).raisePts i.wid
      (AMap.getD a.edges (taskKey d slot) 0),
    ((List.range 8).map fun k => Wr.w (regNum i.f.op0 + k) (BitVec.ofNat 64 (a.num (off + 8 * k) 8)))
      ++ i.bits 1 fun _ => true)

/-- POPTASK takes the task at the bottom of a deque, the one put in last (09 R210, R220). -/
def poptask (i : Iss) (s : State) : Option (State × List Wr) := do
  guard (!i.w.task.valid)
  let (id, a) ← s.allotOf i.wid i.w
  let d := (i.uni 2).toNat
  guard (d ≤ 7 && ownersTurn s a d)
  match fullDeque a d with
  | none => some (s, i.bits 1 fun _ => false)
  | some (base, limit) =>
    let bottom := (a.dequeBottom base + 2 ^ 32 - 1) % 2 ^ 32
    some (taken i (s.modAllot id fun a => a.poke (base + 4) (bytesOf 4 bottom)) a d base (bottom % dequeSlots base limit))

/-- A task taken from the top of a deque of the team core of an index (09 R210, R220). -/
def stolen (i : Iss) (s : State) (d j : Nat) : Option (State × List Wr) :=
  (s.stealFrom i.w.team j d).map fun (id, a, base, slot) =>
    taken i (s.modAllot id fun b =>
      { b.poke base (bytesOf 4 (b.dequeTop base + 1)) with
        stolenAt := AMap.set b.stolenAt d (s.die (dieOfCore a.core)).cycles }) a d base slot

/-- The team core that a search comes to: the next one after the warp's own, and so round. -/
def searched (i : Iss) (s : State) : Nat := (i.w.teamCore + 1 + i.tries) % i.teamCores s

/-- STEAL.any tries one other team core: it takes a task there, or stays for the next core, or writes false after the last. -/
def stealAny : Effect where
  cond i _ := !i.w.task.valid && (i.uni 2).toNat ≤ 7
  st i s :=
    let idle := s.setSearch i none
    if i.teamCores s ≤ i.tries + 1 then idle
    else match stolen i idle (i.uni 2).toNat (searched i s) with
      | some (s, _) => s
      | none => if i.tries + 2 < i.teamCores s then idle.setSearch i (some (i.tries + 1)) else idle
  ws i s :=
    let idle := s.setSearch i none
    if i.teamCores s ≤ i.tries + 1 then i.bits 1 fun _ => false
    else match stolen i idle (i.uni 2).toNat (searched i s) with
      | some (_, ws) => ws
      | none => if i.tries + 2 < i.teamCores s then [] else i.bits 1 fun _ => false
  mv i s w :=
    if i.tries + 2 < i.teamCores s ∧ stolen i (s.setSearch i none) (i.uni 2).toNat (searched i s) = none then w
    else w.advance i.c i.c.lanes

/-- STEAL.at names a team core. -/
def stealAt (i : Iss) (s : State) : Option (State × List Wr) := do
  guard (!i.w.task.valid && (i.uni 3).toNat ≤ 7 && (i.uni 2).toNat < i.teamCores s)
  some ((stolen i s (i.uni 3).toNat (i.uni 2).toNat).getD (s, i.bits 1 fun _ => false))

/-- TASKDONE returns the task's weight to its root (09 R221). -/
def taskdone (i : Iss) (s : State) : Option (State × List Wr) := do
  guard i.w.task.valid
  let (s, _) ← rootDone i s i.w.task.root (rootReturn i.w.task.tw)
  some (s.setTask i.wid { i.w.task with valid := false }, [])

/-- PHASEBEGIN begins a phase unless one runs at the root: the warp then holds its whole weight (09 R222). -/
def phasebegin (i : Iss) (s : State) : Option (State × List Wr) := do
  guard (!i.w.task.valid && (i.uni 1).toNat % 64 == 0)
  let (s, old) ← rootDone i s (i.uni 1) fun x => (rootBegin x).1
  some (if rootState old = 1 then s else s.setTask i.wid ⟨true, 2 ^ 63, i.uni 1⟩, i.bits 0 fun _ => rootState old != 1)

/-- PHASEWAIT goes on when STATE reads 2; PHASEWAIT.try goes on at 0, 1 or 2 and says which it was (09 R222). -/
def phasewait (try_ : Bool) (i : Iss) (s : State) : Option (State × List Wr) := do
  guard ((i.uni 1).toNat % 64 == 0)
  match s.translate (laneChain (coreOf i.wid)) i.w.ctx (i.uni 1 + 0x20) .read with
  | (_, .error _) => none
  | (s, .ok pa) => do
    guard (!s.absentAt pa 8 && !s.contributes i.wid i.c.lanes)
    let r := s.laneLoad (coreOf i.wid) i.w.pts pa 8 0
    let x := ofBytes r.2.1
    guard (x = 2 ∨ (try_ ∧ x < 2))
    some (r.1.raisePts i.wid r.2.2, i.bits 0 fun _ => x == 2)

def taskRows : List Row :=
  [row .dqset Enc.dqset <| when dqset,
   row .dqsetClr Enc.dqsetClr <| when dqclr,
   row .spawn Enc.spawn <| when spawn,
   row .poptask Enc.poptask <| when poptask,
   row .stealAny Enc.stealAny stealAny,
   row .stealAt Enc.stealAt <| when stealAt,
   row .taskdone Enc.taskdone <| when taskdone,
   row .phasebegin Enc.phasebegin <| when phasebegin,
   row .phasewait Enc.phasewait <| when (phasewait false),
   row .phasewaitTry Enc.phasewaitTry <| when (phasewait true)]

/-! ### Counters and barriers (10 R226-R239) -/

/-- WAITLE goes on once its counter reads the bound or less, and acquires (10 R226, R236). -/
def waitle (i : Iss) (s : State) : Option (State × List Wr) := do
  guard (i.w.counter (immNum i.f.op0) ≤ immNum i.f.op1)
  some (s.modWarp i.wid fun w => w.acquireCounter (immNum i.f.op0), [])

/-- A named barrier of the team. -/
def named (i : Iss) (s : State) (k : Nat) : Option (Nat × Allot × Nat × Barrier) := do
  let (id, a) ← s.allotOf i.wid i.w
  let b := (i.uni k).toNat
  guard (b < a.nBarriers)
  some (id, a, b, AMap.getD a.barriers b Barrier.fresh)

/-- BARINIT forgets the latched count of a barrier that no warp has arrived at: 1, otherwise 2. -/
def barinit (i : Iss) (s : State) : Option (State × List Wr) := do
  let (id, _, b, x) ← named i s 1
  some (if x.arrived.isEmpty then s.setBarrier id b { x with latched := none } else s,
    i.dest fun _ => if x.arrived.isEmpty then 1 else 2)

/-- An arrival within the limits of the count, with the token and the barrier after it, of a warp whose accesses all have their
places (10 R230). -/
def arrived (i : Iss) (s : State) (b m : Nat) : Option (State × Nat × Barrier) := do
  guard !s.contributes i.wid
  let (id, a, n, x) ← named i s b
  match x.arrive i.w.teamWarp (min (i.uni m).toNat 65) (min a.warps 64) i.w.pts with
  | .ok (token, x) => some (s.setBarrier id n x, token, x)
  | .error _ => none

/-- BARARR arrives and goes on with its token. -/
def bararr (i : Iss) (s : State) : Option (State × List Wr) := do
  let (s, token, _) ← arrived i s 1 2
  some (s, i.dest fun _ => BitVec.ofNat 64 token)

/-- BARWAIT goes on once the token's phase is over, and its clock passes the arrivals'. -/
def barwait (i : Iss) (s : State) : Option (State × List Wr) := do
  let (_, _, _, x) ← named i s 0
  guard (x.phase != (i.uni 1).toNat % 2 ^ 32)
  some (s.raisePts i.wid x.time, [])

/-- The first bundle that has arrived at this PC and whose wait is over, with the time it acquires. -/
def waitOver (i : Iss) (ended : BarWait → Option Nat) : Option (BarHold × Nat) :=
  i.holds.findSome? fun h => (ended h.wait).map fun t => (h, t)

/-- An instruction that arrives and waits, said of what its arrival does: `comes` gives the state after it and whether its lanes go
on. Lanes that have just come arrive, or pass by where none of them is active; with none, a bundle that has arrived goes on
once its phase is over (10 R232, R238, R239). -/
def syncing (ended : Iss → State → BarWait → Option Nat) (comes : Iss → State → Option (State × Bool)) : Effect where
  cond i s :=
    if i.newcomers = 0 then (waitOver i (ended i s)).isSome else i.act &&& i.newcomers = 0 || (comes i s).isSome
  st i s :=
    if i.newcomers = 0 then ((waitOver i (ended i s)).map fun (h, t) => (s.dropHold i h).raisePts i.wid t).getD s
    else if i.act &&& i.newcomers = 0 then s.modWarp i.wid Warp.setZlane
    else ((comes i s).map (·.1)).getD s
  mv i s w :=
    if i.newcomers = 0 then ((waitOver i (ended i s)).map fun (h, _) => w.advance i.c (h.lanes &&& i.c.lanes)).getD w
    else if i.act &&& i.newcomers = 0 ∨ (comes i s).any (·.2) = true then w.advance i.c i.newcomers else w

/-- BARSYNC: an arrival goes on where it ends the phase, and stays with its token where not (10 R232, R238). -/
def barsync : Effect :=
  syncing (fun i s => s.namedOver i) fun i s => (arrived i s 0 1).map fun (s, token, x) =>
    if x.phase != token then (s.raisePts i.wid x.time, true)
    else (s.addHold i (.named (i.uni 0).toNat token), false)

/-- An arrival at a team barrier with its token. -/
def arrivedTeam (i : Iss) (s : State) (id m : Nat) : Option (State × Nat) := do
  guard !s.contributes i.wid
  match (s.tbar i.w id).arrive i.w.teamWarp (min (i.uni m).toNat 65537) (i.teamWarps s) i.w.pts with
  | .ok (token, b) => some (s.setTbar i.w id b, token)
  | .error _ => none

/-- TBAR.sync: an arrival stays with its token, and goes on once the release has come. -/
def tbarSync : Effect :=
  syncing (fun i s => s.teamOver i) fun i s => (arrivedTeam i s (immNum i.f.op0) 1).map fun (s, token) =>
    (s.addHold i (.team (immNum i.f.op0) token), false)

def tbarArr (i : Iss) (s : State) : Option (State × List Wr) := do
  let (s, token) ← arrivedTeam i s (immNum i.f.op1) 2
  some (s, i.dest fun _ => BitVec.ofNat 64 token)

def tbarWait (i : Iss) (s : State) : Option (State × List Wr) := do
  guard ((s.tbar i.w (immNum i.f.op0)).released ((i.uni 1).toNat % 2 ^ 32))
  some (s.raisePts i.wid (s.tbar i.w (immNum i.f.op0)).time, [])

def barrierRows : List Row :=
  [row .waitle Enc.waitle <| when waitle,
   row .barinit Enc.barinit <| when barinit,
   row .bararr Enc.bararr <| when bararr,
   row .barwait Enc.barwait <| when barwait,
   row .barsync Enc.barsync barsync,
   row .tbarSync Enc.tbarSync tbarSync,
   row .tbarArr Enc.tbarArr <| when tbarArr,
   row .tbarWait Enc.tbarWait <| when tbarWait]

/-! ### Gangs and the matrix engine (11) -/

/-- The warp's gang. -/
def gangOf (i : Iss) (s : State) : Option (Nat × Gang) := i.w.gang.bind fun id => (AMap.get s.gangs id).map fun g => (id, g)

/-- GANG: a bundle of a gang without tiles arrives, with the count the gang has latched, and stays; it writes 1 once the
grant has come, whatever its count reads then; a bundle that comes while the gang holds tiles writes 2 (11 R241, R260). -/
def gang : Effect where
  cond i s := (gangOf i s).any fun x =>
    let n := (i.uni 1).toNat
    let me := (i.w.teamWarp, i.c.pc)
    x.2.granted.contains me
      || (!x.2.waiters.contains me && 1 ≤ n && n ≤ 16 && (x.2.holds || x.2.latch.getD n == n))
  st i s := match gangOf i s with
    | none => s
    | some (id, g) =>
      let me := (i.w.teamWarp, i.c.pc)
      if g.granted.contains me then
        (s.modGang id fun g => { g with granted := g.granted.filter (· != me) }).modWarp i.wid fun w =>
          { w with gangWait := false }
      else if g.holds then s
      else ((s.modGang id fun g =>
        { g with
          latch := some (i.uni 1).toNat, waiters := g.waiters ++ [me]
          arrived := if g.arrived.contains i.w.teamWarp then g.arrived else g.arrived ++ [i.w.teamWarp] }).modWarp i.wid
            fun w => { w with gangWait := true }).settleGang id i.wid
  ws i s := match gangOf i s with
    | some (_, g) =>
      if g.granted.contains (i.w.teamWarp, i.c.pc) then i.dest fun _ => 1
      else if g.holds then i.dest fun _ => 2 else []
    | none => []
  mv i s w :=
    if (gangOf i s).any fun x => x.2.granted.contains (i.w.teamWarp, i.c.pc) || x.2.holds then w.advance i.c i.c.lanes
    else w

/-- AREL arrives at the release of a gang that holds tiles, and goes on (11 R242). -/
def arel (i : Iss) (s : State) : Option (State × List Wr) := do
  let (id, g) ← gangOf i s
  some (if g.holds then (s.modGang id fun g =>
      { g with relArrived := if g.relArrived.contains i.w.teamWarp then g.relArrived
                             else g.relArrived ++ [i.w.teamWarp] }).settleGang id i.wid else s, [])

/-- TDESC writes a descriptor register, the third operand above the second (11 R261). -/
def tdesc (i : Iss) (s : State) : Option (State × List Wr) := do
  let _ ← gangOf i s
  some (s.modWarp i.wid fun w => w.setT (regNum i.f.op0) (i.uni 2 ++ i.uni 1), [])

/-- What a matrix instruction takes with it: its own checks, its ordering, the sources read at issue, which ALD and AST take their
address and stride as. -/
structure MxArgs where
  ok : Iss → State → Bool := fun _ _ => true
  ord : Iss → Ord := fun _ => Ord.plain
  src1 : Iss → Nat → Word := fun _ _ => 0
  src2 : Iss → Nat → Word := fun _ _ => 0
  ws : Iss → List Wr := fun _ => []

/-- The descriptor register of an operand. -/
def descReg (i : Iss) (k : Nat) : BitVec 128 :=
  match i.op k with
  | .t m => i.w.treg m.toNat
  | _ => 0

/-- The reservation entry a matrix instruction takes (11 R247). -/
def mxEntry (m : MxArgs) (i : Iss) (s : State) (gid : Nat) : Entry :=
  { opcode := i.e.opcode, f := i.f, wid := i.wid, seat := i.wid, gang := gid, launch := i.w.launch, active := i.act
    descs := [descReg i 1, descReg i 2, descReg i 3, descReg i 4]
    src1 := (List.range i.w.width).map (m.src1 i), src2 := (List.range i.w.width).map (m.src2 i)
    rm := if i.f.rounding == 6 then modeRm i.w.mode else i.f.rounding
    counter := counterOf i.f, issued := s.stamp + 1, turn := s.turnNow i.wid, time := i.w.pts
    old := s.unsettled i.w i.wid (m.ord i).acquire (m.ord i).scope, times := ScopeTimes.zero, running := false
    unit := 0, got := [], rowLeft := [], faulted := false, stopped := false }

/-- A matrix instruction of a gang that holds the tiles it names takes the lowest free entry of its cluster, where its core
has fewer than 8, and its counter rises (11 R247, R258). -/
def mx (m : MxArgs) (i : Iss) (s : State) : Option (State × List Wr) := do
  let (id, g) ← gangOf i s
  let cl := clusterOf i.wid
  guard (g.holds && (aOperands i.f).all (· < g.count) && m.ok i s && mayAcquire i s (m.ord i)
    && ((s.cluster cl).entries.filter fun x => coreOf x.2.seat == coreOf i.wid).length < 8)
  let n ← AMap.freeKey (s.cluster cl).entries 32
  let x := mxEntry m i s id
  some ((({ s with stamp := s.stamp + 1 } : State).modCluster cl fun c =>
    { c with entries := AMap.set c.entries n x }).modWarp i.wid fun w => w.countUp (counterOf i.f), m.ws i)

/-- A destination that the engine fills at retirement (11 R252). -/
def later (i : Iss) : List Wr := [.vLater (regNum i.f.op0)]

/-- ALD and AST: a canonical address and a stride, both multiples of 16 (11 R258). -/
def atAddress (addr stride : Nat) : MxArgs where
  ok i _ := tileAddrOk (i.uni addr) (i.stride stride)
  ord i := ordOf i.f
  src1 i _ := i.uni addr
  src2 i _ := i.uni stride

def matrixRows : List Row :=
  [row .gang Enc.gang gang,
   row .arel Enc.arel <| when arel,
   row .tdesc Enc.tdesc <| when tdesc,
   row .mma Enc.mma <| when (mx { ok := fun i s => mmaDescOk s i false, ord := fun i => ordOf i.f }),
   row .mmas Enc.mmas <| when (mx { ok := fun i s => mmaDescOk s i true, ord := fun i => ordOf i.f }),
   row .aclr Enc.aclr <| when (mx {}),
   row .amovCopy Enc.amovCopy <| when (mx {}),
   row .amovTr Enc.amovTr <| when (mx {}),
   row .amovGet Enc.amovGet <| when (mx { ws := later }),
   row .amovPut Enc.amovPut <| when (mx { src1 := fun i l => i.src 1 l }),
   row .ald Enc.ald <| when (mx (atAddress 1 2)),
   row .ast Enc.ast <| when (mx (atAddress 0 1)),
   row .ared Enc.ared <| when (mx { ws := later }),
   row .aepi Enc.aepi <| when (mx { src1 := fun i l => i.epi 2 l, src2 := fun i l => i.epi 3 l })]

end Sys2Proof.Safety
end

