-- ==== Sys2Proof/Safety/Memory.lean ====
section
/-! DEFINITION. What global memory, ESYNC and PROBE instructions do once their lanes reach memory (12, 13, 14). -/
namespace Sys2Proof.Safety
open Sys2Proof.Machine

/-- The lanes reach memory: every active lane's address is aligned, every address accessed translates with the access it needs, its
line is present in a package that can be reached, and no contribution of the lanes waits for a place (12 R290, 13 R303). -/
def reached (i : Iss) (s : State) (lanes : List Nat) (addr : Nat → Word) (n : Nat) (acc : Acc) :
    Option (State × List (Nat × Nat)) := do
  guard (i.act.lanes.all fun l => (addr l).toNat % n == 0)
  guard (s.abandoned i.wid i.c.pc).isNone
  match s.translateAll (laneChain (coreOf i.wid)) i.w.ctx acc (lanes.map addr) with
  | (_, .error _) => none
  | (s, .ok pas) => do
    guard ((pas.all fun pa => !s.links.unreachable.contains (packageOf pa) && !s.absentAt pa n)
      && !s.contributes i.wid i.c.lanes)
    some (s, lanes.zip pas)

/-- An instruction whose lanes access global memory: which lanes do, where, how many bytes and how; its accesses as lane, address and
values brought, each of `size` bytes; what it does first; what one of them does under the instruction's stamp; and what is left to
do and to write after the last. -/
structure Accessor where
  ins : Fields → Instr
  enc : Enc
  lanes : Iss → List Nat := fun i => i.act.lanes
  addr : Iss → Nat → Word
  bytes : Iss → Nat := fun i => accessBytes i.f.ty
  acc : Acc := .readWrite
  parts : Iss → List (Nat × Nat) → List (Nat × Nat × List Nat)
  size : Iss → Nat := bytes
  first : Iss → State → State := fun _ s => s
  one : Iss → Nat → AccessStep
  done : Iss → Nat → State → State := fun _ _ s => s
  ws : Iss → (Nat → Nat) → List Wr := fun _ _ => []

/-- The accesses in the order they are made: request by request, by the lowest lane of each line (12 R275). -/
def Accessor.queue (r : Accessor) (i : Iss) (pas : List (Nat × Nat)) : List Access :=
  (requestsOf (r.parts i pas)).flatMap (·.accesses)

/-- The lanes have got there, under a new stamp. -/
def Accessor.starts (r : Accessor) (i : Iss) (s : State) : Option (State × List Access) :=
  (reached i s (r.lanes i) (r.addr i) (r.bytes i) r.acc).map fun x =>
    (r.first i { x.1 with stamp := x.1.stamp + 1 }, r.queue i x.2)

/-- The warp is at no accesses any more, and what is left to do is done. -/
def Accessor.ends (r : Accessor) (i : Iss) (stamp : Nat) (t : State) : State :=
  r.done i stamp (t.modWarp i.wid fun w => { w with sending := none })

/-- What the last access leaves to be written. -/
def Accessor.writes (r : Accessor) (i : Iss) (got : AMap Nat) : List Wr := r.ws i fun l => AMap.getD got l 0

/-- All accesses made in one step. -/
def Accessor.run (r : Accessor) (i : Iss) (s : State) : Option (State × List Wr) := do
  guard (s.burst = 0)
  let (t, xs) ← r.starts i s
  let (t, got) ← eachMade (r.one i (s.stamp + 1)) (r.size i) xs t []
  some (r.ends i (s.stamp + 1) t, r.writes i got)

/-- The instruction as a row. -/
def Accessor.row (r : Accessor) : Row := Safety.row r.ins r.enc (when r.run)

/-- A load of the lanes computed, each with its own address, or one load for all where base or destination is uniform. -/
def loading (ins : Fields → Instr) (enc : Enc) (uniform : Iss → Bool) (addr : Iss → Nat → Word) : Accessor where
  ins := ins
  enc := enc
  lanes i := if uniform i then [i.low] else computed i
  addr := addr
  acc := .read
  parts _ pas := pas.map fun x => (x.1, x.2, [])
  one i _ := loadOne i (accessBytes i.f.ty)
  ws i got := i.dest fun l => i.f.ty.fill (BitVec.ofNat 64 (got (if uniform i then i.low else l)))

/-- A store of every active lane; those of one address in ascending lane order (12 R277). -/
def storing (ins : Fields → Instr) (enc : Enc) (addr : Iss → Nat → Word) (dataOp : Nat) : Accessor where
  ins := ins
  enc := enc
  addr := addr
  parts i pas := pas.map fun x => (x.1, x.2, [(i.src dataOp x.1).toNat])
  one i _ := storeOne i (accessBytes i.f.ty)

/-- LD and LDX (12 R291). -/
def loadAccessors : List Accessor :=
  [loading .ld Enc.ld (fun i => isW i.f.op1) fun i => i.baseOff 1 2,
   loading .ldx Enc.ldx (fun _ => false) fun i => i.indexed 1 2 3]

/-- ST and STX (12 R291). -/
def storeAccessors : List Accessor :=
  [storing .st Enc.st (fun i => i.baseOff 0 1) 2, storing .stx Enc.stx (fun i => i.indexed 0 1 2) 3]

/-- ATOM: each lane's location takes its new value, those of one address in ascending lane order; the lane gets what stood there
(12 R279, R293). -/
def atomAccessor : Accessor where
  ins := .atom
  enc := Enc.atom
  addr i := i.src 1
  parts i pas := pas.map fun x => (x.1, x.2, [(i.src 2 x.1).toNat, (i.src 3 x.1).toNat])
  one i _ := atomicOne i (accessBytes i.f.ty) (.read (regNum i.f.op0)) fun vs old =>
    aluOp i.f.variant.toNat i.f.ty i.f.sat old (vs[0]?.getD 0) (vs[1]?.getD 0)
  ws i got := i.dest fun l => i.f.ty.fill (BitVec.ofNat 64 (got l))

/-- ATOMR: sixteen bytes, and a pair of registers gets what stood there (12 R294). -/
def pairing (ins : Fields → Instr) (enc : Enc) (vals : Iss → Nat → List Nat) (new : List Nat → Nat → Nat) : Accessor where
  ins := ins
  enc := enc
  addr i := i.src 1
  bytes _ := 16
  parts i pas := pas.map fun x => (x.1, x.2, vals i x.1)
  one i _ := atomicOne i 16 (.read (regNum i.f.op0)) new
  ws i got := [.v (regNum i.f.op0) (i.act.lanes.map fun l => (l, BitVec.ofNat 64 (got l))),
    .v (regNum i.f.op0 + 1) (i.act.lanes.map fun l => (l, BitVec.ofNat 64 (got l / 2 ^ 64)))]

/-- RED: as ATOM with no result; its counter counts up at issue, and its completion is owed to it (10 R224, 12 R293). -/
def redAccessor : Accessor where
  ins := .red
  enc := Enc.red
  addr i := i.src 0
  parts i pas := pas.map fun x => (x.1, x.2, [(i.src 1 x.1).toNat])
  one i stamp := atomicOne i (accessBytes i.f.ty) (.settled stamp) fun vs old =>
    aluOp i.f.variant.toNat i.f.ty i.f.sat old (vs[0]?.getD 0) 0
  first i s := s.countIssue i.wid i.f
  done i stamp s := s.owe i.wid i.f stamp

/-- ATOM, ATOMR and RED (12 R293, R294). -/
def updateAccessors : List Accessor :=
  [atomAccessor,
   pairing .atomrCas Enc.atomrCas (fun i l => [i.pairVal 2 l, i.pairVal 3 l]) fun vs old =>
     if some old = vs[0]? then vs[1]?.getD 0 else old,
   pairing .atomrSwap Enc.atomrSwap (fun i l => [i.pairVal 2 l]) fun vs _ => vs[0]?.getD 0,
   redAccessor]

/-- REDF.add: its counter counts up at issue; each element is a contribution to its exact slot; the instruction is done unless one
of them waits for room (10 R224, 12 R285, R295). -/
def addAccessor : Accessor where
  ins := .redfAdd
  enc := Enc.redfAdd
  addr i := i.src 0
  size i := (slotFmt i.f.ty).2
  parts i pas := pas.flatMap fun x =>
    (List.range (accessBytes i.f.ty / (slotFmt i.f.ty).2)).map fun j =>
      (x.1, x.2 + (slotFmt i.f.ty).2 * j, [elemAt (8 * (slotFmt i.f.ty).2) (i.src 1 x.1) j])
  one i stamp := contributeOne i (slotFmt i.f.ty).1 stamp
  first i s := s.countIssue i.wid i.f
  done i stamp s :=
    if s.slotWaits.any fun x => x.stamp == stamp && x.wid == i.wid then s else s.owe i.wid i.f stamp

/-- Every instruction whose lanes access global memory in requests of the coalescer. -/
def accessors : List Accessor := loadAccessors ++ storeAccessors ++ updateAccessors ++ [addAccessor]

/-- LD, ST, LDX and STX (12 R291). -/
def loadStoreRows : List Row := (loadAccessors ++ storeAccessors).map Accessor.row

/-- PREF of every active lane: both sectors of its line are requested, and an address that does not translate is passed over
(12 R292). -/
def fetches (into : Iss → State → Nat → State) : Effect :=
  leaving (fun i s => i.act.lanes.foldl (fun s l =>
    match s.translate (laneChain (coreOf i.wid)) i.w.ctx (i.baseOff 0 1 l) .read with
    | (s, .ok pa) => if s.absentAt pa 1 then s else into i (into i s (pa / 256 * 256)) (pa / 256 * 256 + 128)
    | (s, .error _) => s) s) fun _ => []

/-- PREF (12 R292). -/
def prefetchRows : List Row :=
  [row .prefL2 Enc.prefL2 <| fetches fun i s pa => s.fillLine pa i.f.hint.toNat,
   row .prefMsc Enc.prefMsc <| fetches fun _ s pa => if (s.mappedAt pa).isSome then s else s.fillMsc pa Sector.fill,
   row .prefCore Enc.prefCore <| fetches fun i s pa => (s.laneLoad (coreOf i.wid) 0 pa 128 i.f.hint.toNat).1]

/-- REDF.flush: the tailrace of every slot that the range covers a byte of, under its hint (12 R273, R283, R296). -/
def redfFlush (i : Iss) (s : State) : Option (State × List Wr) := do
  let n := (i.uni 1).toNat
  let va := (i.uni 0).toNat
  guard (va % 2 == 0 && n % 2 == 0 && 2 ≤ n && n ≤ 2 ^ 30)
  match rangePieces (coreOf i.wid) i.w.ctx (n / 4096 + 2) s va n [] with
  | (_, .error _) => none
  | (s, .ok ps) =>
    let keys := (ps.flatMap fun x => s.slotsOver x.1 x.2).eraseDups
    if s.contributes i.wid i.c.lanes || keys.any fun k => s.absentAt k 2 then none
    else
      let close (s : State) (k : Nat) : State :=
        let r := s.tailrace i.w.pts k (some i.f.hint.toNat)
        r.1.raisePts i.wid r.2
      some ((keys.foldl close (({ s with stamp := s.stamp + 1 } : State).countIssue i.wid i.f)).owe i.wid i.f (s.stamp + 1), [])

/-- ATOM, ATOMR, RED and REDF (12 R293-R296). -/
def atomicRows : List Row :=
  (updateAccessors ++ [addAccessor]).map Accessor.row ++ [row .redfFlush Enc.redfFlush <| when redfFlush]

/-- A bulk command of aligned addresses and 8 bytes to 1 GiB, sent to the cluster's copy engine (12 R297). -/
def bulk (addrs : Iss → List Word) (kind : Iss → CmdKind) (i : Iss) (s : State) : Option (State × List Wr) := do
  let n := (i.uni 2).toNat
  guard ((addrs i).all (fun a => a.toNat % 8 == 0) && n % 8 == 0 && 8 ≤ n && n ≤ 2 ^ 30)
  sent i s (kind i) none (ordOf i.f) []

/-- BULK (12 R297). -/
def bulkRows : List Row :=
  [row .bulkCopy Enc.bulkCopy <| when (bulk (fun i => [i.uni 0, i.uni 1]) fun i =>
      .bulkCopy (i.uni 0) (i.uni 1) (i.uni 2).toNat),
   row .bulkFill Enc.bulkFill <| when (bulk (fun i => [i.uni 0]) fun i =>
      .bulkFill (i.uni 0) (i.uni 2).toNat (i.uni 1))]

/-- ESYNC: `.in` needs the warp's commands complete and raises its clock past their writes in scope; `.out` needs every lane
access in scope to have its place, and settles the warp's stores there (13 R312). -/
def syncs (inward outward : Bool) (i : Iss) (s : State) : Option (State × List Wr) := do
  let scope := natBits i.f.mods.toNat 3 2
  guard ((inward → s.commandsDone i.wid i.w) ∧ (outward → s.contributesIn i.wid scope = false))
  let s := if inward then s.raisePts i.wid (i.w.cmdTimes.at_ scope) else s
  some (if outward then s.settled i.wid (dieOf i.wid) scope else s, [])

/-- PROBE of the lanes computed (14 R328). -/
def probes (acc : Acc) (i : Iss) (s : State) : Option (State × List Wr) :=
  let r := probeLanes i acc (computed i) s []
  some (r.1, i.dest fun l => AMap.getD r.2 l 0)

/-- ESYNC and PROBE. -/
def syncRows : List Row :=
  [row .esyncBoth Enc.esyncBoth <| when (syncs true true),
   row .esyncIn Enc.esyncIn <| when (syncs true false),
   row .esyncOut Enc.esyncOut <| when (syncs false true),
   row .probeR Enc.probeR <| when (probes .read),
   row .probeW Enc.probeW <| when (probes .write),
   row .probeX Enc.probeX <| when (probes .execute)]

end Sys2Proof.Safety
end

