-- ==== Sys2Proof/Safety/Launch.lean ====
section
/-! DEFINITION. What tracing, builder and launch instructions do, and Nibex instructions (15, 16, 17). -/
namespace Sys2Proof.Safety
open Sys2Proof.Machine

/-! ### Tracing (15 R351-R356) -/

/-- Quadwords loaded as a lane loads them, one after another: aligned, translated, present, and with no contribution of the lanes
waiting for a place (13 R303, 15 R351). -/
def loaded (i : Iss) (s : State) (vas : List Word) : Option (State × List Nat) := do
  guard (vas.all fun a => a.toNat % 8 == 0)
  match s.translateAll (laneChain (coreOf i.wid)) i.w.ctx .read vas with
  | (_, .error _) => none
  | (s, .ok pas) => do
    guard ((pas.all fun pa => !s.absentAt pa 8) && !s.contributes i.wid i.c.lanes)
    some (quadLoads i pas s [])

/-- A status alone. -/
def answer (i : Iss) (s : State) (n : Nat) : Option (State × List Wr) := some (s, i.dest fun _ => BitVec.ofNat 64 n)

/-- The slot of a number below 8 that the warp's allotment has bound. -/
def boundSlot (i : Iss) (s : State) (k : Nat) : Option (Nat × Allot × Nat × TraceSlot) := do
  let (id, a) ← s.allotOf i.wid i.w
  guard ((i.uni k).toNat ≤ 7)
  let t ← s.slotOf id a (i.uni k).toNat
  some (id, a, (i.uni k).toNat, t)

/-- ASBIND to a slot that is not bound, of a good pool and queues, with a header that holds the generation: the records are
free and the slot is bound (15 R329, R351). -/
def asbind (i : Iss) (s : State) : Option (State × List Wr) := do
  let (id, a) ← s.allotOf i.wid i.w
  let slot := (i.uni 1).toNat
  let b := regNum i.f.op2
  let hdr := i.w.wreg b
  let pool := natBits (i.w.wreg (b + 2)).toNat 31 0
  let records := natBits (i.w.wreg (b + 2)).toNat 47 32
  let rayQ := natBits (i.w.wreg (b + 3)).toNat 31 0
  let hitQ := natBits (i.w.wreg (b + 3)).toNat 63 32
  if 7 < slot then answer i s 3
  else if (AMap.get (s.core a.core).slots slot).isSome then answer i s 2
  else
    guard (a.present pool (256 * records))
    if !s.bindOk id a pool records rayQ hitQ then answer i s 3 else do
    let (s, xs) ← loaded i s [hdr, hdr + 0x40]
    let g := if i.w.wreg (b + 1) = ~~~0#64 then (xs[1]?).getD 0 else (i.w.wreg (b + 1)).toNat
    if natBits ((xs[0]?).getD 0) 15 8 ≠ 1 ∨ g = 0 then answer i s 4
    else
      let (s, ys) ← loaded i s [hdr + BitVec.ofNat 64 (0x20 + 0x10 * (g % 2))]
      if (ys[0]?).getD 0 ≠ g then answer i s 4
      else
        let t : TraceSlot := ⟨id, hdr, g, pool, records, rayQ / 128, hitQ / 128, false, [0, 0, 0, g]⟩
        let s := (List.range records).foldl (fun s k => s.recNew t k 0x70 [0#8]) s
        answer i (s.modCore a.core fun c => { c with slots := AMap.set c.slots slot t }) 1

/-- ASBIND.close of an open slot; 2 for any other number (15 R348). -/
def asbindClose (i : Iss) (s : State) : Option (State × List Wr) := do
  let (id, a) ← s.allotOf i.wid i.w
  let slot := (i.uni 1).toNat
  match (s.slotOf id a slot).filter fun t => !t.closed with
  | none => answer i s 2
  | some t =>
    answer i ((s.modCore a.core fun c => { c with slots := AMap.set c.slots slot { t with closed := true } }).closeHits
      a.core t) 1

/-- ASBIND.clr of a closed slot without live records: 2 not bound, 3 open, 4 live (15 R351). -/
def asbindClr (i : Iss) (s : State) : Option (State × List Wr) := do
  let (id, a) ← s.allotOf i.wid i.w
  let slot := (i.uni 1).toNat
  match s.slotOf id a slot with
  | none => answer i s 2
  | some t =>
    if !t.closed then answer i s 3
    else if s.slotLive t then answer i s 4
    else answer i (s.modCore a.core fun c => { c with slots := AMap.erase c.slots slot }) 1

/-- TRACE and TRACEW of an open slot with a free record for each active lane: the warp's lane stores take their places, the
rays' handles go to the ray queue, and the counter rises (15 R350, R352, R353). -/
def traced (slotOp : Nat) (pair : Bool) (i : Iss) (s : State) : Option (State × List Wr) := do
  let (_, a, slot, t) ← boundSlot i s slotOp
  let k := i.act.count
  guard (!t.closed && k ≤ t.records && !s.contributes i.wid && k ≤ ((List.range t.records).filter fun j => s.recState t j == recFree).length)
  let s := s.settleLanes i.wid
  let dest := if pair then some (regNum i.f.op0) else none
  let s' := ({ s with uid := s.uid + 1 } : State).modTvu a.core fun u =>
    { u with jobs := AMap.set u.jobs s.uid ⟨i.wid, counterOf i.f, k, dest, []⟩ }
  let s' := sendRays i a.core slot s.uid t
    (fun l => rayPart i (slotOp + 1) (slotOp + 2) (slotOp + 3) l pair 0 slot 0xFFFF) i.act.lanes s'
  some (s'.modWarp i.wid fun w => w.countUp (counterOf i.f),
    if pair then [.vLater (regNum i.f.op0), .vLater (regNum i.f.op0 + 1)] else [])

/-- The records that the active lanes' handles name: valid, of a state that the instruction takes, and where they must be,
all different (15 R345, R350). -/
def handled (i : Iss) (s : State) (id core op : Nat) (ok : Nat → Bool) (once : Bool) :
    Option (List (Nat × Nat × TraceSlot × Nat)) := do
  let named := i.act.lanes.filterMap fun l => (s.validHandle core id (i.src op l)).map fun x => (l, x)
  guard (i.act.lanes.all fun l => (s.validHandle core id (i.src op l)).isSome)
  guard (named.all fun x => ok (s.recState x.2.2.1 x.2.2.2)
    && !(once && named.any fun y => y.1 != x.1 && y.2.1 == x.2.1 && y.2.2.2 == x.2.2.2))
  some named

/-- RAYSPAWN: a child for each lane whose parent's generation and slot allow it; the predicate says which (15 R355). -/
def rayspawn (i : Iss) (s : State) : Option (State × List Wr) := do
  let (id, a) ← s.allotOf i.wid i.w
  let named ← handled i s id a.core 1 (fun x => x == recAnyhit || x == recHeld) false
  guard !s.contributes i.wid
  let r := spawnAll i a.core named (s.settleLanes i.wid) 0
  some (r.1, i.bits 0 r.2.has)

/-- An answer to each lane's record, in ascending lane order (15 R354). -/
def answers (ok : Nat → Bool) (settles : Bool) (g : Iss → Nat → State → Nat → TraceSlot → Nat → State)
    (i : Iss) (s : State) : Option (State × List Wr) := do
  let (id, a) ← s.allotOf i.wid i.w
  let named ← handled i s id a.core 0 ok true
  guard !(settles && s.contributes i.wid)
  some (named.foldl (fun s x => g i a.core s x.2.1 x.2.2.1 x.2.2.2) (if settles then s.settleLanes i.wid else s), [])

/-- RAYTERM frees the record; a ray that waits at the warps ends for its TRACE (15 R352, R354). -/
def terminates (_ : Iss) (core : Nat) (s : State) (slot : Nat) (t : TraceSlot) (k : Nat) : State :=
  (if s.recState t k = recAnyhit then
    (s.modTvu core fun u => { u with rays := AMap.erase u.rays (rayKey slot k) }).jobRay core (rayKey slot k) none
  else s).freeRecord core t k

/-- RLOAD: a unit of the record that each lane's handle names; of one that the traversal unit holds, any value that stood there
since its ray was sent (15 R356). -/
def rload (i : Iss) (s : State) : Option (State × List Wr) := do
  let (id, a) ← s.allotOf i.wid i.w
  let named ← handled i s id a.core 1 (fun _ => true) false
  let r := loadRecords (immNum i.f.op2) named s []
  some (r.1, i.dest fun l => BitVec.ofNat 64 (AMap.getD r.2 l 0))

/-- RLOAD.slot: a statistics unit of a bound slot (15 R331). -/
def rloadSlot (i : Iss) (s : State) : Option (State × List Wr) := do
  let (_, _, _, t) ← boundSlot i s 1
  some (s, i.dest fun _ => BitVec.ofNat 64 ((t.stats[immNum i.f.op2]?).getD 0))

def traceRows : List Row :=
  [row .asbind Enc.asbind <| when asbind,
   row .asbindClose Enc.asbindClose <| when asbindClose,
   row .asbindClr Enc.asbindClr <| when asbindClr,
   row .trace Enc.trace <| when (traced 0 false),
   row .tracew Enc.tracew <| when (traced 1 true),
   row .hitacc Enc.hitacc <| when (answers (· == recAnyhit) true fun i core => accept i core false),
   row .hitaccEnd Enc.hitaccEnd <| when (answers (· == recAnyhit) true fun i core => accept i core true),
   row .hitign Enc.hitign <| when (answers (· == recAnyhit) true fun i core s slot t k => resumeHeld i core slot k t s),
   row .rayspawn Enc.rayspawn <| when rayspawn,
   row .rayterm Enc.rayterm <| when (answers (fun x => x == recAnyhit || x == recHeld) false terminates),
   row .rload Enc.rload <| when rload,
   row .rloadSlot Enc.rloadSlot <| when rloadSlot]

/-! ### Builders (16 R367-R373) -/

/-- A builder command with seven parameters joins the shortest queue of the die's four builders; its status register is
filled at completion (16 R367, R371). -/
def built (kind : BuildKind) (i : Iss) (s : State) : Option (State × List Wr) := do
  guard (mayAcquire i s (ordOf i.f))
  let b ← s.pickBuilder (dieOf i.wid)
  let c : BCmd :=
    { id := s.uid, half := none, kind := kind, word := encodeFields i.e.opcode i.f, params := (List.range 7).map fun j => i.w.wreg (regNum i.f.op1 + j)
      owner := .warp i.wid (counterOf i.f), statusReg := some (regNum i.f.op0), statusAddr := none, ctx := i.w.ctx
      launch := some i.w.launch, die := dieOf i.wid, ord := ordOf i.f, time := i.w.pts
      old := ({ s with uid := s.uid + 1 } : State).unsettled i.w i.wid (ordOf i.f).acquire (ordOf i.f).scope, reads := [], area := none
      started := false, plan := [], status := 0, times := ScopeTimes.zero, faulted := false, stopped := false }
  some ((({ s with uid := s.uid + 1 } : State).modBuilder b fun x => { x with queue := x.queue ++ [c] }).modWarp i.wid fun w =>
    w.countUp (counterOf i.f), [.wLater (regNum i.f.op0)])

/-- CLEMIT: each active lane reserves a place of the stream; then each that got one writes its cluster there, and the others count
themselves lost (16 R370). The predicate says which got one. -/
def clemit (i : Iss) (s : State) : Option (State × List Wr) := do
  let hdr := i.uni 1
  guard (s.burst = 0 && hdr.toNat % 64 == 0 && i.act.lanes.all fun l => (i.src 2 l).toNat % 128 == 0)
  match clemitAt i s hdr with
  | (_, .error _) => none
  | (s, .ok (pas, es)) => do
    guard (((pas ++ es).all fun pa => !s.absentAt pa 8) && !s.contributes i.wid i.c.lanes)
    let at_ (k : Nat) : Nat := (pas[k]?).getD 0
    let (s, kept) := clemitReserve i s (at_ 0) (at_ 1)
    let lost := i.act.lanes.filter fun l => !kept.contains l
    let stores := (kept.zip es).map fun (l, e) =>
      (⟨e, [(l, [(i.src 2 l).toNat, (i.src 3 l).toNat % 2 ^ 32])], none⟩ : Access)
    let losses := if lost.isEmpty then [] else [(⟨at_ 2, lost.map fun l => (l, []), none⟩ : Access)]
    let (s, got) ← eachMade (clemitOne i (at_ 2)) 8 (stores ++ losses) s
      (kept.foldl (fun m l => AMap.set m l 1) [])
    some (s.modWarp i.wid fun w => { w with sending := none }, i.bits 0 fun l => AMap.getD got l 0 == 1)

/-- SFWAIT goes on once the fence's entry is at least the generation, fence 0 always; SFWAIT.try goes on and says so. -/
def sfwait (try_ : Bool) (i : Iss) (s : State) : Option (State × List Wr) := do
  let id := (i.uni 2).toNat
  if id = 0 then some (s, i.bits 0 fun _ => true)
  else
    let (s, xs) ← loaded i s [i.uni 1 + 0x18]
    let (s, ys) ← loaded i s [BitVec.ofNat 64 ((xs[0]?).getD 0 + 8 * id)]
    let ok := decide ((i.uni 3).toNat ≤ (ys[0]?).getD 0)
    guard (ok || try_)
    some (s, i.bits 0 fun _ => ok)

/-- GENADV moves a bound slot without live records to a generation its header holds: 2 not bound, 3 live, 4 no such
generation (16 R373). -/
def genadv (i : Iss) (s : State) : Option (State × List Wr) := do
  let (id, a) ← s.allotOf i.wid i.w
  let slot := (i.uni 1).toNat
  match if 7 < slot then none else s.slotOf id a slot with
  | none => answer i s 2
  | some t =>
    let (s, xs) ← loaded i s [t.header + 0x40]
    let g := if i.uni 2 = ~~~0#64 then (xs[0]?).getD 0 else (i.uni 2).toNat
    let (s, ys) ← loaded i s [t.header + BitVec.ofNat 64 (0x20 + 0x10 * (g % 2))]
    if s.slotLive t then answer i s 3
    else if g = 0 ∨ (ys[0]?).getD 0 ≠ g then answer i s 4
    else answer i (s.modCore a.core fun c =>
      { c with slots := AMap.set c.slots slot { t with gen := g, stats := t.stats.set 3 g } }) 1

def builderRows : List Row :=
  [row .build Enc.build <| when (built .build),
   row .refit Enc.refit <| when (built .refit),
   row .refitInplace Enc.refitInplace <| when (built .inplace),
   row .compact Enc.compact <| when (built .compact),
   row .clemit Enc.clemit <| when clemit,
   row .sfwait Enc.sfwait <| when (sfwait false),
   row .sfwaitTry Enc.sfwaitTry <| when (sfwait true),
   row .genadv Enc.genadv <| when genadv]

/-! ### LAUNCH and NOTIFY (17 R385, R390) -/

/-- LAUNCH: the front end of the warp's die takes the descriptor with the deadline class, deadline and window of the warp's
own launch; an accepted launch counts up and any other is owed its decrement at once (17 R385, R390). -/
def launched (i : Iss) (s : State) : Option (State × List Wr) := do
  let die := dieOf i.wid
  guard (s.pendingOn die < 1024 && !s.contributes i.wid)
  let s := (s.settleLanes i.wid).raiseFront die i.w.pts
  let l := s.launchOf i.w
  match s.submit die i.w.ctx (i.uni 1) ((List.range 8).map fun j => i.w.wreg (regNum i.f.op2 + j))
      ((l.map (·.dc)).getD 0) ((l.map (·.deadline)).getD 0) ((l.map (·.window)).getD 0) (l.bind (·.queue))
      (.warp i.wid (counterOf i.f)) with
  | (s, .ok code) =>
    let s := s.countIssue i.wid i.f
    some (if code = 0 then s else ({ s with stamp := s.stamp + 1 } : State).owe i.wid i.f (s.stamp + 1),
      i.dest fun _ => BitVec.ofNat 64 code)
  | _ => none

/-- NOTIFY, once the warp's accesses have their places, of a class L queue of the warp's context: 2 for any other, 3 where it is stopped, else the slot at RD is examined,
at once or after the running command, and the status is 1 (17 R390). -/
def notified (i : Iss) (s : State) : Option (State × List Wr) := do
  guard !s.contributes i.wid
  let q := (i.uni 1).toNat
  let s := s.settleLanes i.wid
  match (s.liveQueue q).filter fun k => k.classL && k.ctx == i.w.ctx with
  | none => answer i s 2
  | some k =>
    if k.stopped then answer i s 3
    else do
      guard (!k.faulted && s.ctxStarts k.ctx)
      let s := s.modQueue q fun k => { k with notified := true }
      let s := if k.running.isSome then s else s.examineSlot q
      guard (k.running.isSome || (AMap.get s.queues q).any fun k => !k.faulted && !(k.notified && k.running.isNone))
      answer i s 1

def launchRows : List Row :=
  [row .launch Enc.launch <| when launched,
   row .notify Enc.notify <| when notified]

/-! ### Nibex (17 R381-R383) -/

/-- A Nibex instruction and what its step does: where it is described, the state it leaves but for the command's registers,
the registers, and the next instruction. -/
structure NRow where
  ins : NibexFields → Instr
  cond : Nx → State → Bool := fun _ _ => true
  st : Nx → State → State := fun _ s => s
  regs : Nx → State → List Word := fun n _ => n.r.x
  goal : Nx → State → Nat := fun n _ => n.r.pc + 1

/-- With a queue whose command runs, the step writes the command's registers, moves on, and counts. -/
def NRow.Does (r : NRow) : Prop :=
  ∀ (f : NibexFields) (s : State) (n : Nx), n.f = f → s.nib = some n.q → AMap.get s.queues n.q = some n.k →
    n.k.running = some n.r → r.cond n s = true →
    exec (r.ins f) s = .next ((r.st n s).modQueue n.q fun k =>
      { k with running := k.running.map fun x => { x with x := r.regs n s, pc := r.goal n s, steps := x.steps + 1 } })

/-- A value in x_a. -/
def sets (ins : NibexFields → Instr) (val : Nx → Word) : NRow where
  ins := ins
  regs n _ := n.r.x.set n.f.a.toNat (val n)

/-- A forward skip. -/
def skips (ins : NibexFields → Instr) (cond : Nx → Bool) : NRow where
  ins := ins
  goal n _ := n.r.pc + 1 + if cond n then n.f.imm.toNat else 0

/-- A step described only where it is some: state, registers. -/
def nwhen (ins : NibexFields → Instr) (run : Nx → State → Option (State × List Word)) : NRow where
  ins := ins
  cond n s := (run n s).isSome
  st n s := ((run n s).map (·.1)).getD s
  regs n s := ((run n s).map (·.2)).getD n.r.x

/-- A quadword that the front end reads, or one that it has written. -/
def feGot (r : State × FeRes Word) : Option (State × Word) :=
  match r with
  | (s, .ok x) => some (s, x)
  | _ => none

/-- LDC: the quadwords of the command's slot; the first two as they were when it was examined (17 R376, R385). -/
def nldc (n : Nx) (s : State) : Option (State × List Word) := do
  let k := n.f.imm.toNat
  let (s, x) ← if k = 0 then some (s, n.r.quad0)
    else if k = 1 then some (s, BitVec.ofNat 64 n.r.deadline)
    else feGot (s.feQuad n.die n.k.ctx (n.k.slotAddr n.r.slot + BitVec.ofNat 64 (8 * k)))
  some (s, n.r.x.set n.f.a.toNat x)

def nldm (n : Nx) (s : State) : Option (State × List Word) := do
  let va := n.xb + BitVec.ofInt 64 n.f.imm.toInt
  guard (n.k.inWindow va 8)
  let (s, x) ← feGot (s.feQuad n.die n.k.ctx va)
  some (s, n.r.x.set n.f.a.toNat x)

def nstm (n : Nx) (s : State) : Option (State × List Word) := do
  let va := n.xb + BitVec.ofInt 64 n.f.imm.toInt
  guard (n.k.inWindow va 8)
  match s.feStore n.die n.k.ctx 0 va n.xa with
  | (s, .ok _) => some (s, n.r.x)
  | _ => none

/-- NLAUNCH: the result in x_b; an accepted launch is work of the command. -/
def nlaunch (n : Nx) (s : State) : Option (State × List Word) := do
  guard (s.pendingOn n.die < 1024)
  match s.submit n.die n.k.ctx n.xa n.r.x n.k.dc n.r.deadline n.k.window (some n.q) (.nibex n.q n.r.serial) with
  | (s, .ok code) => some (if code = 0 then s.startWork n else s, n.r.x.set n.f.b.toNat (BitVec.ofNat 64 code))
  | _ => none

/-- NCOPY: a bulk copy within the windows, sent to a copy engine of the die that has room, freely chosen. -/
def ncopy (n : Nx) (s : State) : Option (State × List Word) := do
  let bytes := ((n.r.x[n.f.imm.toNat % 8]?).getD 0).toNat
  guard (n.xa.toNat % 8 == 0 && n.xb.toNat % 8 == 0 && bytes % 8 == 0 && 8 ≤ bytes && bytes ≤ 2 ^ 30
    && n.k.inWindow n.xa bytes && n.k.inWindow n.xb bytes)
  let room := (List.range 40).filter fun c => (s.cpePlace (n.die * 40 + c)).isSome
  let c ← (s.chooseFrom room).1
  let s := (s.chooseFrom room).2
  let cl := n.die * 40 + c
  some ((s.putCmd cl ((s.cpePlace cl).getD 0)
    { kind := .bulkCopy n.xa n.xb bytes, owner := .nibex n.q n.r.serial, ctx := n.k.ctx, launch := none, die := n.die
      allot := none, ord := Ord.plain, hint := 0, time := (s.die n.die).feuTime, stamp := 0, todo := [], old := []
      times := ScopeTimes.zero, faulted := false, stopped := false }).startWork n, n.r.x)

/-- NBUILD: seven parameters at x_a, the status to x_b, both within the windows. -/
def nbuild (n : Nx) (s : State) : Option (State × List Word) := do
  guard (n.xa.toNat % 8 == 0 && n.k.inWindow n.xa 56 && n.xb.toNat % 8 == 0 && n.k.inWindow n.xb 8)
  match s.feRead n.die n.k.ctx n.xa 56 with
  | (s, .ok bs) => do
    let b ← s.pickBuilder n.die
    let c : BCmd :=
      { id := s.uid, half := none, kind := buildKindOf n.f.imm.toNat, word := n.cmdWord, params := (List.range 7).map fun j => BitVec.ofNat 64 (numIn bs (8 * j) 8)
        owner := .nibex n.q n.r.serial, statusReg := none, statusAddr := some n.xb, ctx := n.k.ctx, launch := none
        die := n.die, ord := Ord.plain, time := (s.die n.die).feuTime, old := [], reads := [], area := none, started := false
        plan := [], status := 0, times := ScopeTimes.zero, faulted := false, stopped := false }
    some ((({ s with uid := s.uid + 1 } : State).modBuilder b fun x => { x with queue := x.queue ++ [c] }).startWork n, n.r.x)
  | _ => none

/-- NWAIT: once no work of the queue is unfinished; the front end's time passes that of the finished work. -/
def nwait (n : Nx) (s : State) : Option (State × List Word) := do
  guard n.k.work.isEmpty
  some (s.raiseFront n.die n.k.workTime, n.r.x)

/-- NDONE: a store within the windows is left for the end of the command's work. -/
def ndone (n : Nx) (s : State) : Option (State × List Word) := do
  guard (n.k.inWindow n.xa 8)
  some (({ s with uid := s.uid + 1 } : State).modQueue n.q fun k =>
    { k with dones := AMap.set k.dones s.uid ⟨n.r.serial, n.xa, n.xb, false⟩ }, n.r.x)

/-- Registers, skips and loops (17 Table 17.4). -/
def nibexRows : List NRow :=
  [sets .nxLdi fun n => BitVec.ofInt 64 n.f.imm.toInt,
   sets .nxAddi fun n => n.xb + BitVec.ofInt 64 n.f.imm.toInt,
   sets .nxAdd fun n => n.xa + n.xb,
   sets .nxAnd fun n => n.xa &&& n.xb,
   sets .nxShr fun n => n.xa >>> n.f.imm.toNat,
   sets .nxShl fun n => n.xa <<< n.f.imm.toNat,
   skips .nxBeq fun n => n.xa == n.xb,
   skips .nxBne fun n => n.xa != n.xb,
   skips .nxBltu fun n => n.xa.toNat < n.xb.toNat,
   { sets .nxDjnz fun n => n.xa - 1 with
     goal := fun n _ => if n.xa = 1 then n.r.pc + 1 else n.r.pc - n.f.imm.toNat }]

/-- Memory and work (17 R383). -/
def nibexWorkRows : List NRow :=
  [nwhen .nxLdc nldc, nwhen .nxLdm nldm, nwhen .nxStm nstm, nwhen .nxNlaunch nlaunch, nwhen .nxNcopy ncopy,
   nwhen .nxNbuild nbuild, nwhen .nxNwait nwait, nwhen .nxNdone ndone]

/-- The next RD, which the front end of a class L queue stores in the control block (17 R378). -/
def haltStored (n : Nx) (s : State) : Option State :=
  if n.k.classL then
    match s.feStore n.die n.k.ctx 0 n.k.control (BitVec.ofNat 64 ((n.k.rd + 1) % 2 ^ 64)) with
    | (s, .ok _) => some s
    | _ => none
  else some s

/-- HALT ends its command: RD passes the slot, whose commit is gone, and the queue looks at the next slot (17 R378, R379). -/
def HaltEnds : Prop :=
  ∀ (f : NibexFields) (s t : State) (n : Nx), n.f = f → s.nib = some n.q → AMap.get s.queues n.q = some n.k →
    n.k.running = some n.r → haltStored n s = some t →
    exec (.nxHalt f) s = .next (t.modQueue n.q fun k =>
      { k with
        rd := (n.k.rd + 1) % 2 ^ 64, commits := k.commits.filter (· != k.rd % 2 ^ k.k), running := none
        notified := true })

end Sys2Proof.Safety
end

