-- ==== Sys2Proof/Safety/Frames.lean ====
section
/-! DEFINITION. What instructions leave unchanged: registers other than their destinations, lanes outside their bundle, other warps, the rest of the state, and bytes of memory and scratchpad other than those stored to. -/
namespace Sys2Proof.Safety
open Sys2Proof.Machine

/-! ### Registers -/

/-- The uniform registers an instruction names as destinations. -/
def uniformDests (e : Enc) (f : Fields) : List Nat :=
  (List.range 5).flatMap fun i =>
    let pos := (e.ops[i]?).getD Enc.none_
    match opAt f i with
    | .w n => if pos.dst then (List.range pos.regs).map (n.toNat + ·) else []
    | _ => []

/-- The predicates an instruction names as destinations, and the end predicate of the queue it pops (09 R202). -/
def predicateDests (w : Warp) (e : Enc) (f : Fields) : List Nat :=
  ((List.range 5).flatMap fun i =>
    let pos := (e.ops[i]?).getD Enc.none_
    match opAt f i with
    | .p n => if pos.dst then (List.range pos.regs).map (n.toNat + ·) else []
    | _ => [])
  ++ match (ringOps e f).1 with
    | some q => ((AMap.get w.q q).map fun b => b.endPred.toNat).toList
    | none => []

/-- Registers that are no destination keep what they hold, a destination keeps it in the lanes that are not active, and a
vector register that is neither a destination nor marked stays mapped or not as it was (05 R104-R106). -/
structure RegistersKept (e : Enc) (f : Fields) (act : Mask) (w w' : Warp) : Prop where
  vector : ∀ n l, n ∉ marks e f → n ∉ vectorDests e f ∨ act.has l = false → w'.vreg n l = w.vreg n l
  mapping : ∀ n, n ∉ marks e f → n ∉ vectorDests e f → AMap.get w'.v n = AMap.get w.v n
  uniform : ∀ n, n ∉ uniformDests e f → w'.wreg n = w.wreg n
  predicate : ∀ n l, n ∉ predicateDests w e f ∨ act.has l = false → (w'.preg n).has l = (w.preg n).has l

/-- Lanes outside the bundle keep everything; those inside keep all that `free` does not let go. -/
structure LanesKept (free : Lane → Lane → Lane) (c : Cur) (w w' : Warp) : Prop where
  outside : ∀ l, c.lanes.has l = false → w'.lanes[l]? = w.lanes[l]?
  inside : ∀ (l : Nat) (x : Lane), w.lanes[l]? = some x → ∃ y : Lane, w'.lanes[l]? = some y ∧ y = free x y

/-- A lane that has moved: where it is may differ, and nothing else. -/
def moved (x y : Lane) : Lane :=
  { x with pc := y.pc, hdr := y.hdr, stage := y.stage, way := y.way, bundle := y.bundle, changed := y.changed }

/-- A warp whose registers, lanes, reservations and clock may differ, and what it has in flight, of which a result that the
instruction reads takes its update (13 R308), and nothing else. -/
def resulting (w w' : Warp) : Warp :=
  { w with v := w'.v, w := w'.w, p := w'.p, lanes := w'.lanes, res := w'.res, pts := w'.pts, flight := w'.flight }

/-- The mode register keeps all but flags, which are only raised (02 R33). -/
def onlyRaises (m m' : Word) : Prop := m' &&& ~~~0x1F00#64 = m &&& ~~~0x1F00#64 ∧ m' &&& m = m

/-- Every other warp is as it was. -/
def OthersKept (wid : Nat) (s t : State) : Prop := ∀ k, k ≠ wid → t.warp? k = s.warp? k

/-- The bytes of a queue's line that its pops and pushes write: the descriptor, and for `n` pushes the places from its tail
(09 R197). -/
def ringByte (a : Allot) (line n off : Nat) : Prop :=
  (line * 128 ≤ off ∧ off < line * 128 + 10)
  ∨ ∃ j, j < n ∧ ringOff line ((a.desc line).place ((a.desc line).tail + j)) ≤ off
      ∧ off < ringOff line ((a.desc line).place ((a.desc line).tail + j)) + 8

/-- The line of a queue register. -/
def lineOfQueue (w : Warp) (q : Option Nat) : Option Nat := (q.bind (AMap.get w.q)).map (·.line)

/-- Queue operands touch their warp's allotment alone, and there the bytes of their queues alone. -/
def RingsKept (wid : Nat) (w : Warp) (e : Enc) (f : Fields) (n : Nat) (s t : State) : Prop :=
  ∀ id a, AMap.get s.allots id = some a → ∃ a', AMap.get t.allots id = some a' ∧
    ∀ off, ((s.allotOf wid w).map (·.1) = some id →
        (∀ line, lineOfQueue w (ringOps e f).1 = some line → ¬ ringByte a line 0 off)
        ∧ ∀ line, lineOfQueue w (ringOps e f).2 = some line → ¬ ringByte a line n off) →
      Memory.read a'.mem off = Memory.read a.mem off

/-- What an instruction that computes registers leaves: with no queue operand, nothing but its warp changes, and its warp as
`rest` says. -/
structure OnlyRegisters (e : Enc) (f : Fields) (c : Cur) (act : Mask) (rest : Cur → Warp → Warp → Prop) (s t : State) :
    Prop where
  warp : ∀ w, s.warp? c.wid = some w → ∃ w', t.warp? c.wid = some w' ∧ RegistersKept e f act w w' ∧ rest c w w'
    ∧ (ringOps e f = (none, none) → w'.pts = w.pts) ∧ RingsKept c.wid w e f act.count s t
  others : OthersKept c.wid s t
  memory : ∀ a, Memory.read t.mem a = Memory.read s.mem a
  rings : t = { s with warps := t.warps, allots := t.allots, cores := t.cores, free := t.free }
  still : ringOps e f = (none, none) → t = { s with warps := t.warps }

/-- No flag, no status and no special register changes. -/
def quiet (c : Cur) (w w' : Warp) : Prop := LanesKept moved c w w' ∧ w' = resulting w w'

/-- Flags may be raised. -/
def flagging (c : Cur) (w w' : Warp) : Prop :=
  LanesKept moved c w w' ∧ onlyRaises w.mode w'.mode ∧ w' = { resulting w w' with mode := w'.mode }

/-- Flags may be raised, and the lanes' stochastic-rounding states move on. -/
def rounding (c : Cur) (w w' : Warp) : Prop :=
  LanesKept (fun x y => { moved x y with sr := y.sr }) c w w' ∧ onlyRaises w.mode w'.mode
  ∧ w' = { resulting w w' with mode := w'.mode }

/-- The lanes' stochastic-rounding states are set. -/
def seeding (c : Cur) (w w' : Warp) : Prop :=
  LanesKept (fun x y => { moved x y with sr := y.sr }) c w w' ∧ w' = resulting w w'

/-- The mode register is set. -/
def moding (c : Cur) (w w' : Warp) : Prop := LanesKept moved c w w' ∧ w' = { resulting w w' with mode := w'.mode }

/-- ZLANE is cleared. -/
def clearing (c : Cur) (w w' : Warp) : Prop := LanesKept moved c w w' ∧ w' = { resulting w w' with zlane := false }

/-- HVEC or TEPC is set. -/
def saving (c : Cur) (w w' : Warp) : Prop :=
  LanesKept moved c w w' ∧ w' = { resulting w w' with hvec := w'.hvec, tepc := w'.tepc }

/-- Instructions with what they may change of their warp beside destinations. -/
structure Keeper where
  rows : List Row
  rest : Cur → Warp → Warp → Prop

/-- Every instruction that computes registers, special registers or status (04-07, 18). -/
def computing : List Keeper :=
  [⟨moveRows ++ predicateRows ++ voteRows ++ matchRows ++ permuteRows ++ arithmeticRows ++ shiftRows ++ logicRows
      ++ compareRows, quiet⟩,
   ⟨specialRows.take 1 ++ (classRows.drop 1).take 2 ++ (modeRows.drop 4).take 1 ++ (handlerRows.drop 1).take 1
      ++ handlerRows.drop 4, quiet⟩,
   ⟨reduceRows ++ scanRows ++ floatRows ++ classRows.take 1 ++ complexRows ++ functionRows, flagging⟩,
   ⟨classRows.drop 3, rounding⟩,
   ⟨modeRows.take 4 ++ (modeRows.drop 5).take 1, moding⟩,
   ⟨modeRows.drop 6, seeding⟩,
   ⟨specialRows.drop 1, clearing⟩,
   ⟨(handlerRows.drop 2).take 2, saving⟩]

/-- A slot of the part: 320 cores of 64 warps (01 R14). -/
def isSlot (wid : Nat) : Prop := wid < 320 * 64

/-- Every bundle that runs one of the instructions leaves all but what it may change. -/
def Keeper.Holds (k : Keeper) : Prop :=
  ∀ r ∈ k.rows, ∀ (f : Fields) (s s1 t : State) (c : Cur) (push : Option (Nat × Nat)) (i : Iss),
    r.Runs f s s1 c push i → isSlot c.wid → exec (r.ins f) s = .next t → OnlyRegisters r.enc f c i.act k.rest s t

/-- What a transfer leaves: every register but the link, the lanes outside its bundle, memory, and every unit but those that
fetch and translate. -/
structure OnlyMoves (e : Enc) (f : Fields) (c : Cur) (act : Mask) (s t : State) : Prop where
  warp : ∀ w, s.warp? c.wid = some w → ∃ w', t.warp? c.wid = some w' ∧ RegistersKept e f act w w'
    ∧ LanesKept (fun x y => { moved x y with held := y.held }) c w w'
    ∧ w' = { w with v := w'.v, w := w'.w, lanes := w'.lanes, res := w'.res, flight := w'.flight }
  others : OthersKept c.wid s t
  memory : ∀ a, Memory.read t.mem a = Memory.read s.mem a
  rest : t = { s with warps := t.warps, cores := t.cores, clusters := t.clusters, free := t.free }

/-- Branches, jumps, calls, NOP and JOIN (04 R90-R92, R95). -/
def movingRows : List Row := branchRows ++ flowRows.take 2

/-! ### Memory -/

/-- One byte of memory, or of an allotment. -/
def State.place (s : State) (al : Option Nat) (a : Nat) : Option Byte :=
  match al with
  | none => some (Memory.read s.mem a)
  | some id => (AMap.get s.allots id).map fun x => Memory.read x.mem a

/-- A byte among the `n` that a store at a physical address writes: in memory, or in the allotment whose registered granule
serves the address (08 R188). -/
def storedTo (s : State) (pa n : Nat) (al : Option Nat) (a : Nat) : Prop :=
  match s.mappedAt pa with
  | some (id, off) => al = some id ∧ off ≤ a ∧ a < off + n
  | none => al = none ∧ pa ≤ a ∧ a < pa + n

/-- A byte that stores of `n` bytes at physical addresses may change: one of theirs, or of an open exact slot that one of
them overlaps, whose tailrace is written first (12 R283). -/
def mayChange (s : State) (pas : List Nat) (n : Nat) (al : Option Nat) (a : Nat) : Prop :=
  ∃ pa ∈ pas, storedTo s pa n al a
    ∨ ∃ k ∈ s.slotsOver pa n, ∃ x, (k, x) ∈ s.slots ∧ storedTo s k x.size al a

/-- A byte of memory in a sector that a level holds ahead of those behind it, which an error has made older (12 R288): when that level
drops the sector, memory falls back to them. -/
def mayFallBack (s : State) (al : Option Nat) (a : Nat) : Prop :=
  al = none ∧ ((AMap.get s.l2 (lineOf a)).any (fun l => (l.half a).ahead) = true
    ∨ (AMap.get s.msc (lineOf a)).any (fun m => (m.half a).ahead) = true)

/-- Every byte of memory and of every allotment is as it was, but where an error has left memory behind its caches. -/
def BytesKept (s t : State) : Prop := ∀ al a, ¬ mayFallBack s al a → State.place t al a = State.place s al a

/-- Every byte that those stores do not reach is as it was, with the same exception. -/
def BytesKeptBut (s t : State) (pas : List Nat) (n : Nat) : Prop :=
  ∀ al a, ¬ mayChange s pas n al a → ¬ mayFallBack s al a → State.place t al a = State.place s al a

/-- What a memory instruction leaves of its warp beside registers: its lanes move on, its clock does not fall, and what it has
in flight and counts may change. -/
structure OnlyAccesses (e : Enc) (f : Fields) (c : Cur) (act : Mask) (s t : State) : Prop where
  warp : ∀ w, s.warp? c.wid = some w → ∃ w', t.warp? c.wid = some w' ∧ RegistersKept e f act w w' ∧ LanesKept moved c w w'
    ∧ w.pts ≤ w'.pts
    ∧ w' = { resulting w w' with counters := w'.counters, owed := w'.owed }
  others : OthersKept c.wid s t

/-- LD, LDX, LDS, PREF, ESYNC and PROBE: they read memory and store nothing. -/
def readingRows : List Row :=
  loadAccessors.map Accessor.row ++ scratchpadRows.take 1 ++ prefetchRows ++ syncRows

/-- Instructions whose own effect stores nothing, though an engine may store for them later: engine commands, queue bindings
and looks, counters and barriers, matrix instructions, and builder commands. -/
def sendingRows : List Row :=
  scratchpadRows.drop 2 ++ queueRows.take 3 ++ (queueRows.drop 6).take 2 ++ barrierRows ++ bulkRows ++ matrixRows
    ++ builderRows.take 4

/-- ST, STX, ATOM, ATOMR and RED (12 R291, R293, R294). -/
def storingAccessors : List Accessor := storeAccessors ++ updateAccessors

/-- A byte that STS may change in the allotment `id`: one of the bytes a lane stores, which go to memory where a registered
granule holds them (08 R188). -/
def stsMayChange (i : Iss) (s : State) (id : Nat) (a : Allot) (al : Option Nat) (x : Nat) : Prop :=
  ∃ l ∈ i.act.lanes, match a.paOf (spAddr i 0 1 l).toNat with
    | some pa => mayChange s [pa] (accessBytes i.f.ty) al x
    | none => al = some id ∧ (spAddr i 0 1 l).toNat ≤ x ∧ x < (spAddr i 0 1 l).toNat + accessBytes i.f.ty

end Sys2Proof.Safety
end

