-- ==== Sys2Proof/Safety/Rules.lean ====
section
/-! DEFINITION. The results of integer, logic and address instructions and of the mode register, in the words of their rules (06 R135-R150, 07 R158, R159). -/
namespace Sys2Proof.Safety
open Sys2Proof.Machine

/-! ### Elements -/

/-- Element `k` of operand `o` at lane `l`, as bits. -/
def elemOf (i : Iss) (o l k : Nat) : Nat := elemAt i.f.ty.width (i.src o l) k

/-- The same, as its type reads it: two's complement for .i, unsigned for the others (06 R131). -/
def valueOf (i : Iss) (o l k : Nat) : Int := i.f.ty.toInt (elemOf i o l k)

/-- An amount: an immediate stands for itself in every element (06 R132). -/
def amountOf (i : Iss) (o l k : Nat) : Nat :=
  match i.op o with
  | .imm x => x.toNat
  | _ => elemOf i o l k

/-- A lane whose element `k` is `g k` modulo 2^w, with the fill of its type above (02 R22, R23). -/
def elements (i : Iss) (x : Word) (g : Nat → Int) : Prop :=
  (∀ k, k < i.f.ty.count → elemAt i.f.ty.width x k = wrapTo i.f.ty.width (g k)) ∧ i.f.ty.fill x = x

/-- A lane whose element `k` has bit `b` as `g k b` says, with the fill of its type above. -/
def elementBits (i : Iss) (x : Word) (g : Nat → Nat → Bool) : Prop :=
  (∀ k, k < i.f.ty.count → ∀ b, b < i.f.ty.width → (elemAt i.f.ty.width x k).testBit b = g k b) ∧ i.f.ty.fill x = x

/-- An exact value, clamped to the type's range with saturate 1 (02 R24). -/
def narrowed (i : Iss) (v : Int) : Int :=
  if i.f.sat then clampInt (rangeLo i.f.ty.signed i.f.ty.width) (rangeHi i.f.ty.signed i.f.ty.width) v else v

/-! ### What it is for an instruction to follow a rule -/

/-- For every bundle that runs the instruction, whose writes name the registers that `shape` names, exec answers the next state
with writes for which the rule holds, and the bundle goes past the instruction. -/
def Follows (ins : Fields → Instr) (enc : Enc) (shape : Iss → List Wr) (rule : Iss → List Wr → Prop) : Prop :=
  ∀ (f : Fields) (s s1 : State) (c : Cur) (push : Option (Nat × Nat)) (i : Iss),
    (row ins enc (writes shape)).Runs f s s1 c push i →
    ∃ ws, rule i ws ∧ exec (ins f) s = .next (s1.finish enc f c push ws fun w => w.advance c c.lanes)

/-- The same for one value a lane, written to operand 0. -/
def Computes (ins : Fields → Instr) (enc : Enc) (rule : Iss → Nat → Word → Prop) : Prop :=
  Follows ins enc (fun i => i.dest fun _ => 0) fun i ws => ∃ v : Nat → Word, ws = i.dest v ∧ ∀ l, rule i l (v l)

/-! ### Sums, products, quotients, minima (06 R135-R139) -/

def sumRule (i : Iss) (l : Nat) (x : Word) : Prop :=
  elements i x fun k => narrowed i (valueOf i 1 l k + valueOf i 2 l k)
def differenceRule (i : Iss) (l : Nat) (x : Word) : Prop :=
  elements i x fun k => narrowed i (valueOf i 1 l k - valueOf i 2 l k)
def productRule (i : Iss) (l : Nat) (x : Word) : Prop :=
  elements i x fun k => narrowed i (valueOf i 1 l k * valueOf i 2 l k)
def productSumRule (i : Iss) (l : Nat) (x : Word) : Prop :=
  elements i x fun k => narrowed i (valueOf i 1 l k * valueOf i 2 l k + valueOf i 3 l k)

/-- Bits [2w−1:w] of the product; .su reads B unsigned (R136). -/
def upperRule (su : Bool) (i : Iss) (l : Nat) (x : Word) : Prop :=
  elements i x fun k =>
    valueOf i 1 l k * (if su then (elemOf i 2 l k : Int) else valueOf i 2 l k) / (2 ^ i.f.ty.width : Nat)

/-- IMADW: `c` is 0 for .lo and 1 for .hi (R137). -/
def wideRule (c : Nat) (i : Iss) (l : Nat) (x : Word) : Prop :=
  let w := i.f.ty.width
  let h := i.f.ty.count / 2
  ∀ k, k < h →
    let ck : Int := if i.f.ty.signed then toSigned (2 * w) (elemAt (2 * w) (i.src 3 l) k) else elemAt (2 * w) (i.src 3 l) k
    let v := valueOf i 1 l (h * c + k) * valueOf i 2 l (h * c + k) + ck
    elemAt (2 * w) x k =
      wrapTo (2 * w) (if i.f.sat then clampInt (rangeLo i.f.ty.signed (2 * w)) (rangeHi i.f.ty.signed (2 * w)) v else v)

/-- IDIV (R138). -/
def quotientRule (i : Iss) (l : Nat) (x : Word) : Prop :=
  let w := i.f.ty.width
  elements i x fun k =>
    let a := valueOf i 1 l k
    let b := valueOf i 2 l k
    if b = 0 then (2 ^ w : Nat) - 1
    else if i.f.ty.signed = true ∧ a = -(2 ^ (w - 1) : Nat) ∧ b = -1 then
      if i.f.sat then (2 ^ (w - 1) : Nat) - 1 else -(2 ^ (w - 1) : Nat)
    else a.tdiv b

/-- IREM (R138). -/
def remainderRule (i : Iss) (l : Nat) (x : Word) : Prop :=
  let w := i.f.ty.width
  elements i x fun k =>
    let a := valueOf i 1 l k
    let b := valueOf i 2 l k
    if b = 0 then a
    else if i.f.ty.signed = true ∧ a = -(2 ^ (w - 1) : Nat) ∧ b = -1 then 0
    else a - a.tdiv b * b

def minimumRule (i : Iss) (l : Nat) (x : Word) : Prop := elements i x fun k => min (valueOf i 1 l k) (valueOf i 2 l k)
def maximumRule (i : Iss) (l : Nat) (x : Word) : Prop := elements i x fun k => max (valueOf i 1 l k) (valueOf i 2 l k)

/-- IABS (R139). -/
def absoluteRule (i : Iss) (l : Nat) (x : Word) : Prop :=
  let w := i.f.ty.width
  elements i x fun k =>
    let a := valueOf i 1 l k
    if a = -(2 ^ (w - 1) : Nat) then if i.f.sat then (2 ^ (w - 1) : Nat) - 1 else -(2 ^ (w - 1) : Nat) else a.natAbs

/-! ### Shifts (06 R140, R141) -/

/-- SHL (Table 6.3). -/
def shiftLeftRule (i : Iss) (l : Nat) (x : Word) : Prop :=
  let w := i.f.ty.width
  elements i x fun k =>
    let a := valueOf i 1 l k
    let n := amountOf i 2 l k
    if i.f.sat then
      if n < w then narrowed i (a * (2 ^ n : Nat))
      else if a = 0 then 0
      else if a < 0 then rangeLo i.f.ty.signed w else rangeHi i.f.ty.signed w
    else if n < w then (elemOf i 1 l k * 2 ^ n : Nat) else 0

/-- SHR: zeros in. -/
def shiftRightRule (i : Iss) (l : Nat) (x : Word) : Prop :=
  elementBits i x fun k b =>
    decide (b + amountOf i 2 l k < i.f.ty.width) && (elemOf i 1 l k).testBit (b + amountOf i 2 l k)

/-- SAR: copies of bit w − 1 in. -/
def shiftArithmeticRule (i : Iss) (l : Nat) (x : Word) : Prop :=
  elementBits i x fun k b => (elemOf i 1 l k).testBit (min (b + amountOf i 2 l k) (i.f.ty.width - 1))

/-- ROT: bit `b` comes from `b` less, or plus, the amount modulo w. -/
def rotateRule (right : Bool) (i : Iss) (l : Nat) (x : Word) : Prop :=
  let w := i.f.ty.width
  elementBits i x fun k b =>
    let n := amountOf i 2 l k % w
    (elemOf i 1 l k).testBit ((if right then b + n else b + w - n) % w)

/-- FSHL of the pair A above B (R141). -/
def funnelRule (right : Bool) (i : Iss) (l : Nat) (x : Word) : Prop :=
  let w := i.f.ty.width
  elements i x fun k =>
    let j := min (amountOf i 3 l k) w
    let pair := elemOf i 1 l k * 2 ^ w + elemOf i 2 l k
    ((if right then pair / 2 ^ j else pair * 2 ^ j / 2 ^ w : Nat) : Int)

/-! ### Logic, counts and fields (06 R142-R145) -/

/-- AND, OR, XOR and ANDN bit by bit (R142). -/
def bitwiseRule (g : Bool → Bool → Bool) (i : Iss) (l : Nat) (x : Word) : Prop :=
  elementBits i x fun k b => g ((elemOf i 1 l k).testBit b) ((elemOf i 2 l k).testBit b)

/-- LOP3 by its truth table (R143). -/
def tableRule (i : Iss) (l : Nat) (x : Word) : Prop :=
  elementBits i x fun k b =>
    i.f.mods.getLsbD (4 * ((elemOf i 1 l k).testBit b).toNat + 2 * ((elemOf i 2 l k).testBit b).toNat
      + ((elemOf i 3 l k).testBit b).toNat)

/-- POPC: the number of set bits (R144). -/
def countRule (i : Iss) (l : Nat) (x : Word) : Prop :=
  elements i x fun k => ((List.range i.f.ty.width).countP fun b => (elemOf i 1 l k).testBit b : Nat)

/-- CLZ: the number of zero bits above the highest set bit, or w (R144). -/
def leadingRule (i : Iss) (l : Nat) (x : Word) : Prop :=
  ∃ n : Nat → Nat, (elements i x fun k => (n k : Nat)) ∧ ∀ k, k < i.f.ty.count →
    if elemOf i 1 l k = 0 then n k = i.f.ty.width
    else n k < i.f.ty.width ∧ (elemOf i 1 l k).testBit (i.f.ty.width - 1 - n k) = true
      ∧ ∀ b, i.f.ty.width - 1 - n k < b → (elemOf i 1 l k).testBit b = false

/-- CTZ: the number of zero bits below the lowest set bit, or w (R144). -/
def trailingRule (i : Iss) (l : Nat) (x : Word) : Prop :=
  ∃ n : Nat → Nat, (elements i x fun k => (n k : Nat)) ∧ ∀ k, k < i.f.ty.count →
    if elemOf i 1 l k = 0 then n k = i.f.ty.width
    else (elemOf i 1 l k).testBit (n k) = true ∧ ∀ b, b < n k → (elemOf i 1 l k).testBit b = false

/-- BREV: bit i moved to bit w − 1 − i (R144). -/
def reversedRule (i : Iss) (l : Nat) (x : Word) : Prop :=
  elementBits i x fun k b => (elemOf i 1 l k).testBit (i.f.ty.width - 1 - b)

/-- The clamped position and length of a field (R145). -/
def fieldAt (i : Iss) (o l k : Nat) : Nat × Nat :=
  let p := min (amountOf i o l k) i.f.ty.width
  (p, min (amountOf i (o + 1) l k) (i.f.ty.width - p))

/-- BFX (R145). -/
def extractRule (i : Iss) (l : Nat) (x : Word) : Prop :=
  elements i x fun k =>
    let (p, n) := fieldAt i 2 l k
    let g := elemOf i 1 l k / 2 ^ p % 2 ^ n
    if n = 0 then 0 else if i.f.ty.signed then toSigned n g else g

/-- BFI (R145). -/
def insertRule (i : Iss) (l : Nat) (x : Word) : Prop :=
  elementBits i x fun k b =>
    let (p, n) := fieldAt i 3 l k
    if p ≤ b ∧ b < p + n then (elemOf i 2 l k).testBit (b - p) else (elemOf i 1 l k).testBit b

/-! ### Compares, carries, addresses, differences, add-compare-select (06 R146-R150) -/

/-- ICMP: its operation on the values of a lane (R146). -/
def compareHolds (i : Iss) (l : Nat) : Bool :=
  let a := valueOf i 1 l 0
  let b := valueOf i 2 l 0
  match i.f.variant.toNat with
  | 0 => elemOf i 1 l 0 == elemOf i 2 l 0
  | 1 => elemOf i 1 l 0 != elemOf i 2 l 0
  | 2 => a < b
  | 3 => a ≤ b
  | 4 => b < a
  | _ => b ≤ a

/-- The exact sum or difference of IADDC (R147). -/
def carried (borrow : Bool) (i : Iss) (l : Nat) : Int :=
  let a : Int := elemOf i 2 l 0
  let b : Int := elemOf i 3 l 0
  let ci : Int := match i.op 4 with
    | .p n => if (i.w.preg n.toNat).has l then 1 else 0
    | _ => 0
  if borrow then a - b - ci else a + b + ci

/-- IADDC writes the wrapped sum, and the carry or borrow where operand 1 names a predicate (R147). -/
def carryRule (borrow : Bool) (i : Iss) (ws : List Wr) : Prop :=
  ∃ v : Nat → Word, ws = i.dest v ++ decisions i 1 (fun l _ =>
      if borrow then carried borrow i l < 0 else (2 ^ i.f.ty.width : Nat) ≤ carried borrow i l)
    ∧ ∀ l, elements i (v l) fun _ => carried borrow i l

/-- LEA (R148). -/
def addressRule (i : Iss) (l : Nat) (x : Word) : Prop :=
  let n : Int := match i.f.ty with
    | .i32 => toSigned 32 (i.src 2 l).toNat
    | .n32 => ((i.src 2 l).toNat % 2 ^ 32 : Nat)
    | _ => (i.src 2 l).toNat
  x = BitVec.ofInt 64 ((i.src 1 l).toNat + n * (2 ^ (i.src 3 l).toNat : Nat) + (i.src 4 l).toNat)

/-- SAD (R149). -/
def differencesRule (i : Iss) (l : Nat) (x : Word) : Prop :=
  let v := (i.src 3 l).toNat
    + ((List.range i.f.ty.count).map fun k => (valueOf i 1 l k - valueOf i 2 l k).natAbs).sum
  x = BitVec.ofNat 64 (if i.f.sat then min v (2 ^ 64 - 1) else v)

/-- One element of ACS: the candidates, and whether y is taken (R150). -/
def candidates (mp : Bool) (i : Iss) (l k : Nat) : Int × Int × Bool :=
  let a := valueOf i 2 l k
  let b := valueOf i 3 l k
  let m := valueOf i 4 l k
  let to16 (v : Int) : Int := if i.f.sat then clampInt (-32768) 32767 v else toSigned 16 (wrapTo 16 v)
  let x := to16 (if mp then a - m else a + m)
  let y := to16 (if mp then b + m else b - m)
  let d := if i.f.mods.getLsbD 1 then toSigned 16 (wrapTo 16 (x - y)) else x - y
  (x, y, if i.f.mods.getLsbD 0 then decide (d < 0) else decide (0 < d))

/-- ACS writes the survivors and its four decisions (R150). -/
def selectRule (mp : Bool) (i : Iss) (ws : List Wr) : Prop :=
  ∃ v : Nat → Word, ws = i.dest v ++ decisions i 4 (fun l k => (candidates mp i l k).2.2)
    ∧ ∀ l, elements i (v l) fun k =>
      if (candidates mp i l k).2.2 then (candidates mp i l k).2.1 else (candidates mp i l k).1

/-! ### The mode register (07 R158, R159) -/

/-- The value MODESET leaves: its fields as the variant writes them, 0 `.all`, 1 `.rm`, 2 `.ftz`, 3 `.fclr`, and reserved bits
zero where they were (07 Table 7.2, R158). -/
def modeAfter (variant : Nat) (v m m' : Word) : Prop :=
  modeRm m' = (if variant ≤ 1 ∧ (v.extractLsb' 0 3).toNat ≤ 4 then v.extractLsb' 0 3 else modeRm m)
  ∧ modeFtz m' = (if variant = 0 then v.getLsbD 3 else if variant = 2 then v.getLsbD 0 else modeFtz m)
  ∧ modeFlags m' = (if variant = 0 then v.extractLsb' 8 5
      else if variant = 3 then modeFlags m &&& ~~~(v.extractLsb' 8 5) else modeFlags m)
  ∧ (m &&& ~~~0x1F0F#64 = 0 → m' &&& ~~~0x1F0F#64 = 0)

/-- MODESET of a variant: with an active lane, exec answers the next state with the mode register so written. -/
def SetsMode (ins : Fields → Instr) (enc : Enc) (variant : Nat) : Prop :=
  ∀ (f : Fields) (s s1 : State) (c : Cur) (push : Option (Nat × Nat)) (i : Iss),
    (row ins enc (writes fun _ => [])).Runs f s s1 c push i → isSlot c.wid →
    ∃ t w, exec (ins f) s = .next t ∧ t.warp? c.wid = some w ∧ modeAfter variant (i.uni 0) i.w.mode w.mode

/-- MODESET with no active lane writes nothing and sets ZLANE; its source is uniform, so that no strict read or queue stops
it. -/
def LeavesMode (ins : Fields → Instr) (enc : Enc) : Prop :=
  ∀ (f : Fields) (s : State) (c : Cur) (w : Warp), s.cur = some c → s.warp? c.wid = some w → w.sending = none → isSlot c.wid →
    Enc.legal w.width w.nw enc f = true → w.interlocked enc f = false → w.faultPcs.contains c.pc = false →
    s.ringBinding c.wid w enc f = none → (w.strict = true → (vectorSources enc f).all w.mapped = true) →
    activeLanes w f c.lanes = 0 →
    ∃ t w', exec (ins f) s = .next t ∧ t.warp? c.wid = some w' ∧ w'.mode = w.mode ∧ w'.zlane = true

end Sys2Proof.Safety
end

