-- ==== Sys2Proof/Safety/Rounding.lean ====
section
/-! DEFINITION. The results of floating-point and complex instructions in the words of their rules: exact values as rationals, rounded once (02 R26-R34, 07 R160-R172). -/
namespace Sys2Proof.Safety
open Sys2Proof.Machine

/-! ### Values (02 R26, R28, Table 2.3) -/

/-- 2^e. -/
def twoTo (e : Int) : Rat := if 0 ≤ e then ((2 ^ e.toNat : Nat) : Rat) else 1 / ((2 ^ (-e).toNat : Nat) : Rat)

/-- The magnitude that the exponent and fraction fields `k` stand for. The code above the greatest finite one stands for what would
follow it, were the exponents to go on. -/
def codeValue (F : Fmt) (k : Nat) : Rat :=
  let ex := k / 2 ^ F.mbits
  let fr := k % 2 ^ F.mbits
  if ex = 0 then (fr : Rat) * twoTo (1 - (F.bias : Int) - F.mbits)
  else ((2 ^ F.mbits + fr : Nat) : Rat) * twoTo ((ex : Int) - F.bias - F.mbits)

/-- What an encoding stands for: a NaN, signalling or not, an infinity, or a sign and a magnitude. -/
inductive Reading where
  | nan (signalling : Bool)
  | inf (neg : Bool)
  | num (neg : Bool) (v : Rat)

/-- The format has infinities (Table 2.3). -/
def hasInf (F : Fmt) : Bool := F.kind == .ieee || F.kind == .ieeeQuiet

/-- An encoding read: above the greatest finite code stand the infinity, where there is one, and the NaNs; a NaN of binary32, binary16
and BF16 is quiet where the highest fraction bit is 1, and every other NaN is quiet (02 R28). -/
def reading (F : Fmt) (x : Nat) : Reading :=
  let neg := x.testBit (F.ebits + F.mbits)
  let k := x % 2 ^ (F.ebits + F.mbits)
  if F.maxBits < k then
    if hasInf F = true ∧ k = F.maxBits + 1 then .inf neg else .nan (F.kind == .ieee && !k.testBit (F.mbits - 1))
  else .num neg (codeValue F k)

/-- An input read, a subnormal as a zero of its sign under FTZ (02 R32). -/
def inputAs (i : Iss) (F : Fmt) (x : Nat) : Reading := reading F (F.flushIn i.env.ftz x)

/-- A signalling NaN. -/
def Reading.signals : Reading → Bool
  | .nan s => s
  | _ => false

/-- The value with its sign turned; a NaN stays as it is. -/
def Reading.negated : Reading → Reading
  | .nan s => .nan s
  | .inf n => .inf (!n)
  | .num n v => .num (!n) v

/-! ### One rounding (02 R29, R30, R32, R33) -/

/-- An exact magnitude, known by how it compares with each rational. -/
abbrev Exact := Rat → Ordering

/-- `a` compared with `b`. -/
def order (a b : Rat) : Ordering := if a < b then .lt else if a = b then .eq else .gt
/-- A rational magnitude. -/
def exactly (v : Rat) : Exact := order v
/-- The root of a rational. -/
def rootOf (v : Rat) : Exact := fun y => order v (y * y)

/-- Toward zero: `k` is the greatest code up to `top` whose value is not above. -/
def Below (val : Nat → Rat) (top : Option Nat) (x : Exact) (k : Nat) : Prop :=
  x (val k) ≠ .lt ∧ (some k ≠ top → x (val (k + 1)) = .lt)
/-- Away from zero: `k` is the least code whose value is not below, or the top one. -/
def Above (val : Nat → Rat) (top : Option Nat) (x : Exact) (k : Nat) : Prop :=
  (some k = top ∨ x (val k) ≠ .gt) ∧ (0 < k → x (val (k - 1)) = .gt)
/-- Nearest: the exact magnitude lies between the midpoints on either side of `k`; one on a midpoint goes to `k` where `tie` says so
of the midpoint below it, or above it. -/
def Nearest (val : Nat → Rat) (top : Option Nat) (x : Exact) (k : Nat) (tieBelow tieAbove : Bool) : Prop :=
  (0 < k → x ((val (k - 1) + val k) / 2) = .gt ∨ tieBelow = true ∧ x ((val (k - 1) + val k) / 2) = .eq)
  ∧ (some k ≠ top → x ((val k + val (k + 1)) / 2) = .lt ∨ tieAbove = true ∧ x ((val k + val (k + 1)) / 2) = .eq)

/-- `k` is the code that an exact magnitude of a sign rounds to in a direction of Table 2.4: RNE gives a tie to the even code, and RNA
to the one away from zero. -/
def RoundsTo (val : Nat → Rat) (top : Option Nat) (rm : Rnd) (neg : Bool) (x : Exact) (k : Nat) : Prop :=
  (∀ t, top = some t → k ≤ t) ∧ match rm with
  | .rne => Nearest val top x k (k % 2 == 0) (k % 2 == 0)
  | .rna => Nearest val top x k true false
  | .rz => Below val top x k
  | .ru => if neg = true then Below val top x k else Above val top x k
  | .rd => if neg = true then Above val top x k else Below val top x k

/-- Tiny after rounding: rounded as though the exponents went one lower, the magnitude lies below the least normal one (02 R33). -/
def Tiny (F : Fmt) (rm : Rnd) (neg : Bool) (x : Exact) : Prop :=
  let G : Fmt := { F with bias := F.bias + 1 }
  ∃ k, RoundsTo (codeValue G) (some (F.maxBits + 1)) rm neg x k ∧ codeValue G k < codeValue F (2 ^ F.mbits)

/-- What an overflow gives in a direction, or with saturate (02 R30). -/
def overflowed (F : Fmt) (rm : Rnd) (sat neg : Bool) : Nat :=
  match F.kind with
  | .finite => F.signed neg F.maxBits
  | .nanOnly => if sat = true then F.signed neg F.maxBits else F.canonNaN
  | .ieee | .ieeeQuiet =>
    let toInf := match rm with
      | .rne | .rna => true
      | .rz => false
      | .ru => !neg
      | .rd => neg
    F.signed neg (if toInf = true ∧ sat = false then F.maxBits + 1 else F.maxBits)

/-- A code as it is delivered: a subnormal one as a zero of its sign under FTZ, with UF and NX (02 R32). -/
def deliveredAs (F : Fmt) (env : FEnv) (neg : Bool) (k : Nat) (fl : FFlags) : Nat × FFlags :=
  if env.ftz = true ∧ F.flushable = true ∧ 0 < k ∧ k < 2 ^ F.mbits then (F.signed neg 0, flagUF ||| flagNX)
  else (F.signed neg k, fl)

/-- An exact magnitude with a sign is rounded once: past the greatest finite one it overflows; else NX is raised where the rounding is
not exact, and UF where it is tiny besides (02 R30, R33). -/
def Rounded (F : Fmt) (env : FEnv) (neg : Bool) (x : Exact) (out : Nat × FFlags) : Prop :=
  ∃ k, RoundsTo (codeValue F) (some (F.maxBits + 1)) env.rm neg x k ∧
    if k = F.maxBits + 1 then out = (overflowed F env.rm env.sat neg, flagOF ||| flagNX)
    else (x (codeValue F k) = .eq → out = deliveredAs F env neg k 0)
      ∧ (x (codeValue F k) ≠ .eq → (Tiny F env.rm neg x → out = deliveredAs F env neg k (flagUF ||| flagNX))
        ∧ (¬ Tiny F env.rm neg x → out = deliveredAs F env neg k flagNX))

/-- What a result's reading gives, with the flags its terms raised: a NaN is canonical, an infinity stays one, or is an overflow where
the format has none, and a number is rounded once (02 R28, R30). -/
def Gives (F : Fmt) (env : FEnv) (r : Reading) (nv : Bool) (out : Nat × FFlags) : Prop :=
  match r with
  | .nan _ => out = (F.canonNaN, if nv = true ∨ F.kind = .finite then flagNV else 0)
  | .inf n => out = if hasInf F = true then (F.signed n (F.maxBits + 1), 0)
      else (overflowed F env.rm env.sat n, flagOF ||| flagNX)
  | .num n v => Rounded F env n (exactly v) out

/-! ### Exact expressions (02 R34) -/

/-- A term and whether it raises invalid. -/
abbrev Term := Reading × Bool

/-- A value as a term: a signalling NaN raises invalid. -/
def Reading.term (r : Reading) : Term := (r, r.signals)

/-- The product of two values: NaN where one is, and where it is ∞ × 0, which raises invalid; its sign is the XOR of theirs. -/
def times (a b : Reading) : Term :=
  let nv := a.signals || b.signals
  match a, b with
  | .nan _, _ => (.nan false, nv)
  | _, .nan _ => (.nan false, nv)
  | .inf n, .inf m => (.inf (n ^^ m), false)
  | .inf n, .num m v => if v = 0 then (.nan false, true) else (.inf (n ^^ m), false)
  | .num n v, .inf m => if v = 0 then (.nan false, true) else (.inf (n ^^ m), false)
  | .num n v, .num m u => (.num (n ^^ m) (v * u), false)

/-- A number with its sign; 0 for the others. -/
def Reading.value : Reading → Rat
  | .num n v => if n = true then -v else v
  | _ => 0

def Reading.isNaN : Reading → Bool
  | .nan _ => true
  | _ => false
def Reading.isInf (neg : Bool) : Reading → Bool
  | .inf n => n == neg
  | _ => false
/-- −0. -/
def Reading.negZero : Reading → Prop
  | .num n v => n = true ∧ v = 0
  | _ => False

/-- `r` is the exact sum of terms: NaN with a NaN among them, and with infinities of both signs, which raise invalid; an infinity
among them; or their sum, where a zero is −0 in RD and where every term is −0, and else +0 (02 R34). -/
def IsSum (rm : Rnd) (ts : List Term) (r : Reading) (nv : Bool) : Prop :=
  let both := ts.any (·.1.isInf false) && ts.any (·.1.isInf true)
  nv = (ts.any (·.2) || both) ∧
  if ts.any (·.1.isNaN) = true ∨ both = true then ∃ s, r = .nan s
  else if ts.any (·.1.isInf false) = true then r = .inf false
  else if ts.any (·.1.isInf true) = true then r = .inf true
  else
    let v := (ts.map (·.1.value)).sum
    if v = 0 then ∃ n, r = .num n 0 ∧ (n = true ↔ rm = .rd ∨ ∀ t ∈ ts, t.1.negZero)
    else r = if v < 0 then .num true (-v) else .num false v

/-- An element that is the sum of terms, rounded once. -/
def SumGives (F : Fmt) (env : FEnv) (ts : List Term) (out : Nat × FFlags) : Prop :=
  ∃ r nv o, IsSum env.rm ts r nv ∧ Gives F env r nv o ∧ out = (o.1, o.2 ||| if nv = true then flagNV else 0)

/-- FDIV of an element (07 R171). -/
def QuotientGives (F : Fmt) (env : FEnv) (a b : Reading) (out : Nat × FFlags) : Prop :=
  match a, b with
  | .nan s, b => out = (F.canonNaN, if s = true ∨ b.signals = true then flagNV else 0)
  | _, .nan s => out = (F.canonNaN, if s = true then flagNV else 0)
  | .inf _, .inf _ => out = (F.canonNaN, flagNV)
  | .inf n, .num m _ => out = (F.signed (n ^^ m) (F.maxBits + 1), 0)
  | .num n _, .inf m => out = (F.signed (n ^^ m) 0, 0)
  | .num n v, .num m u =>
    if u = 0 then out = if v = 0 then (F.canonNaN, flagNV) else (F.signed (n ^^ m) (F.maxBits + 1), flagDZ)
    else Rounded F env (n ^^ m) (exactly (v / u)) out

/-- FSQRT of an element (07 R171). -/
def RootGives (F : Fmt) (env : FEnv) (a : Reading) (out : Nat × FFlags) : Prop :=
  match a with
  | .nan s => out = (F.canonNaN, if s = true then flagNV else 0)
  | .inf n => out = if n = true then (F.canonNaN, flagNV) else (F.signed false (F.maxBits + 1), 0)
  | .num n v =>
    if v = 0 then out = (F.signed n 0, 0)
    else if n = true then out = (F.canonNaN, flagNV) else Rounded F env false (rootOf v) out

/-- FSCALE of an element by 2^n (07 R169). -/
def ScaleGives (F : Fmt) (env : FEnv) (a : Reading) (n : Int) (out : Nat × FFlags) : Prop :=
  match a with
  | .num s v => Rounded F env s (exactly (v * twoTo n)) out
  | r => Gives F env r r.signals out

/-! ### Lanes -/

/-- A lane whose element `k` is as `g` says, with the fill of its type above, and the flags of all of them (02 R22, R23, R33). -/
def floatElements (t : Ty) (x : Word × FFlags) (g : Nat → Nat × FFlags → Prop) : Prop :=
  ∃ e : Nat → Nat × FFlags, (∀ k, k < t.count → g k (e k) ∧ elemAt t.width x.1 k = (e k).1) ∧ t.fill x.1 = x.1
    ∧ x.2 = flagsOf ((List.range t.count).map fun k => (e k).2)

/-- For every bundle that runs the instruction, exec answers the next state with a value and flags for each lane for which the rule
holds: the values written to operand 0, the flags of the lanes computed accrued in the mode register, and the bundle past the
instruction. -/
def ComputesFloat (ins : Fields → Instr) (enc : Enc) (rule : Iss → Nat → Word × FFlags → Prop) : Prop :=
  ∀ (f : Fields) (s s1 : State) (c : Cur) (push : Option (Nat × Nat)) (i : Iss),
    (row ins enc (writes fun i => i.dest fun _ => 0)).Runs f s s1 c push i →
    ∃ val : Nat → Word × FFlags, (∀ l, rule i l (val l)) ∧
      exec (ins f) s = .next ((accrued i s1 (flagsOf ((computed i).map fun l => (val l).2))).finish enc f c push
        (i.dest fun l => (val l).1) fun w => w.advance c c.lanes)

/-- The format of the instruction's elements. -/
def formatOf (i : Iss) : Fmt := fmtOf i.f.ty

/-- Element `k` of operand `o` at lane `l`, read. -/
def readAt (i : Iss) (o l k : Nat) : Reading := inputAs i (formatOf i) (elemOf i o l k)

def fsumRule (negate : Bool) (i : Iss) (l : Nat) (x : Word × FFlags) : Prop :=
  floatElements i.f.ty x fun k out =>
    let b := readAt i 2 l k
    SumGives (formatOf i) i.env [(readAt i 1 l k).term, (if negate then b.negated else b).term] out
/-- FMUL: a zero product has the XOR of the signs (07 R160). -/
def fproductRule (i : Iss) (l : Nat) (x : Word × FFlags) : Prop :=
  floatElements i.f.ty x fun k out =>
    let p := times (readAt i 1 l k) (readAt i 2 l k)
    Gives (formatOf i) i.env p.1 p.2 out
def fusedRule (i : Iss) (l : Nat) (x : Word × FFlags) : Prop :=
  floatElements i.f.ty x fun k out =>
    SumGives (formatOf i) i.env [times (readAt i 1 l k) (readAt i 2 l k), (readAt i 3 l k).term] out
def fquotientRule (i : Iss) (l : Nat) (x : Word × FFlags) : Prop :=
  floatElements i.f.ty x fun k out => QuotientGives (formatOf i) i.env (readAt i 1 l k) (readAt i 2 l k) out
def frootRule (i : Iss) (l : Nat) (x : Word × FFlags) : Prop :=
  floatElements i.f.ty x fun k out => RootGives (formatOf i) i.env (readAt i 1 l k) out
/-- FSCALE: the power is the element as a signed integer, and an immediate one (07 R169). -/
def fscaleRule (i : Iss) (l : Nat) (x : Word × FFlags) : Prop :=
  floatElements i.f.ty x fun k out =>
    ScaleGives (formatOf i) i.env (readAt i 1 l k) (match i.op 2 with
      | .imm n => n.toInt
      | _ => toSigned i.f.ty.width (elemOf i 2 l k)) out

/-- Element `k` of FDOT2's addend, a binary32, an immediate one too (07 R152, R170). -/
def addendAt (i : Iss) (l k : Nat) : Reading :=
  inputAs i fmtF32 (match i.op 3 with
    | .imm n => fmtF32.immBits n
    | _ => elemAt 32 (i.src 3 l) k)
/-- FDOT2: binary32 results, two of a lane of halves, and one of a lane of binary32 (07 R170). -/
def fdotRule (i : Iss) (l : Nat) (x : Word × FFlags) : Prop :=
  floatElements (if i.f.ty = .f32x2 then .f32 else .f32x2) x fun k out =>
    SumGives fmtF32 i.env [times (readAt i 1 l (2 * k)) (readAt i 2 l (2 * k)),
      times (readAt i 1 l (2 * k + 1)) (readAt i 2 l (2 * k + 1)), (addendAt i l k).term] out

/-- The real part, and the imaginary part, of operand `o`. -/
def partAt (i : Iss) (o l k : Nat) : Reading := inputAs i fmtF32 (elemAt 32 (i.src o l) k)
/-- A × B + C of complex numbers, with B conjugated or not and C there or not: each part one exact sum (02 Table 2.6, 07 R172). -/
def complexRule (conj addend : Bool) (i : Iss) (l : Nat) (x : Word × FFlags) : Prop :=
  floatElements .f32x2 x fun k out =>
    let a := partAt i 1 l
    let b := partAt i 2 l
    let c := if addend then [(partAt i 3 l k).term] else []
    let signed (minus : Bool) (t : Term) : Term := if minus then (t.1.negated, t.2) else t
    if k = 0 then SumGives fmtF32 i.env ([times (a 0) (b 0), signed (!conj) (times (a 1) (b 1))] ++ c) out
    else SumGives fmtF32 i.env ([signed conj (times (a 0) (b 1)), times (a 1) (b 0)] ++ c) out
/-- CABS2: |A|² and +0 (07 R172). -/
def magnitudeRule (i : Iss) (l : Nat) (x : Word × FFlags) : Prop :=
  let a := partAt i 1 l
  floatElements .f32 x fun _ out => SumGives fmtF32 i.env [times (a 0) (a 0), times (a 1) (a 1)] out

/-! ### Minima, compares and integral values (05 R127, 07 R161, R162, R164) -/

/-- Numbers and infinities compared, −0 equal to +0. -/
def Reading.against : Reading → Reading → Ordering
  | .inf a, .inf b => if a = b then .eq else if a = true then .lt else .gt
  | .inf a, _ => if a = true then .lt else .gt
  | _, .inf b => if b = true then .gt else .lt
  | a, b => order a.value b.value

/-- `x` orders below `y`, −0 below +0 (05 R127). -/
def ordersBelow (F : Fmt) (x y : Nat) : Prop :=
  match (reading F x).against (reading F y) with
  | .lt => True
  | .eq => x.testBit (F.ebits + F.mbits) = true ∧ y.testBit (F.ebits + F.mbits) = false
  | .gt => False

/-- FMIN, or FMAX: the operand below, or above, which no NaN is where the other operand is a number (05 R127, 07 R161). -/
def fleastRule (most : Bool) (i : Iss) (l : Nat) (x : Word × FFlags) : Prop :=
  floatElements i.f.ty x fun k out =>
    let F := formatOf i
    let a := F.flushIn i.env.ftz (elemOf i 1 l k)
    let b := F.flushIn i.env.ftz (elemOf i 2 l k)
    let na := (reading F a).isNaN
    let nb := (reading F b).isNaN
    out.2 = (if (reading F a).signals = true ∨ (reading F b).signals = true then flagNV else 0)
    ∧ (na = true → nb = true → out.1 = F.canonNaN) ∧ (na = true → nb = false → out.1 = b)
    ∧ (na = false → nb = true → out.1 = a)
    ∧ (na = false → nb = false → (out.1 = a ∨ out.1 = b) ∧ ∀ y, y = a ∨ y = b →
        if most then ¬ ordersBelow F out.1 y else ¬ ordersBelow F y out.1)

/-- What FCMP finds of a lane: its variant's relation, and whether it raises invalid (07 R162). -/
def fcompareRule (i : Iss) (l : Nat) (x : Bool × FFlags) : Prop :=
  let a := readAt i 1 l 0
  let b := readAt i 2 l 0
  let un := a.isNaN || b.isNaN
  let o := a.against b
  x.1 = (match i.f.variant.toNat with
    | 0 => !un && o == .eq
    | 1 => un || o != .eq
    | 2 => !un && o == .lt
    | 3 => !un && o != .gt
    | 4 => !un && o == .gt
    | 5 => !un && o != .lt
    | 6 => un
    | _ => !un)
  ∧ x.2 = if (2 ≤ i.f.variant.toNat ∧ i.f.variant.toNat ≤ 5 ∧ un = true) ∨ a.signals = true ∨ b.signals = true
      then flagNV else 0

/-- FCMP: the relation in the active lanes' bits, and the flags of all of them. -/
def ComparesFloat (ins : Fields → Instr) (enc : Enc) (rule : Iss → Nat → Bool × FFlags → Prop) : Prop :=
  ∀ (f : Fields) (s s1 : State) (c : Cur) (push : Option (Nat × Nat)) (i : Iss),
    (row ins enc (writes fun i => predTo i i.f.op0 fun _ => false)).Runs f s s1 c push i →
    ∃ val : Nat → Bool × FFlags, (∀ l, rule i l (val l)) ∧
      exec (ins f) s = .next ((accrued i s1 (flagsOf (i.act.lanes.map fun l => (val l).2))).finish enc f c push
        (predTo i i.f.op0 fun l => (val l).1) fun w => w.advance c c.lanes)

/-- A magnitude rounded to an integral value. -/
def RoundsToNat (rm : Rnd) (neg : Bool) (v : Rat) (n : Nat) : Prop :=
  RoundsTo (fun k => (k : Rat)) none rm neg (exactly v) n

/-- FRND, or FRND.x, which raises inexact where the result is not the input as it stood (07 R164). -/
def fintegralRule (inexact : Bool) (i : Iss) (l : Nat) (x : Word × FFlags) : Prop :=
  floatElements i.f.ty x fun k out =>
    let F := formatOf i
    match readAt i 1 l k with
    | .nan s => out = (F.canonNaN, if s = true then flagNV else 0)
    | .inf n => out = (F.signed n (F.maxBits + 1), 0)
    | .num n v => ∃ m j, RoundsToNat i.env.rm n v m ∧ j ≤ F.maxBits ∧ codeValue F j = (m : Rat) ∧ out.1 = F.signed n j
        ∧ out.2 = if inexact = true ∧ out.1 ≠ elemOf i 1 l k then flagNX else 0

/-! ### Conversions (07 R165-R167) -/

/-- A magnitude delivered by a draw (02 R31): the code toward zero, or the next one where the draw falls below the fraction; one past
the greatest finite value is an overflow away from zero. That UF then goes by the value delivered is the model's choice
(assumption 99). -/
def Drawn (F : Fmt) (env : FEnv) (neg : Bool) (v : Rat) (draw : BitVec 32) (out : Nat × FFlags) : Prop :=
  ∃ k, k ≤ F.maxBits ∧ codeValue F k ≤ v ∧ (k < F.maxBits → v < codeValue F (k + 1)) ∧
    let inexact (j : Nat) := deliveredAs F env neg j (if j < 2 ^ F.mbits then flagUF ||| flagNX else flagNX)
    if v = codeValue F k then out = deliveredAs F env neg k 0
    else if (draw.toNat : Rat) * (codeValue F (k + 1) - codeValue F k) < (v - codeValue F k) * twoTo 32 then
      out = if k = F.maxBits then (overflowed F (if neg then .rd else .ru) env.sat neg, flagOF ||| flagNX)
        else inexact (k + 1)
    else out = inexact k

/-- A value converted to a format: rounded, or drawn where the rounding is SR (07 R167). -/
def ConvertedTo (F : Fmt) (env : FEnv) (draw : Option (BitVec 32)) (r : Reading) (out : Nat × FFlags) : Prop :=
  match r, draw with
  | .num n v, some d => Drawn F env n v d out
  | r, _ => Gives F env r r.signals out

/-- A value converted to an integer: rounded, and at the nearer end of the range where that lies beyond it; a NaN gives 0 (07 R167). -/
def IntegerOf (env : FEnv) (t : Ty) (r : Reading) (out : Nat × FFlags) : Prop :=
  let lo := rangeLo t.signed t.width
  let hi := rangeHi t.signed t.width
  match r with
  | .nan _ => out = (0, flagNV)
  | .inf n => out = (wrapTo t.width (if n then lo else hi), flagNV)
  | .num n v => ∃ m : Nat, RoundsToNat env.rm n v m ∧
    let x : Int := if n then -(m : Int) else m
    out = if x < lo then (wrapTo t.width lo, flagNV) else if hi < x then (wrapTo t.width hi, flagNV)
      else (wrapTo t.width x, if (m : Rat) = v then 0 else flagNX)

/-- One element converted from type `S` to type `D` (07 R167). -/
def Converts (env : FEnv) (S D : Ty) (draw : Option (BitVec 32)) (x : Nat) (out : Nat × FFlags) : Prop :=
  match S.fmt, D.fmt with
  | some A, some B => ConvertedTo B env draw (reading A (A.flushIn env.ftz x)) out
  | some A, none => IntegerOf env D (reading A (A.flushIn env.ftz x)) out
  | none, some B => ConvertedTo B env draw (.num (S.toInt x < 0) ((S.toInt x).natAbs : Nat)) out
  | none, none => out = (0, 0)

/-- The draw after a state (02 R31). -/
def nextDraw (s : BitVec 32) : BitVec 32 :=
  let a := s ^^^ (s <<< 13)
  let b := a ^^^ (a >>> 17)
  b ^^^ (b <<< 5)

/-- What FCVT makes of a lane, and the state of its draws after it: elements converted in ascending order, each drawing once where the
rounding is SR, and placed as R166 says. -/
def convertRule (i : Iss) (l : Nat) (x : Word × FFlags × BitVec 32) : Prop :=
  let S := (Enc.fcvtSrc i.f).getD .noType
  let D := i.f.ty
  let n := min S.count D.count
  let q := match i.op 2 with
    | .imm v => v.toNat
    | _ => 0
  let sr := decide (i.f.rounding = 5)
  ∃ (e : Nat → Nat × FFlags) (st : Nat → BitVec 32), st 0 = i.w.srOf l
    ∧ (∀ k, k < n → st (k + 1) = (if sr then nextDraw (st k) else st k)
      ∧ Converts i.env S D (if sr then some (st (k + 1)) else none)
        (elemAt S.width (i.src 1 l) (if S.count ≤ D.count then k else q * D.count + k)) (e k))
    ∧ (∀ j, j < D.count → elemAt D.width x.1 j =
        if D.count < S.count then (e j).1
        else if q * S.count ≤ j ∧ j < (q + 1) * S.count then (e (j - q * S.count)).1
        else if i.op 3 = .absent then 0 else elemAt D.width (i.src 3 l) j)
    ∧ D.fill x.1 = x.1 ∧ x.2.1 = flagsOf ((List.range n).map fun k => (e k).2) ∧ x.2.2 = st n

/-- FCVT: the values written, the flags accrued, and the states of the lanes computed. -/
def ConvertsFloat (ins : Fields → Instr) (enc : Enc) (rule : Iss → Nat → Word × FFlags × BitVec 32 → Prop) : Prop :=
  ∀ (f : Fields) (s s1 : State) (c : Cur) (push : Option (Nat × Nat)) (i : Iss),
    (row ins enc (writes fun i => i.dest fun _ => 0)).Runs f s s1 c push i →
    ∃ val : Nat → Word × FFlags × BitVec 32, (∀ l, rule i l (val l)) ∧
      exec (ins f) s = .next ((s1.modWarp i.wid fun w =>
        { w.accrue (flagsOf ((computed i).map fun l => (val l).2.1)) with
          lanes := w.lanes.zipIdx.map fun (y, l) =>
            if (computed i).contains l then { y with sr := (val l).2.2 } else y }).finish enc f c push
        (i.dest fun l => (val l).1) fun w => w.advance c c.lanes)

end Sys2Proof.Safety
end

