-- ==== Sys2Proof/Safety/Whole.lean ====
section
/-! DEFINITION. What holds of every Irlek instruction before its own effect, of traps and halts, of memory times, of a step, and what a state keeps. -/
namespace Sys2Proof.Safety
open Sys2Proof.Machine

/-! ### Every Irlek instruction -/

/-- The instruction runs at handler level alone (18 R401, R404). -/
def needsHandler : Instr → Bool
  | .hret _ => true
  | .srd f => 2 ≤ sysNumber f.op1 && sysNumber f.op1 ≤ 5
  | .swr f => sysNumber f.op0 == 4
  | .swrT f => sysNumber f.op0 == 4
  | _ => false

/-- The identity of an instruction's operation: that of REDUCE's operation, and 0 where the entry names none (05 R119, R126). -/
def identityOf : Instr → Word
  | .reduce f => redIdentity (redOp f) f.ty
  | _ => 0

/-- State names a bundle of a warp for an Irlek instruction; no bundle of the warp is still at its accesses. -/
abbrev Named (i : Instr) (s : State) (e : Enc) (f : Fields) (c : Cur) (w : Warp) : Prop :=
  i.enc = some (e, f) ∧ s.cur = some c ∧ s.warp? c.wid = some w ∧ w.sending = none

/-- Its word is legal, its level suffices, no engine result or fault holds it, and its queue bindings are good. -/
abbrev Unheld (i : Instr) (s : State) (e : Enc) (f : Fields) (c : Cur) (w : Warp) : Prop :=
  Enc.legal w.width w.nw e f = true ∧ (needsHandler i = true → w.handler = true) ∧ w.interlocked e f = false
  ∧ w.faultPcs.contains c.pc = false ∧ s.ringBinding c.wid w e f = none

/-- TINFO of an issue-time cause that every active lane fails: the lowest of them (18 R398). -/
def lowestOf (m : Mask) : Word := BitVec.ofNat 64 (m.lowest.getD 0)

/-- What a warp is after an instruction issued with no active lane (05 R119): its vector registers as the last-use marks leave
them, the identity in a uniform destination, false in the bundle's lanes of predicate destinations, ZLANE set, the bundle past
the instruction, and nothing else changed. -/
structure Passed (i : Instr) (e : Enc) (f : Fields) (c : Cur) (w w' : Warp) : Prop where
  vector : w'.v = (w.marked e f c).v
  uniform : ∀ n, w'.wreg n = if n ∈ uniformDests e f then identityOf i else w.wreg n
  predicate : ∀ n l, (w'.preg n).has l =
    if n ≠ 15 ∧ n ∈ predicateDests { w with q := [] } e f ∧ c.lanes.has l = true then false else (w.preg n).has l
  status : w'.zlane = true
  lanes : w'.lanes = (w.advance c c.lanes).lanes
  rest : w' = { w with v := w'.v, w := w'.w, p := w'.p, zlane := w'.zlane, lanes := w'.lanes, res := w'.res }

/-! ### Traps (18 R398, R399, R407) -/

/-- A context's halt by a cause: it starts to halt where it ran, and stays as it is where it did not (18 R407). What is saved from
then on, by the count of identities, the halt has saved. -/
def haltedBy (s : State) (k k' : Ctx) (c : Cause) (info : Word) (who : Option Nat) : Prop :=
  if k.state = .running then
    k' = { k with
      state := .halting, hcause := c.code, hinfo := info, haltStep := 1, haltFrom := s.uid
      hwho := (who.map fun i => BitVec.ofNat 64 (i + 2 ^ 16)).getD 0 }
  else k' = k

/-- The four values a trap records. -/
def recorded (w' : Warp) (c : Cause) (mask : Mask) (info tepc : Word) : Prop :=
  w'.tcause = BitVec.ofNat 64 c.code ∧ w'.tmask = mask ∧ w'.tepc = tepc ∧ w'.tinfo = info

/-- A lane that enters the handler: its HLANE is set and its PC is HVEC. -/
def enters (w : Warp) (x y : Lane) : Prop := y.hlane = true ∧ y.pc = w.hvec ∧ y.hdr = w.hvec ∧ y.live = x.live

/-- The trap's record joins its die's queue, and the warp stands at the trap; nothing else changes (18 R400). -/
def postedIn (s u : State) (wid : Nat) (x : TrapRec) : Prop :=
  u = { s with warps := u.warps, dies := u.dies } ∧ ∀ d : Nat, u.dies[d]? = (s.dies[d]?).map fun y =>
    if d = dieOf wid then { y with traps := y.traps ++ [x] } else y

/-- Where a trap goes (18 R398 step 3): at handler level the context halts with DOUBLE; delegated to a handler the warp enters
it with the trapping bundle's lanes; routed to the supervisor the warp stops and a record joins the die's queue; otherwise the
context halts with the cause. -/
def Routed (s t : State) (wid : Nat) (c : Cause) (bundle : Mask) (info : Word) (w w' : Warp) (k : Ctx) : Prop :=
  if w.handler = true then ∃ k', AMap.get t.ctxs w.ctx = some k' ∧ haltedBy s k k' .double info (some w.saveIdx)
  else if k.deleg.getLsbD c.code = true ∧ w.hvec ≠ 0 then
    w'.handler = true ∧ AMap.get t.ctxs w.ctx = some k
    ∧ ∀ (l : Nat) (x : Lane), w.lanes[l]? = some x →
      ∃ y : Lane, w'.lanes[l]? = some y ∧ if bundle.has l then enters w x y else y = x
  else if k.supv.getLsbD c.code = true then
    w'.stop = true ∧ AMap.get t.ctxs w.ctx = some k
    ∧ (t.dies[dieOf wid]?).map (·.traps) = (s.dies[dieOf wid]?).map fun d =>
        d.traps ++ [⟨w.ctx, wid, w.saveIdx, BitVec.ofNat 64 c.code, info⟩]
  else ∃ k', AMap.get t.ctxs w.ctx = some k' ∧ haltedBy s k k' c info (some w.saveIdx)

/-! ### Accesses made in part (12 R275, 13 R300) -/

/-- A bundle of a warp some of whose accesses are still to be made; the warp has given nothing up at the sluice (05 R113). -/
abbrev AtAccesses (s : State) (c : Cur) (w : Warp) (x : Sending) : Prop :=
  s.cur = some c ∧ s.warp? c.wid = some w ∧ w.sending = some x ∧ w.spilled = [] ∧ w.refillRes = []

/-- What the instruction of that bundle works on. -/
abbrev Accessor.again (r : Accessor) (f : Fields) (c : Cur) (w : Warp) (x : Sending) : Iss :=
  c.iss { w with pts := x.pts } r.enc f x.act []

/-- The bundle stays where it is, with accesses still to be made and what it has got. -/
def Accessor.stays (r : Accessor) (i : Iss) (stamp : Nat) (left : List Access) (got : AMap Nat) (t : State) : State :=
  t.modWarp i.wid fun w => { w with
    sending := some ⟨i.c, encodeFields r.enc.opcode i.f, i.act, i.w.pts, left, got, stamp⟩ }

/-! ### Arrivals at barriers (10 R229, R233, R237-R239) -/

/-- An instruction that arrives at a barrier: its barrier and count operands, and whether it waits too, when it arrives with the lanes
that have just come (10 R232). -/
structure Arriver where
  ins : Fields → Instr
  enc : Enc
  barrier : Nat
  count : Nat
  waits : Bool

/-- BARARR and BARSYNC, and TBAR.arr and TBAR.sync. -/
def namedArrivers : List Arriver := [⟨.bararr, Enc.bararr, 1, 2, false⟩, ⟨.barsync, Enc.barsync, 0, 1, true⟩]
def teamArrivers : List Arriver := [⟨.tbarArr, Enc.tbarArr, 1, 2, false⟩, ⟨.tbarSync, Enc.tbarSync, 0, 1, true⟩]

/-- A bundle that runs the instruction and arrives: with an active lane that has not arrived yet, where it waits too. -/
abbrev Arriver.Arrives (r : Arriver) (f : Fields) (s s1 : State) (c : Cur) (push : Option (Nat × Nat)) (i : Iss) : Prop :=
  (row r.ins r.enc {}).Runs f s s1 c push i ∧ (r.waits = true → i.act &&& i.newcomers ≠ 0)

/-- exec takes a precise trap of the bundle. -/
def trapsWith (i : Instr) (s : State) (c : Cur) (act : Mask) (cause : Cause) (info : Word) : Prop :=
  exec i s = .next (s.takeTrap c.wid cause c.lanes act info c.pc)

/-- The traps of an arrival with count `m` at a barrier that `most` warps may arrive at (10 R229). -/
def countsTrap (ins : Instr) (s : State) (c : Cur) (act : Mask) (x : Barrier) (m most : Nat) : Prop :=
  (m < 1 ∨ most < m → trapsWith ins s c act .barRange (lowestOf act))
  ∧ ∀ n, 1 ≤ m → m ≤ most → x.latched = some n → n ≠ m → trapsWith ins s c act .barCount (BitVec.ofNat 64 (n * 256 + m))

/-! ### Copies of lines (13 R302) -/

/-- A core's copy of the line of an address serves a load there: it has the sector, the load is no NOCORE load, no granule is
registered there, and the load's time is within its lease. -/
def servedBy (s : State) (core p pa hint : Nat) (c : Copy) (bs : List Byte) : Prop :=
  AMap.get (s.core core).copies (lineOf pa) = some c ∧ c.half pa = some bs ∧ hint ≠ 3 ∧ s.mappedAt pa = none
  ∧ max p c.wts ≤ c.rts ∧ c.rts ≤ max p c.wts + 16

/-! ### Parcels (03 R47-R49, R60) -/

/-- The rows of the opcode table for a word's opcode. -/
def rowsOf (x : BitVec 160) : List (Enc × (Fields → Instr)) :=
  irlekRows.filter fun r => r.1.opcode == (bitsAt x 150 10).toNat

/-- What Table 3.7 makes of a word from its second step on. `last`: the parcel ends the body; `sound`: the parcel passes step 4. -/
structure Checked (w nw : Nat) (x : BitVec 160) (last sound : Bool) (next : Word) (r : Fetched) : Prop where
  unassigned : rowsOf x = [] → r = .trap .illegalOpcode
  early : (∃ y ∈ rowsOf x, y.1.control = true) → last = false → r = .trap .illegalParcel
  unsound : rowsOf x ≠ [] → ((∃ y ∈ rowsOf x, y.1.control = true) → last = true) → sound = false → r = .trap .illegalField
  fields : rowsOf x ≠ [] → ((∃ y ∈ rowsOf x, y.1.control = true) → last = true) → sound = true →
    r = match decodeIrlek w nw x with
      | .ok i => .instr i next
      | .error _ => .trap .illegalField

/-- A warp is picked, and its head bundle's parcel decodes to `r`, in the state `s4`. -/
structure HeadDecodes (s s1 s4 : State) (wid : Nat) (rest : List Action) (w1 : Warp) (g : Group) (hw : Word) (r : Fetched) :
    Prop where
  issues : s.agenda = .issue wid :: rest ∧ s.gated = false
  picked : ∃ w ready s3, s.warp? wid = some w ∧ w.sending = none ∧ ({ s with agenda := rest } : State).mayIssue wid w = true
    ∧ readyGroups exec wid w.groups { s with agenda := rest } [] = .next (s1, ready) ∧ s1.warp? wid = some w1
    ∧ w1.head ready = some g
    ∧ ({ (s1.picked wid).setWarp wid { w1.countBypass g ready with yieldNext := false } with waited := false } :
        State).fetchHeader wid { w1.countBypass g ready with yieldNext := false } g.hdr = (s3, .ok hw)
    ∧ s3.decodeAt wid { w1.countBypass g ready with yieldNext := false } g.hdr hw g.pc = (s4, r)

/-! ### What a state keeps -/

/-- Memory and every allotment's memory are in their canonical form. -/
def Canonical (s : State) : Prop := s.mem.wf = true ∧ ∀ k a, (k, a) ∈ s.allots → a.mem.wf = true

end Sys2Proof.Safety
end

