-- ==== Sys2Proof/Certificates/Slice0/Obligations.lean ====
section
/-! DEFINITION. The statements for the provers: what each instruction and event does, the numbered rules of the spec, what instructions leave unchanged, and what every step keeps. -/
open Sys2Proof Sys2Proof.Machine Sys2Proof.Safety

/-! ### Where instructions complete, and with what -/

/-- Moves, predicate logic, votes, matches, reductions, scans, permutations, and special-register reads run to their end (02 R35,
04 R97, 05 R121-R130). -/
def Obligations.MovesAndCrossLaneComplete : Prop :=
  AllDo (moveRows ++ predicateRows ++ voteRows ++ matchRows) ∧ AllDo (reduceRows ++ scanRows ++ permuteRows ++ specialRows)

/-- Floating-point arithmetic and special functions run to their end with their flags accrued, these whatever value the tables of the
part hold (07 R160-R171, R174-R177; which of the values within R175's bound a part delivers is a free value, assumption 6). -/
def Obligations.FloatingComplete : Prop := AllDo floatRows ∧ AllDo functionRows

/-- Floating compares, classes, conversions, complex arithmetic and mode instructions run to their end (07 R158-R173). -/
def Obligations.ConversionsAndModeComplete : Prop := AllDo (classRows ++ complexRows ++ modeRows)

/-- Branches, jumps and calls whose targets may be entered, NOP, JOIN, EXIT, YIELD, HRET, SRD, SWR and CLOCK run to their end
(04 R89-R95, 18 R404-R406). -/
def Obligations.FlowComplete : Prop := AllDo branchRows ∧ AllDo (flowRows ++ handlerRows)

/-- BRK and TRAP move their lanes and raise their trap with the tag (04 R96, 18 R398, R403). -/
def Obligations.RaisesComplete : Prop := ∀ r ∈ raiseRows, r.Does

/-- Scratchpad accesses and engine commands run to their end (08 R191-R196). The model's choice: SPMAP tests its operands, its entry,
its overlap and then each granule, and status 5 is written at once and counts no counter (assumption 14). -/
def Obligations.ScratchpadComplete : Prop := AllDo scratchpadRows

/-- Queue instructions run to their end (09 R214-R217). The model's choice: the order in which QINIT tests for its statuses, and
that the limit of 64 queues counts over all allotments of the core (assumption 31). -/
def Obligations.QueuesComplete : Prop := AllDo queueRows

/-- Task and phase instructions run to their end (09 R218-R222). The model's choice: the order in which DQSET tests for its statuses
(assumption 31), and that STEAL.any tries one core a step (assumption 32). -/
def Obligations.TasksComplete : Prop := AllDo taskRows

/-- Counter waits and barriers run to their end (10 R226-R239). -/
def Obligations.BarriersComplete : Prop := AllDo barrierRows

/-- Gang and matrix instructions run to their end: what they send stands in the cluster (11 R241-R261). -/
def Obligations.MatrixComplete : Prop := AllDo matrixRows

/-- Global loads and stores whose step makes all their accesses, and prefetches, run to their end (12 R290-R292). -/
def Obligations.LoadsAndStoresComplete : Prop := AllDo (loadStoreRows ++ prefetchRows)

/-- Bank ALU operations and exact reductions whose step makes all their accesses run to their end (12 R278-R296). -/
def Obligations.AtomicsComplete : Prop := AllDo atomicRows

/-- Bulk commands, ESYNC and PROBE run to their end (12 R297, 13 R312, 14 R328). -/
def Obligations.BulkAndSyncComplete : Prop := AllDo (bulkRows ++ syncRows)

/-- Trace slots, rays and records: their instructions run to their end (15 R329-R356). The model's choice: the order in which ASBIND
tests for its statuses of 15 R351, that it reads the header only when 3 and 2 are excluded, and that a queue of rays may be no slot's
hit queue (assumptions 31, 43). -/
def Obligations.TracingComplete : Prop := AllDo traceRows

/-- Builder commands, cluster streams, fences and generations: their instructions run to their end (16 R367-R373). -/
def Obligations.BuildersComplete : Prop := AllDo builderRows

/-- LAUNCH and NOTIFY run to their end (17 R385, R390). The model's choice: NOTIFY answers 1 at once while a command of its queue
runs, and 2 for a number that names no queue (assumption 62). -/
def Obligations.LaunchesComplete : Prop := AllDo launchRows

/-- Every Nibex instruction but HALT steps its command, and HALT ends it (17 R378-R383). The model's choice: LDC of quadwords 0 and 1
gives what the examine read, a satisfied NWAIT raises the front end's time past what it waited for, NDONE stores when the command's
work is 0 (assumption 60), and NCOPY's cluster is chosen freely (assumption 63). -/
def Obligations.NibexComplete : Prop := (∀ r ∈ nibexRows ++ nibexWorkRows, r.Does) ∧ HaltEnds

/-- Barrier releases, gangs, matrix entries, block entry and the sluice: their events happen (03 R42, 05 R112, 10, 11). -/
def Obligations.GroupAndBlockEvents : Prop := EventsDo (groupEvents ++ blockEvents)

/-- Dispatch, placement, deadlines and work queues: their events happen (03 R53, 04 R72-R75, 17 R378-R386). The model's choice: the
order of waiting launches and the cores of a team (assumption 55), when NDONE's store comes (assumption 60), and that a restarted
queue is examined as if notified (assumption 63). -/
def Obligations.DispatchAndQueueEvents : Prop := EventsDo (dispatchEvents ++ queueEvents)

/-- Copy engines, rays, fences and builders: their events happen (08 R193-R196, 15, 16). The model's choice: a free place of a TVU
goes to an answered ray before the ray queue (assumption 46), and a builder reads in as many steps as the scheduler says
(assumption 47). -/
def Obligations.EngineEvents : Prop := EventsDo engineEvents

/-- Memory levels, exact slots, walks and translation faults: their events happen (12 R271-R287, 13 R305, 14 R323-R327). -/
def Obligations.MemoryAndTranslationEvents : Prop := EventsDo (memoryEvents ++ translationEvents)

/-- Halt walks, saves, evictions and returns: their events happen (18 R407-R414). The model's choice: what each step of the halt walk
waits for (assumption 64), that SUPERVISOR_HALT keeps the warp stopped until its save (assumption 67), and the order of returns and
that they keep off a core of an eviction request (assumption 68). -/
def Obligations.ContextEvents : Prop := EventsDo contextEvents

/-- Peers and links: their events happen (13 R316-R318, 19 R431-R433). The model's choice: NEXT replaces the bytes from 0x30 on, and
a claim has lapsed for every access after its 10 ms (assumption 72), and how timed accesses of peers come (assumption 78). -/
def Obligations.PeerEvents : Prop := EventsDo peerEvents

/-- Requests to the supervisor are answered as they say (19 R418-R427). The model's choice: a destroyed queue keeps its number while
its work runs (assumption 76), HALT of a context that does not run answers 0, and DESTROY halts first and is answered in several
steps (assumption 77). -/
def Obligations.SupervisorRequests : Prop := EventsDo requestEvents

/-- Boot, takeover, clocks, faults of the part, and the sideband: their events happen (01 R20-R21, 19 R415-R430). The model's choice:
a read moves the pointer modulo 256 (assumption 80), a power step lowers both dies (assumption 81), and the order of boot statuses
and that a fuse advances only where both dies boot one digest (assumption 85). -/
def Obligations.BoardAndSidebandEvents : Prop := EventsDo (boardEvents ++ sidebandEvents)

/-! ### Rules of the spec -/

/-- Sums, products, upper halves, quotients, remainders, minima and absolute values (06 R135-R139). -/
def Obligations.ArithmeticFollowsItsRules : Prop :=
  Computes .iadd Enc.iadd sumRule ∧ Computes .isub Enc.isub differenceRule ∧ Computes .imul Enc.imul productRule
  ∧ Computes .imad Enc.imad productSumRule ∧ Computes .imulh Enc.imulh (upperRule false)
  ∧ Computes .imulhSu Enc.imulhSu (upperRule true)
  ∧ (∀ w nw f, Enc.legal w nw Enc.imulhSu f = true → f.ty.signed = true)
  ∧ Computes .imadwLo Enc.imadwLo (wideRule 0) ∧ Computes .imadwHi Enc.imadwHi (wideRule 1)
  ∧ Computes .idiv Enc.idiv quotientRule ∧ Computes .irem Enc.irem remainderRule
  ∧ Computes .imin Enc.imin minimumRule ∧ Computes .imax Enc.imax maximumRule ∧ Computes .iabs Enc.iabs absoluteRule

/-- Shifts, rotations and funnel shifts (06 R140, R141), their amounts read as R132 says. The model's choice: an immediate amount that
the element cannot hold shifts by its own value, and rotates by it modulo the width (assumption 13). -/
def Obligations.ShiftsFollowTheirRules : Prop :=
  Computes .shl Enc.shl shiftLeftRule ∧ Computes .shr Enc.shr shiftRightRule ∧ Computes .sar Enc.sar shiftArithmeticRule
  ∧ Computes .rotL Enc.rotL (rotateRule false) ∧ Computes .rotR Enc.rotR (rotateRule true)
  ∧ Computes .fshlL Enc.fshlL (funnelRule false) ∧ Computes .fshlR Enc.fshlR (funnelRule true)

/-- Logic, truth tables, counts, reversal and bit fields (06 R142-R145). The model's choice: BFI takes A and B from operands 1 and 2,
as Table 6.1 has it (assumption 115), and an immediate position or length that the element cannot hold keeps its value
(assumption 13). -/
def Obligations.LogicFollowsItsRules : Prop :=
  Computes .andB Enc.andB (bitwiseRule fun a b => a && b) ∧ Computes .orB Enc.orB (bitwiseRule fun a b => a || b)
  ∧ Computes .xor Enc.xor (bitwiseRule fun a b => a ^^ b) ∧ Computes .andn Enc.andn (bitwiseRule fun a b => a && !b)
  ∧ Computes .lop3 Enc.lop3 tableRule ∧ Computes .popc Enc.popc countRule ∧ Computes .clz Enc.clz leadingRule
  ∧ Computes .ctz Enc.ctz trailingRule ∧ Computes .brev Enc.brev reversedRule ∧ Computes .bfx Enc.bfx extractRule
  ∧ Computes .bfi Enc.bfi insertRule

/-- Compares, carries, addresses, differences, and add-compare-select (06 R146-R150). -/
def Obligations.ComparesFollowTheirRules : Prop :=
  Follows .icmp Enc.icmp (fun i => predTo i i.f.op0 fun _ => false)
    (fun i ws => ws = predTo i i.f.op0 (compareHolds i))
  ∧ Follows .iaddcC Enc.iaddcC (fun i => i.dest (fun _ => 0) ++ decisions i 1 fun _ _ => false) (carryRule false)
  ∧ Follows .iaddcB Enc.iaddcB (fun i => i.dest (fun _ => 0) ++ decisions i 1 fun _ _ => false) (carryRule true)
  ∧ Computes .lea Enc.lea addressRule ∧ Computes .sad Enc.sad differencesRule
  ∧ Follows .acsPm Enc.acsPm (fun i => i.dest (fun _ => 0) ++ decisions i 4 fun _ _ => false) (selectRule false)
  ∧ Follows .acsMp Enc.acsMp (fun i => i.dest (fun _ => 0) ++ decisions i 4 fun _ _ => false) (selectRule true)

/-- Sums, products, fused and complex sums, dot products, quotients, roots and scalings: the exact value, as a rational or its root,
is rounded once, with the flags of that rounding (02 R28-R34, 07 R160, R169-R172). -/
def Obligations.FloatingFollowsItsRules : Prop :=
  ComputesFloat .fadd Enc.fadd (fsumRule false) ∧ ComputesFloat .fsub Enc.fsub (fsumRule true)
  ∧ ComputesFloat .fmul Enc.fmul fproductRule ∧ ComputesFloat .ffma Enc.ffma fusedRule
  ∧ ComputesFloat .fdot2 Enc.fdot2 fdotRule ∧ ComputesFloat .fscale Enc.fscale fscaleRule
  ∧ ComputesFloat .fdiv Enc.fdiv fquotientRule ∧ ComputesFloat .fsqrt Enc.fsqrt frootRule
  ∧ ComputesFloat .cmul Enc.cmul (complexRule false false) ∧ ComputesFloat .cfma Enc.cfma (complexRule false true)
  ∧ ComputesFloat .cmulj Enc.cmulj (complexRule true false) ∧ ComputesFloat .cabs2 Enc.cabs2 magnitudeRule

/-- Minima, maxima, compares, integral values and conversions, with the draws of stochastic rounding (02 R31, 05 R127, 07 R161, R162,
R164-R167). That UF goes by the value delivered where a draw delivers it is the model's choice (assumption 99). -/
def Obligations.ConversionsFollowTheirRules : Prop :=
  ComputesFloat .fmin Enc.fmin (fleastRule false) ∧ ComputesFloat .fmax Enc.fmax (fleastRule true)
  ∧ ComparesFloat .fcmp Enc.fcmp fcompareRule
  ∧ ComputesFloat .frnd Enc.frnd (fintegralRule false) ∧ ComputesFloat .frndX Enc.frndX (fintegralRule true)
  ∧ ConvertsFloat .fcvt Enc.fcvt convertRule

/-- MODESET writes the fields its variant names, keeps RM where the value has none, and writes nothing with no active lane
(07 R158). -/
def Obligations.ModeRegisterIsSet : Prop :=
  (SetsMode .modesetAll Enc.modesetAll 0 ∧ SetsMode .modesetRm Enc.modesetRm 1 ∧ SetsMode .modesetFtz Enc.modesetFtz 2
    ∧ SetsMode .modesetFclr Enc.modesetFclr 3)
  ∧ LeavesMode .modesetAll Enc.modesetAll ∧ LeavesMode .modesetRm Enc.modesetRm ∧ LeavesMode .modesetFtz Enc.modesetFtz
  ∧ LeavesMode .modesetFclr Enc.modesetFclr

/-- What an instruction writes to a vector register stands in its active lanes: a mapped register keeps its other lanes, takes
no allocation, and has no release pending afterwards (05 R105); an unmapped one is allocated and reads zero in the others
(05 R104). The last-use marks come first (05 R106). -/
def Obligations.VectorWritesLand : Prop :=
  ∀ (s : State) (e : Enc) (f : Fields) (c : Cur) (push : Option (Nat × Nat)) (v : Nat → Word) (w : Warp)
    (n : BitVec 8) (last : Bool) (perm : Perm),
    f.op0 = .v n last perm → s.warp? c.wid = some w → isSlot c.wid →
    (∀ k r, AMap.get w.v k = some r → r.lanes.length = w.width) →
    (∀ l, (activeLanes w f c.lanes).has l = true → l < w.width) →
    let m := w.marked e f c
    let ws := toDest f.op0 (activeLanes w f c.lanes) v
    ∃ w' r, (s.finish e f c push ws fun x => x.advance c c.lanes).warp? c.wid = some w'
      ∧ AMap.get w'.v n.toNat = some r ∧ r.pending = false
      ∧ (∀ l, w'.vreg n.toNat l = if (activeLanes w f c.lanes).has l then v l else m.vreg n.toNat l)
      ∧ allocations m ws = (if m.mapped n.toNat then 0 else 1)
      ∧ ∀ k, k ≠ n.toNat → AMap.get w'.v k = AMap.get m.v k

/-- What an instruction writes to uniform registers and predicates stands there, and a write to p15 is discarded: it reads true
in every lane (03 R59, 05 Table 5.1). -/
def Obligations.UniformAndPredicateWritesLand : Prop :=
  ∀ (s : State) (e : Enc) (f : Fields) (c : Cur) (push : Option (Nat × Nat)) (w : Warp), s.warp? c.wid = some w →
    isSlot c.wid →
    (∀ n x, ∃ w', (s.finish e f c push [.w n x] fun y => y.advance c c.lanes).warp? c.wid = some w'
      ∧ w'.wreg n = x ∧ ∀ k, k ≠ n → w'.wreg k = w.wreg k)
    ∧ ∀ n lanes bits, ∃ w', (s.finish e f c push [.p n lanes bits] fun y => y.advance c c.lanes).warp? c.wid = some w'
      ∧ (∀ l, l < 64 → (w'.preg 15).has l = true)
      ∧ ∀ k l, (w'.preg k).has l = if k = n ∧ n ≠ 15 ∧ lanes.has l = true then bits.has l else (w.preg k).has l

/-- An instruction issued with no active lane: nothing happens but what 05 R119 says, and nothing changes but its warp. The model's
choice: POPTASK and STEAL leave their counted w group unchanged then (assumption 32). -/
def Obligations.NoActiveLanePasses : Prop :=
  ∀ (i : Instr) (s : State) (e : Enc) (f : Fields) (c : Cur) (w : Warp), Named i s e f c w → Unheld i s e f c w →
    (w.strict = true → (vectorSources e f).all w.mapped = true) → activeLanes w f c.lanes = 0 →
    ∃ w', exec i s = .next (s.setWarp c.wid w') ∧ Passed i e f c w w'

/-- An unmapped vector register reads zero in every lane, and in a strict kernel such a read traps with no effect on the
registers and the reservation, whatever the guards (05 R109). The model's choice: TINFO is 0 where no lane is active
(assumption 8). -/
def Obligations.UnmappedReadsZeroOrTrap : Prop :=
  (∀ (w : Warp) (n e : Nat) (p : Perm) (l : Nat), w.mapped n = false → w.deliver n e p l = 0)
  ∧ ∀ (i : Instr) (s : State) (e : Enc) (f : Fields) (c : Cur) (w : Warp), Named i s e f c w → Unheld i s e f c w →
    isSlot c.wid → w.strict = true → (vectorSources e f).all w.mapped = false →
    ∃ w', exec i s = .next (s.takeTrap c.wid .regReleased c.lanes (activeLanes w f c.lanes)
        (lowestOf (activeLanes w f c.lanes)) c.pc)
      ∧ (s.takeTrap c.wid .regReleased c.lanes (activeLanes w f c.lanes)
        (lowestOf (activeLanes w f c.lanes)) c.pc).warp? c.wid = some w'
      ∧ w'.v = w.v ∧ w'.res = w.res ∧ w'.w = w.w ∧ w'.p = w.p

/-- An instruction that would raise a counter that reads 63 does not issue: its group waits, and nothing changes (10 R225). -/
def Obligations.FullCounterHoldsBack : Prop :=
  ∀ (i : Instr) (s : State) (e : Enc) (f : Fields) (c : Cur) (w : Warp) (k : Nat), Named i s e f c w →
    Unheld i s e f c w → (w.strict = true → (vectorSources e f).all w.mapped = true) → activeLanes w f c.lanes ≠ 0 →
    counterOf f = some k → w.counter k = 63 → exec i s = .next { s with waited := true }

/-- A word whose fields its entry does not admit traps before any guard is evaluated, with every lane of the bundle in TMASK
and 0 in TINFO (03 R60, 18 R398). -/
def Obligations.IllegalFieldsTrap : Prop :=
  ∀ (i : Instr) (s : State) (e : Enc) (f : Fields) (c : Cur) (w : Warp), Named i s e f c w →
    Enc.legal w.width w.nw e f = false → exec i s = .next (s.takeTrap c.wid .illegalField c.lanes c.lanes 0 c.pc)

/-- At user level HRET, and SRD and SWR of registers that user level may not reach, trap whatever the guards (18 R398, R401, R404).
The model's choice: TINFO of LEVEL is 0 (assumption 8). -/
def Obligations.HandlerLevelIsNeeded : Prop :=
  ∀ (i : Instr) (s : State) (e : Enc) (f : Fields) (c : Cur) (w : Warp), Named i s e f c w →
    Enc.legal w.width w.nw e f = true → needsHandler i = true → w.handler = false →
    exec i s = .next (s.takeTrap c.wid .level c.lanes c.lanes 0 c.pc)

/-- A trap records its four values and goes where its context routes it (18 R398, R399); a context that halts takes the first
cause and keeps it (18 R407). Nothing beside the warp and the context changes, but for a trap left to the supervisor: it joins its
die's queue, and the warp's control part is written to its save area (18 R400). -/
def Obligations.TrapsAreRecordedAndRouted : Prop :=
  ∀ (s : State) (wid : Nat) (c : Cause) (bundle mask : Mask) (info tepc : Word) (w : Warp) (k : Ctx),
    s.warp? wid = some w → isSlot wid → AMap.get s.ctxs w.ctx = some k →
    let t := s.takeTrap wid c bundle mask info tepc
    ∃ w', t.warp? wid = some w' ∧ recorded w' c mask info tepc ∧ Routed s t wid c bundle info w w' k
      ∧ (∀ x, x ≠ wid → t.warp? x = s.warp? x)
      ∧ if w.handler = false ∧ ¬ (k.deleg.getLsbD c.code = true ∧ w.hvec ≠ 0) ∧ k.supv.getLsbD c.code = true then
          ∃ u, t = u.saveControl wid ∧ postedIn s u wid ⟨w.ctx, wid, w.saveIdx, BitVec.ofNat 64 c.code, info⟩
        else t = { s with warps := t.warps, ctxs := t.ctxs }

/-- A misaligned address of any active lane gives MEM_ALIGN, for the lowest such lane, before any translation or access: the
pops of its operands are not made (12 R290). -/
def Obligations.MisalignedAccessTraps : Prop :=
  ∀ x ∈ accessors, ∀ (f : Fields) (s s1 : State) (c : Cur) (push : Option (Nat × Nat)) (i : Iss) (l : Nat),
    (row x.ins x.enc {}).Runs f s s1 c push i → l ∈ i.act.lanes → (x.addr i l).toNat % x.bytes i ≠ 0 →
    (∀ m ∈ i.act.lanes, m < l → (x.addr i m).toNat % x.bytes i = 0) →
    exec (x.ins f) s = .next (s.takeTrap c.wid .memAlign c.lanes i.act (BitVec.ofNat 64 l) c.pc)

/-- An arrival at a named barrier or at a team barrier traps where the count is out of range, and where it differs from the one
latched, with both counts in TINFO; a named barrier that the team has none of traps too (10 R228, R229, R233, R237-R239, 18 R398).
A team has at most 65,536 warps (10 R233). -/
def Obligations.BarrierCountsTrap : Prop :=
  (∀ r ∈ namedArrivers, ∀ (f : Fields) (s s1 : State) (c : Cur) (push : Option (Nat × Nat)) (i : Iss) (id : Nat) (a : Allot),
    r.Arrives f s s1 c push i → s1.allotOf c.wid i.w = some (id, a) →
    let b := (i.uni r.barrier).toNat
    (a.nBarriers ≤ b → trapsWith (r.ins f) s c i.act .barRange (lowestOf i.act))
    ∧ (b < a.nBarriers →
        countsTrap (r.ins f) s c i.act (AMap.getD a.barriers b Barrier.fresh) (i.uni r.count).toNat (min a.warps 64)))
  ∧ (∀ r ∈ teamArrivers, ∀ (f : Fields) (s s1 : State) (c : Cur) (push : Option (Nat × Nat)) (i : Iss),
    r.Arrives f s s1 c push i → i.teamWarps s1 ≤ 65536 →
    countsTrap (r.ins f) s c i.act (s1.tbar i.w (immNum (i.op r.barrier))) (i.uni r.count).toNat (i.teamWarps s1))
  ∧ ∀ r ∈ [(Instr.barinit, Enc.barinit, 1), (Instr.barwait, Enc.barwait, 0)],
    ∀ (f : Fields) (s s1 : State) (c : Cur) (push : Option (Nat × Nat)) (i : Iss) (id : Nat) (a : Allot),
    (row r.1 r.2.1 {}).Runs f s s1 c push i → s1.allotOf c.wid i.w = some (id, a) →
    a.nBarriers ≤ (i.uni r.2.2).toNat → trapsWith (r.1 f) s c i.act .barRange (lowestOf i.act)

/-- A line's home performs loads, stores and atomics at the logical times of the protocol with a lease of 16; a core's copy serves
a load within its lease, and any other load of that line goes to the home (13 R302). The allotment of a mapped granule exists, and no
exact slot is open over what an atomic changes (12 R283). -/
def Obligations.HomesKeepLogicalTime : Prop :=
  ∀ (s : State) (p pa : Nat),
    (∀ al off, s.mappedAt pa = some (al, off) → ∃ a, AMap.get s.allots al = some a) →
    (∀ n cached, ∃ t : State, s.homeLoad p pa n cached = (t, s.peek pa n, max p (s.lineTimes pa).1)
      ∧ t.lineTimes pa = ((s.lineTimes pa).1,
          max (s.lineTimes pa).2 (max p (s.lineTimes pa).1 + if cached then 16 else 0)))
    ∧ (∀ bs, pa % 128 + bs.length ≤ 128 → ∃ t : State, s.rawStore p pa bs = (t, max p ((s.lineTimes pa).2 + 1))
      ∧ t.lineTimes pa = (max p ((s.lineTimes pa).2 + 1), max p ((s.lineTimes pa).2 + 1))
      ∧ ∀ j b, bs[j]? = some b → t.rawByte (pa + j) = b)
    ∧ (∀ n g, pa % 128 + n ≤ 128 → s.slotsOver pa n = [] →
        ∃ t : State, s.homeAtomic p pa n g = (t, ofBytes (s.peek pa n), max p ((s.lineTimes pa).2 + 1))
      ∧ t.lineTimes pa = (max p ((s.lineTimes pa).2 + 1), max p ((s.lineTimes pa).2 + 1))
      ∧ ∀ j b, (bytesOf n (g (ofBytes (s.peek pa n))))[j]? = some b → t.rawByte (pa + j) = b)
    ∧ (∀ core n hint c bs, servedBy s core p pa hint c bs →
        s.laneLoad core p pa n hint = (s, (bs.drop (pa % 128)).take n, max p c.wts))
    ∧ ∀ core n hint, (¬ ∃ c bs, servedBy s core p pa hint c bs) →
        (s.laneLoad core p pa n hint).2 = ((s.fillLine pa hint).homeLoad p pa n (s.leased pa hint)).2

/-- A bundle makes its accesses in as many steps as the machine takes: a step makes so many of them and the bundle stays where it
is with the others, the next one goes on with those, and the step that makes the last of them ends the instruction (12 R275,
13 R300). That the scheduler says freely how many a step makes is the model's form of what 13 R300 leaves open (assumption 47). -/
def Obligations.AccessesAreMadeInParts : Prop :=
  ∀ r ∈ accessors, ∀ (f : Fields) (s t : State) (c : Cur) (got : AMap Nat),
    (∀ (s1 s2 : State) (push : Option (Nat × Nat)) (i : Iss) (xs : List Access),
      (row r.ins r.enc {}).Runs f s s1 c push i → r.starts i s1 = some (s2, xs) → 0 < s2.burst → s2.burst < xs.length →
      eachMade (r.one i (s1.stamp + 1)) (r.size i) (xs.take s2.burst) s2 [] = some (t, got) →
      Covered s r.enc f c (r.writes i []) → exec (r.ins f) s = .next (r.stays i s2.stamp (xs.drop s2.burst) got t))
    ∧ ∀ w x, AtAccesses s c w x →
      let i := r.again f c w x
      (0 < s.burst → s.burst < x.left.length →
        eachMade (r.one i x.stamp) (r.size i) (x.left.take s.burst) s x.got = some (t, got) →
        Covered s r.enc f c (r.writes i []) → exec (r.ins f) s = .next (r.stays i x.stamp (x.left.drop s.burst) got t))
      ∧ ((s.burst = 0 ∨ x.left.length ≤ s.burst) → eachMade (r.one i x.stamp) (r.size i) x.left s x.got = some (t, got) →
        Covered (r.ends i x.stamp t) r.enc f c (r.writes i got) →
        exec (r.ins f) s = .next ((r.ends i x.stamp t).finish r.enc f c none (r.writes i got) fun w => w.advance c c.lanes))

/-- Making accesses in two goes is making them in one: nothing is made twice, passed over or made out of turn; and with steps enough,
no line absent and no package removed, they are all made, one after another (12 R275). -/
def Obligations.PartsMakeTheWhole : Prop :=
  (∀ (one : AccessStep) (n k m : Nat) (xs : List Access) (s : State) (got : AMap Nat),
    sendSome one n (k + m) xs s got
      = let r := sendSome one n k xs s got
        sendSome one n m r.2.1 r.1 r.2.2)
  ∧ ∀ (one : AccessStep) (n k : Nat) (xs : List Access) (s t : State) (got got' : AMap Nat),
    eachMade one n xs s got = some (t, got') → xs.length ≤ k → sendSome one n k xs s got = (t, [], got')

/-! ### What instructions leave unchanged -/

/-- Instructions that compute registers leave other registers, other lanes, other warps, memory and every unit as they were:
the flags are only raised, and only by those that raise flags. -/
def Obligations.ComputingLeavesTheRest : Prop := ∀ k ∈ computing, k.Holds

/-- Branches, jumps, calls, NOP and JOIN move their bundle's lanes and change no register but a link, and no memory. -/
def Obligations.TransfersLeaveTheRest : Prop :=
  ∀ r ∈ movingRows, ∀ (f : Fields) (s s1 t : State) (c : Cur) (push : Option (Nat × Nat)) (i : Iss),
    r.Runs f s s1 c push i → isSlot c.wid → exec (r.ins f) s = .next t → OnlyMoves r.enc f c i.act s t

/-- Loads, prefetches, ESYNC and PROBE store nothing, and leave the warp's other registers and every other warp as they were;
engine commands, queue bindings, barriers, and matrix and builder commands store nothing when they issue. Where an error has left
memory behind a cache (12 R288), a sector that the cache drops may fall back. -/
def Obligations.ReadingStoresNothing : Prop :=
  (∀ r ∈ readingRows, ∀ (f : Fields) (s s1 t : State) (c : Cur) (push : Option (Nat × Nat)) (i : Iss),
    r.Runs f s s1 c push i → isSlot c.wid → exec (r.ins f) s = .next t → BytesKept s t ∧ OnlyAccesses r.enc f c i.act s t)
  ∧ ∀ r ∈ sendingRows, ∀ (f : Fields) (s s1 t : State) (c : Cur) (push : Option (Nat × Nat)) (i : Iss),
    r.Runs f s s1 c push i → exec (r.ins f) s = .next t → BytesKept s t

/-- Stores and atomics change only the bytes at the physical addresses that their lanes' computed addresses translate to, and
those of exact slots that these overlap; no register but the destination changes. Where an error has left memory behind a cache
(12 R288), a sector that the cache drops may fall back. -/
def Obligations.StoresChangeOnlyTheirBytes : Prop :=
  ∀ x ∈ storingAccessors, ∀ (f : Fields) (s s1 s2 t : State) (c : Cur) (push : Option (Nat × Nat)) (i : Iss)
    (pas : List (Nat × Nat)),
    x.row.Runs f s s1 c push i → isSlot c.wid →
    reached i s1 i.act.lanes (x.addr i) (x.bytes i) .readWrite = some (s2, pas) → exec (x.ins f) s = .next t →
    BytesKeptBut s t (pas.map (·.2)) (x.bytes i) ∧ OnlyAccesses x.enc f c i.act s t

/-- STS changes only the bytes its lanes store in its allotment, or those of memory that registered granules there serve; a sector
that a cache drops may fall back where an error has left memory behind it (12 R288). -/
def Obligations.ScratchpadStoresChangeOnlyTheirBytes : Prop :=
  ∀ (f : Fields) (s s1 t : State) (c : Cur) (push : Option (Nat × Nat)) (i : Iss) (id : Nat) (a : Allot),
    (row .sts Enc.sts (when sts)).Runs f s s1 c push i → isSlot c.wid → s1.allotOf c.wid i.w = some (id, a) →
    AMap.get s1.allots id = some a → exec (.sts f) s = .next t →
    (∀ al x, ¬ stsMayChange i s id a al x → ¬ mayFallBack s al x → State.place t al x = State.place s al x)
    ∧ OnlyAccesses Enc.sts f c i.act s t

/-! ### The machine as a whole -/

/-- After reset: every timestamp and summary is 0, nothing is resident, queued or held, no context exists, the mailbox is idle,
no complex has booted, and the package is alone in its domains (13 R301, 19 R415, R422). The model's choice: what memory reads there
(assumption 1), the domains (assumption 2), and what the complexes hold before a boot (assumption 3). -/
def Obligations.ResetLeaves : Prop :=
  (∀ pa, State.reset.lineTimes pa = (0, 0)) ∧ (∀ d, (State.reset.die d).feuTime = 0)
  ∧ (∀ r, AMap.getD State.reset.summary r 0 = 0)
  ∧ (∀ wid, State.reset.warp? wid = none) ∧ (∀ k, AMap.get State.reset.ctxs k = none)
  ∧ (∀ q, AMap.get State.reset.queues q = none) ∧ State.reset.sup.mailbox = Mailbox.fresh
  ∧ State.reset.sup.complexes = [Complex.fresh, Complex.fresh] ∧ State.reset.links.coherence = [0]
  ∧ State.reset.links.domain = [0] ∧ ∀ a, Memory.read State.reset.mem a = 0

/-- A warp starts with its vector registers unmapped, so that they read zero, its uniform registers, tile descriptors and
counters 0, p0 to p14 false and p15 true, its queue bindings unbound, its mode register, status, HVEC and LEVEL 0, and no
task (05 R100, 07 R156, 09 R200, R212, 10 R223, 18 R401). Launch-loaded uniform registers are written after that. -/
def Obligations.WarpsStartReset : Prop :=
  ∀ (ctx launch team width nw : Nat) (lanes : List Lane),
    let w := Warp.start ctx launch team width nw lanes
    (∀ n, w.mapped n = false) ∧ (∀ n l, w.vreg n l = 0) ∧ (∀ n, w.wreg n = 0) ∧ (∀ n, w.treg n = 0)
    ∧ (∀ n, n ≠ 15 → w.preg n = 0) ∧ w.preg 15 = ~~~0#64 ∧ (∀ n, AMap.get w.q n = none) ∧ (∀ k, w.counter k = 0)
    ∧ w.mode = 0 ∧ w.zlane = false ∧ w.hvec = 0 ∧ w.handler = false ∧ w.task.valid = false

/-- The worked encodings of the spec decode to the instructions they stand for (03, 05, 06, 09-18). -/
def Obligations.WorkedWordsDecode : Prop :=
  decodeWord 16 16 0x40C0B0018000078000480003200E00000E80F000 = some (.ffma { plainFields with
    ty := .f32x2, op0 := .v 12 false .ident, op1 := .v 7 true .ident, op2 := .v 9 false .ident
    op3 := .v 12 true .ident, guardA := ⟨false, 3⟩, guardB := ⟨true, 4⟩ })
  ∧ decodeWord 16 16 0x00C0F84040060001B00015C0000E00003DE0F000 = some (.brc { plainFields with
    op0 := .p 2, op1 := .imm 6, op2 := .imm 10 })
  ∧ decodeWord 16 16 0x1000B0028000097AF80001C0000E00003DE0F000 = some (.mov { plainFields with
    ty := .f32x2, op0 := .v 20 false .ident, op1 := .v 9 false (.bcSub 11) })
  ∧ decodeWord 16 16 0x250048006000010000140041400E00003DE0F0CA = some (.lop3 { plainFields with
    ty := .b64, op0 := .v 3 false .ident, op1 := .v 1 false .ident, op2 := .v 2 true .ident, op3 := .w 5, mods := 0xCA })
  ∧ decodeWord 16 16 0x8080F8C20001040030010180040C08003DE02005 = some (.copy { plainFields with
    op0 := .imm 16384, op1 := .w 4, op2 := .imm 128, op3 := .imm 64, op4 := .imm 4096, counter := 2, mods := 5 })
  ∧ decodeWord 16 16 0x9000F8A040060400100801C0000E00003DE0F000 = some (.qbindPop { plainFields with
    op0 := .q 2, op1 := .imm 4096, op2 := .p 1 })
  ∧ decodeWord 16 16 0xA000F8C000160000380001C0000E00003DE0F000 = some (.waitle { plainFields with
    op0 := .imm 2, op1 := .imm 0 })
  ∧ decodeWord 16 16 0xA880508020030400182801C0000E00003DE03010 = some (.mma { plainFields with
    ty := .f32, op0 := .a 1, op1 := .t 4, op2 := .t 5, counter := 3, mods := 0x10 })
  ∧ decodeWord 16 16 0xC0804800C001040000100180003E00003DE0F000 = some (.ldx { plainFields with
    ty := .b64, op0 := .v 6 false .ident, op1 := .w 4, op2 := .v 2 false .ident, op3 := .imm 3 })
  ∧ decodeWord 16 16 0xE001F8E000070000380001C0000E00003DE0F004 = some (.esyncIn { plainFields with
    variant := 1, mods := 4 })
  ∧ decodeWord 16 16 0xF040F82040011000380001C0000E00003DE03006 = some (.build { plainFields with
    op0 := .w 2, op1 := .w 16, counter := 3, mods := 6 })
  ∧ decodeWord 16 16 0xF440F82080060004780001C0000E00003DE0F000 = some (.notify { plainFields with
    op0 := .w 4, op1 := .imm 17 })
  ∧ decodeWord 16 16 0x0340F8C0002F0000380001C0000E00003DE0F000 = some (.trap { plainFields with op0 := .imm 5 })

/-- When a picked warp's head bundle has a parcel that decodes to an instruction, the step runs exec of that instruction for
that bundle, and then notes the issue (03 R60, 04 R77, R80); a bundle whose accesses have been made in part runs its instruction
again (12 R275, 13 R300). -/
def Obligations.StepRunsTheHeadBundle : Prop :=
  (∀ (s s1 s4 t : State) (wid : Nat) (rest : List Action) (w1 : Warp) (g : Group) (hw next : Word) (i : Instr),
    HeadDecodes s s1 s4 wid rest w1 g hw (.instr i next) →
    exec i { s4 with cur := some ⟨wid, g.lanes, g.hdr, hw, g.pc, next⟩ } = .next t →
    step s = .next { (t.issued wid g (s1.groupInstr wid w1 g)) with cur := none, waited := false })
  ∧ ∀ (s t : State) (wid : Nat) (rest : List Action) (w : Warp) (x : Sending) (i : Instr),
    s.agenda = .issue wid :: rest → s.gated = false → s.warp? wid = some w → w.sending = some x →
    decodeIrlek w.width w.nw x.word = .ok i → exec i { s with agenda := rest, cur := some x.cur } = .next t →
    step s = .next { t with cur := none, waited := false }

/-- When a picked warp's head bundle has a parcel or a word that its decode refuses, the step takes that trap, ILLEGAL_PARCEL,
ILLEGAL_OPCODE or ILLEGAL_FIELD: every lane of the bundle in TMASK, 0 in TINFO, the first parcel in TEPC (03 R60, R61, 18 R398). -/
def Obligations.StepTakesDecodeTraps : Prop :=
  ∀ (s s1 s4 : State) (wid : Nat) (rest : List Action) (w1 : Warp) (g : Group) (hw : Word) (cause : Cause),
    HeadDecodes s s1 s4 wid rest w1 g hw (.trap cause) →
    step s = .next { ((s4.takeTrap wid cause g.lanes g.lanes 0 g.pc).issued wid g (s1.groupInstr wid w1 g)) with
      cur := none, waited := false }

/-- What a parcel decodes to. An escape must be of kind 0, and its word lie inside the body, or it gives ILLEGAL_PARCEL; a reference
must name an entry of the dictionary that serves the warp, or it gives that too, and is the entry's word, with guard A's predicate
replaced where it enables the override. The word then passes the rest of Table 3.7 in its order (03 R43, R47-R49, R60). -/
def Obligations.ParcelsDecode : Prop :=
  ∀ (s s1 : State) (wid : Nat) (w : Warp) (h hw pc : Word) (bs : List Byte),
    s.fetchBytes (coreOf wid) w.ctx w.launch pc 2 = (s1, .ok bs) →
    let x := BitVec.ofNat 16 (ofBytes bs)
    let stop := bodyEnd h (headerOf hw)
    if x.getLsbD 15 = true then
      (x.extractLsb' 12 3 ≠ 0 ∨ (stop - h).toNat < (pc + 22 - h).toNat →
        s.decodeAt wid w h hw pc = (s1, .trap .illegalParcel))
      ∧ ∀ s2 ys, x.extractLsb' 12 3 = 0 → (pc + 22 - h).toNat ≤ (stop - h).toNat →
        s1.fetchBytes (coreOf wid) w.ctx w.launch (pc + 2) 20 = (s2, .ok ys) →
        ∃ r, s.decodeAt wid w h hw pc = (s2, r) ∧ Checked w.width w.nw (BitVec.ofNat 160 (ofBytes ys))
          (decide (pc + 22 = stop)) (decide (x.extractLsb' 0 12 = 0)) (pc + 22) r
    else
      ((∀ b, s1.bankOf wid w = some b → b.words.length ≤ (x.extractLsb' 0 10).toNat) →
        s.decodeAt wid w h hw pc = (s1, .trap .illegalParcel))
      ∧ ∀ b y, s1.bankOf wid w = some b → b.words[(x.extractLsb' 0 10).toNat]? = some y →
        ∃ r z, s.decodeAt wid w h hw pc = (s1, r)
          ∧ Checked w.width w.nw z (decide (pc + 2 = stop)) (decide (x.getLsbD 14 = true ∨ x.extractLsb' 10 4 = 0)) (pc + 2) r
          ∧ ∀ j, j < 160 → z.getLsbD j =
            if x.getLsbD 14 = true ∧ 26 ≤ j ∧ j < 30 then x.getLsbD (10 + (j - 26)) else y.getLsbD j

/-- A queue's step runs exec of the Nibex instruction at its command's counter, and an event's step runs exec of the event with
what it happens to (17 R381, R385). -/
def Obligations.StepRunsNibexAndEvents : Prop :=
  (∀ (s t : State) (q : Nat) (rest : List Action) (k : Queue) (r : Running) (x : BitVec 32) (i : Instr),
    s.agenda = .nibex q :: rest → s.gated = false → AMap.get s.queues q = some k → k.running = some r →
    r.spent = false → ({ s with agenda := rest } : State).queueRuns k = true → k.program[r.pc]? = some x →
    decodeNibex x = some i → exec i { s with agenda := rest, nib := some q } = .next t →
    step s = .next { t with nib := none })
  ∧ ∀ (s : State) (i : Instr) (args : EventArgs) (rest : List Action), s.agenda = .event i args :: rest →
    s.gated = false → step s = exec i { s with agenda := rest, ev := args }

/-- The reset state is canonical: its memory is in its canonical form, and it holds no allotment. -/
def Obligations.ResetIsCanonical : Prop := Canonical State.reset ∧ State.reset.allots = []

/-- Every step keeps memory, and the memory of every allotment, in its canonical form: rising addresses, and no byte listed
that an unlisted address would read as. -/
def Obligations.StepKeepsMemoryCanonical : Prop := ∀ s t : State, Canonical s → step s = .next t → Canonical t

/-- For every well-formed instruction with an encoding, decode of encode is the instruction, with every operand at every value
its entry admits; and encode of decode is the word, so that no bit of a word is passed over (03 R55-R60, 17 R381). -/
def Obligations.DecodeAndEncodeAgree : Prop :=
  (∀ (w nw : Nat) (i : Instr) (e : Enc) (f : Fields), i.enc = some (e, f) → i.wfAt w nw = true →
    ∃ x : BitVec 160, encode i = some (160, x.toNat) ∧ decodeIrlek w nw x = .ok i)
  ∧ (∀ (i : Instr) (op : Nat) (f : NibexFields), i.nibex = some (op, f) → i.wf = true →
    ∃ x : BitVec 32, encode i = some (32, x.toNat) ∧ decodeNibex x = some i)
  ∧ (∀ (w nw : Nat) (x : BitVec 160) (i : Instr), decodeIrlek w nw x = .ok i →
    i.wfAt w nw = true ∧ encode i = some (160, x.toNat))
  ∧ ∀ (x : BitVec 32) (i : Instr), decodeNibex x = some i → i.wf = true ∧ encode i = some (32, x.toNat)
end

