-- ==== Sys2Proof/Laws/Elements.lean ====
section
/-! SUPPORT. Elements of joined and filled lanes, and what element-by-element operations put in each element. -/
namespace Sys2Proof

theorem Ty.width_pos (t : Ty) : 0 < t.width := by cases t <;> decide
theorem Ty.width_le (t : Ty) : t.width ≤ 64 := by cases t <;> decide
theorem Ty.count_width (t : Ty) : t.count * t.width ≤ 64 := by cases t <;> decide
theorem Ty.packed_width {t : Ty} (h : t.packed = true) : t.count * t.width = 64 := by cases t <;> simp_all [Ty.packed] <;> decide

/-- The number that joined elements make. -/
def joinNat (w : Nat) (xs : List Nat) : Nat := xs.foldr (fun x acc => x % 2 ^ w + acc * 2 ^ w) 0

theorem joinNat_lt (w : Nat) (xs : List Nat) : joinNat w xs < 2 ^ (xs.length * w) := by
  induction xs with
  | nil => simp [joinNat]
  | cons x xs ih =>
    have h : joinNat w (x :: xs) = x % 2 ^ w + joinNat w xs * 2 ^ w := rfl
    have h1 : x % 2 ^ w < 2 ^ w := Nat.mod_lt _ (Nat.two_pow_pos w)
    rw [h, List.length_cons, Nat.add_mul, Nat.one_mul, Nat.pow_add]
    have h2 := Nat.mul_le_mul_right (2 ^ w) (Nat.succ_le_of_lt ih)
    rw [Nat.succ_mul] at h2
    omega

theorem joinNat_digit (w : Nat) (xs : List Nat) (k : Nat) : joinNat w xs >>> (k * w) % 2 ^ w = (xs[k]?.getD 0) % 2 ^ w := by
  induction xs generalizing k with
  | nil => simp [joinNat]
  | cons x xs ih =>
    have h : joinNat w (x :: xs) = x % 2 ^ w + joinNat w xs * 2 ^ w := rfl
    have h1 : x % 2 ^ w < 2 ^ w := Nat.mod_lt _ (Nat.two_pow_pos w)
    cases k with
    | zero => simp [h, Nat.add_mul_mod_self_right]
    | succ k =>
      rw [h, Nat.add_mul, Nat.one_mul, Nat.add_comm (k * w) w, Nat.shiftRight_add, Nat.shiftRight_eq_div_pow _ w,
        Nat.add_mul_div_right _ _ (Nat.two_pow_pos w), Nat.div_eq_of_lt h1, Nat.zero_add, ih]
      simp

theorem elemAt_joinElems {w : Nat} {xs : List Nat} (h : xs.length * w ≤ 64) (k : Nat) :
    elemAt w (joinElems w xs) k = (xs[k]?.getD 0) % 2 ^ w := by
  have h1 := joinNat_lt w xs
  have h2 : 2 ^ (xs.length * w) ≤ 2 ^ 64 := Nat.pow_le_pow_right (by decide) h
  unfold elemAt joinElems
  rw [BitVec.toNat_ofNat]
  change (joinNat w xs % 2 ^ 64) >>> (k * w) % 2 ^ w = _
  rw [Nat.mod_eq_of_lt (a := joinNat w xs) (Nat.lt_of_lt_of_le h1 h2), joinNat_digit]

theorem elemAt_lt (w : Nat) (x : Word) (k : Nat) : elemAt w x k < 2 ^ w := Nat.mod_lt _ (Nat.two_pow_pos w)

theorem toSigned_mod (w x : Nat) : (toSigned w x) % (2 ^ w : Nat) = (x % 2 ^ w : Nat) := by
  unfold toSigned
  have := Nat.mod_lt x (Nat.two_pow_pos w)
  simp only
  split
  · rw [Int.emod_eq_of_lt (by omega) (by omega)]
  · rw [Int.sub_emod_right, Int.emod_eq_of_lt (by omega) (by omega)]

theorem wrapTo_toSigned (w x : Nat) : wrapTo w (toSigned w x) = x % 2 ^ w := by
  unfold wrapTo
  rw [toSigned_mod w x]; rfl

theorem wrapTo_lt (w : Nat) (x : Int) : wrapTo w x < 2 ^ w := by
  unfold wrapTo
  have h : (0 : Int) < ((2 ^ w : Nat) : Int) := by exact_mod_cast Nat.two_pow_pos w
  have := Int.emod_lt_of_pos x h
  have := Int.emod_nonneg x (by omega : ((2 ^ w : Nat) : Int) ≠ 0)
  omega

theorem wrapTo_nat (w x : Nat) : wrapTo w (x : Int) = x % 2 ^ w := by
  unfold wrapTo; norm_cast

theorem Ty.fill_toNat_mod (t : Ty) (x : Word) : (t.fill x).toNat % 2 ^ t.width = x.toNat % 2 ^ t.width := by
  have hw2 := t.width_le
  have hd : (2 : Nat) ^ t.width ∣ 2 ^ 64 := Nat.pow_dvd_pow 2 hw2
  unfold Ty.fill
  split
  · rfl
  · split
    · rw [BitVec.toNat_ofInt]
      have h1 := toSigned_mod t.width x.toNat
      have h2 : ((toSigned t.width x.toNat % ((2 ^ 64 : Nat) : Int)).toNat : Int) = toSigned t.width x.toNat % ((2 ^ 64 : Nat) : Int) :=
        Int.toNat_of_nonneg (Int.emod_nonneg _ (by decide))
      have h3 : ((2 ^ t.width : Nat) : Int) ∣ ((2 ^ 64 : Nat) : Int) := by exact_mod_cast hd
      have h4 : toSigned t.width x.toNat % ((2 ^ 64 : Nat) : Int) % ((2 ^ t.width : Nat) : Int) = toSigned t.width x.toNat % ((2 ^ t.width : Nat) : Int) :=
        Int.emod_emod_of_dvd _ h3
      have h5 : (((toSigned t.width x.toNat % ((2 ^ 64 : Nat) : Int)).toNat % 2 ^ t.width : Nat) : Int) = ((x.toNat % 2 ^ t.width : Nat) : Int) := by
        rw [Int.natCast_emod, h2, h4, h1]
      exact_mod_cast h5
    · rw [BitVec.toNat_ofNat, Nat.mod_mod_of_dvd _ hd, Nat.mod_mod]

theorem Ty.fill_fill (t : Ty) (x : Word) : t.fill (t.fill x) = t.fill x := by
  have h := t.fill_toNat_mod x
  by_cases h1 : (t.packed || t.width == 64) = true
  · simp [Ty.fill, h1]
  · by_cases h2 : t.signed = true
    · have e : ∀ y : Word, t.fill y = BitVec.ofInt 64 (toSigned t.width y.toNat) := fun y => by simp [Ty.fill, h1, h2]
      have : toSigned t.width (t.fill x).toNat = toSigned t.width x.toNat := by unfold toSigned; rw [h]
      rw [e (t.fill x), this, e x]
    · have e : ∀ y : Word, t.fill y = BitVec.ofNat 64 (y.toNat % 2 ^ t.width) := fun y => by simp [Ty.fill, h1, h2]
      rw [e (t.fill x), h, e x]

theorem Ty.fill_packed {t : Ty} (h : t.packed = true) (x : Word) : t.fill x = x := by simp [Ty.fill, h]

theorem Ty.elemAt_fill (t : Ty) (x : Word) {k : Nat} (hk : k < t.count) : elemAt t.width (t.fill x) k = elemAt t.width x k := by
  cases hp : t.packed with
  | true => rw [Ty.fill_packed hp]
  | false =>
    have : k = 0 := by simp [Ty.count, hp] at hk; exact hk
    subst this
    simp only [elemAt, Nat.zero_mul, Nat.shiftRight_zero]
    exact t.fill_toNat_mod x

theorem Ty.elemAt_join (t : Ty) {xs : List Nat} (h : xs.length = t.count) {k : Nat} (hk : k < t.count) :
    elemAt t.width (t.join xs) k = (xs[k]?.getD 0) % 2 ^ t.width := by
  unfold Ty.join
  rw [t.elemAt_fill _ hk, elemAt_joinElems (by rw [h]; exact t.count_width)]

theorem Ty.fill_join (t : Ty) (xs : List Nat) : t.fill (t.join xs) = t.join xs := t.fill_fill _

theorem Ty.elems_length (t : Ty) (x : Word) : (t.elems x).length = t.count := by simp [Ty.elems]
theorem Ty.elems_get (t : Ty) (x : Word) {k : Nat} (hk : k < t.count) : (t.elems x)[k]? = some (elemAt t.width x k) := by
  simp [Ty.elems, List.getElem?_map, List.getElem?_range hk]

namespace IntOps

theorem map1_elem (t : Ty) (f : Nat → Nat) (a : Word) {k : Nat} (hk : k < t.count) :
    elemAt t.width (map1 t f a) k = f (elemAt t.width a k) % 2 ^ t.width := by
  unfold map1
  rw [t.elemAt_join (by simp [t.elems_length]) hk]
  simp [t.elems_get a hk]

theorem map2_elem (t : Ty) (f : Nat → Nat → Nat) (a b : Word) {k : Nat} (hk : k < t.count) :
    elemAt t.width (map2 t f a b) k = f (elemAt t.width a k) (elemAt t.width b k) % 2 ^ t.width := by
  unfold map2
  rw [t.elemAt_join (by simp [t.elems_length]) hk]
  simp [List.getElem?_zipWith, t.elems_get a hk, t.elems_get b hk]

theorem map3_elem (t : Ty) (f : Nat → Nat → Nat → Nat) (a b c : Word) {k : Nat} (hk : k < t.count) :
    elemAt t.width (map3 t f a b c) k = f (elemAt t.width a k) (elemAt t.width b k) (elemAt t.width c k) % 2 ^ t.width := by
  unfold map3
  rw [t.elemAt_join (by simp [t.elems_length]) hk]
  simp [List.getElem?_zipWith, t.elems_get a hk, t.elems_get b hk, t.elems_get c hk]

theorem map1_fill (t : Ty) (f : Nat → Nat) (a : Word) : t.fill (map1 t f a) = map1 t f a := t.fill_join _
theorem map2_fill (t : Ty) (f : Nat → Nat → Nat) (a b : Word) : t.fill (map2 t f a b) = map2 t f a b := t.fill_join _
theorem map3_fill (t : Ty) (f : Nat → Nat → Nat → Nat) (a b c : Word) : t.fill (map3 t f a b c) = map3 t f a b c := t.fill_join _

end IntOps
end Sys2Proof
end

