-- ==== Sys2Proof/Laws/Map.lean ====
section
/-! SUPPORT. Sparse maps: reads after writes. Byte memory: reads after writes, and that every operation keeps the canonical form. -/
namespace Sys2Proof

/-! ### Sparse maps -/

theorem AMap.get_set_self {α : Type} (m : AMap α) (n : Nat) (x : α) : AMap.get (AMap.set m n x) n = some x := by
  induction m with
  | nil => simp [AMap.set, AMap.get]
  | cons p m ih =>
    obtain ⟨k, v⟩ := p
    simp only [AMap.set]
    split
    · simp [AMap.get]
    · split
      · simp [AMap.get]
      · simp [AMap.get, *]

theorem AMap.get_set_ne {α : Type} (m : AMap α) {n k : Nat} (x : α) (h : k ≠ n) :
    AMap.get (AMap.set m n x) k = AMap.get m k := by
  induction m with
  | nil => simp [AMap.set, AMap.get, h]
  | cons p m ih =>
    obtain ⟨j, v⟩ := p
    simp only [AMap.set]
    split
    · simp [AMap.get, h]
    · split
      · next h1 h2 => subst h2; simp [AMap.get, h]
      · simp only [AMap.get, ih]

theorem AMap.get_set {α : Type} (m : AMap α) (n k : Nat) (x : α) :
    AMap.get (AMap.set m n x) k = if k = n then some x else AMap.get m k := by
  split
  · next h => subst h; exact AMap.get_set_self m k x
  · next h => exact AMap.get_set_ne m x h

theorem AMap.get_erase_ne {α : Type} (m : AMap α) {n k : Nat} (h : k ≠ n) : AMap.get (AMap.erase m n) k = AMap.get m k := by
  induction m with
  | nil => rfl
  | cons p m ih =>
    obtain ⟨j, v⟩ := p
    simp only [AMap.erase]
    split
    · next h2 => subst h2; rw [ih]; simp [AMap.get, h]
    · simp only [AMap.get, ih]

theorem AMap.get_erase_self {α : Type} (m : AMap α) (n : Nat) : AMap.get (AMap.erase m n) n = none := by
  induction m with
  | nil => rfl
  | cons p m ih =>
    obtain ⟨j, v⟩ := p
    simp only [AMap.erase]
    split
    · exact ih
    · next h => simp only [AMap.get, if_neg h]; exact ih

theorem AMap.get_modify {α : Type} (m : AMap α) (n k : Nat) (f : α → α) :
    AMap.get (AMap.modify m n f) k = if k = n then (AMap.get m n).map f else AMap.get m k := by
  unfold AMap.modify
  split
  · next v h => rw [AMap.get_set, h]; rfl
  · next h => split
              · next e => subst e; rw [h]; rfl
              · rfl

theorem AMap.get_modify_self {α : Type} (m : AMap α) (n : Nat) (f : α → α) :
    AMap.get (AMap.modify m n f) n = (AMap.get m n).map f := by simp [AMap.get_modify]

theorem AMap.get_modify_ne {α : Type} (m : AMap α) {n k : Nat} (f : α → α) (h : k ≠ n) :
    AMap.get (AMap.modify m n f) k = AMap.get m k := by simp [AMap.get_modify, h]

/-- Only what a change makes of the entry that is there counts. -/
theorem AMap.modify_congr {α : Type} {m : AMap α} {n : Nat} {f g : α → α}
    (h : ∀ v, AMap.get m n = some v → f v = g v) : AMap.modify m n f = AMap.modify m n g := by
  unfold AMap.modify
  split
  · next v hv => rw [h v hv]
  · rfl

/-! ### The canonical form -/

/-- Every key is at or above a bound. -/
abbrev Memory.from_ (b : Nat) (m : Memory) : Prop := ∀ k v, (k, v) ∈ m → b ≤ k

theorem Memory.wf_cons {k : Nat} {v : Byte} {m : Memory} :
    Memory.wf ((k, v) :: m) = true ↔ v ≠ Memory.empty ∧ Memory.from_ (k + 1) m ∧ Memory.wf m = true := by
  induction m generalizing k v with
  | nil => simp [Memory.wf, Memory.from_]
  | cons p m ih =>
    obtain ⟨j, x⟩ := p
    simp only [Memory.wf, Bool.and_eq_true, bne_iff_ne, decide_eq_true_eq, Memory.from_, List.mem_cons]
    constructor
    · rintro ⟨⟨h1, h2⟩, h3⟩
      refine ⟨h1, ?_, h3⟩
      rintro i y (h | h)
      · cases h; omega
      · have := ((ih (k := j) (v := x)).1 h3).2.1 i y h; omega
    · rintro ⟨h1, h2, h3⟩
      exact ⟨⟨h1, h2 j x (Or.inl rfl)⟩, h3⟩

theorem Memory.from_set {b n : Nat} {x : Byte} {m : Memory} (hm : Memory.from_ b m) (hn : b ≤ n) :
    Memory.from_ b (AMap.set m n x) := by
  induction m with
  | nil => intro k v h; simp [AMap.set] at h; omega
  | cons p m ih =>
    obtain ⟨j, y⟩ := p
    have hj : b ≤ j := hm j y (by simp)
    have ht : Memory.from_ b m := fun k v h => hm k v (by simp [h])
    intro k v h
    simp only [AMap.set] at h
    split at h
    · rcases List.mem_cons.1 h with h | h
      · cases h; exact hn
      · exact hm k v h
    · split at h
      · rcases List.mem_cons.1 h with h | h
        · cases h; exact hn
        · exact ht k v h
      · rcases List.mem_cons.1 h with h | h
        · cases h; exact hj
        · exact ih ht k v h

theorem Memory.from_erase {b n : Nat} {m : Memory} (hm : Memory.from_ b m) : Memory.from_ b (AMap.erase m n) := by
  induction m with
  | nil => exact hm
  | cons p m ih =>
    obtain ⟨j, y⟩ := p
    have ht : Memory.from_ b m := fun k v h => hm k v (by simp [h])
    intro k v h
    simp only [AMap.erase] at h
    split at h
    · exact ih ht k v h
    · rcases List.mem_cons.1 h with h | h
      · cases h; exact hm j y (by simp)
      · exact ih ht k v h

theorem Memory.wf_set {m : Memory} {n : Nat} {x : Byte} (hm : m.wf = true) (hx : x ≠ Memory.empty) :
    Memory.wf (AMap.set m n x) = true := by
  induction m with
  | nil => simpa [AMap.set, Memory.wf] using hx
  | cons p m ih =>
    obtain ⟨j, y⟩ := p
    obtain ⟨h1, h2, h3⟩ := Memory.wf_cons.1 hm
    simp only [AMap.set]
    split
    · next h =>
      refine Memory.wf_cons.2 ⟨hx, ?_, hm⟩
      intro k v hk
      rcases List.mem_cons.1 hk with e | e
      · cases e; omega
      · have := h2 k v e; omega
    · split
      · next h => subst h; exact Memory.wf_cons.2 ⟨hx, h2, h3⟩
      · exact Memory.wf_cons.2 ⟨h1, Memory.from_set h2 (by omega), ih h3⟩

theorem Memory.wf_erase {m : Memory} {n : Nat} (hm : m.wf = true) : Memory.wf (AMap.erase m n) = true := by
  induction m with
  | nil => exact hm
  | cons p m ih =>
    obtain ⟨j, y⟩ := p
    obtain ⟨h1, h2, h3⟩ := Memory.wf_cons.1 hm
    simp only [AMap.erase]
    split
    · exact ih h3
    · exact Memory.wf_cons.2 ⟨h1, Memory.from_erase h2, ih h3⟩

/-- A write keeps the canonical form. -/
theorem Memory.wf_write {m : Memory} {a : Nat} {b : Byte} (hm : m.wf = true) : (m.write a b).wf = true := by
  unfold Memory.write
  split
  · exact Memory.wf_erase hm
  · next h => exact Memory.wf_set hm h

/-- Writes keep the canonical form. -/
theorem Memory.wf_writeN {bs : List Byte} {m : Memory} {a : Nat} (hm : m.wf = true) : (m.writeN a bs).wf = true := by
  induction bs generalizing m a with
  | nil => exact hm
  | cons b bs ih => exact ih (Memory.wf_write hm)

/-- What is left of a memory in canonical form is in canonical form. -/
theorem Memory.wf_filter {m : Memory} (q : Host.Cell → Bool) (hm : m.wf = true) : Memory.wf (m.filter q) = true := by
  induction m with
  | nil => exact hm
  | cons p m ih =>
    obtain ⟨j, y⟩ := p
    obtain ⟨h1, h2, h3⟩ := Memory.wf_cons.1 hm
    rw [List.filter_cons]
    split
    · exact Memory.wf_cons.2 ⟨h1, fun k v h => h2 k v (List.mem_filter.1 h).1, ih h3⟩
    · exact ih h3

/-! ### Reads after writes -/

/-- A byte just written reads as written. -/
theorem Memory.read_write_self {m : Memory} {a : Nat} {b : Byte} : (m.write a b).read a = b := by
  unfold Memory.write Memory.read
  split
  · next h => rw [AMap.get_erase_self, h]; rfl
  · rw [AMap.get_set_self]; rfl

/-- A write leaves every other byte. -/
theorem Memory.read_write_ne {m : Memory} {a k : Nat} {b : Byte} (h : k ≠ a) : (m.write a b).read k = m.read k := by
  unfold Memory.write Memory.read
  split
  · rw [AMap.get_erase_ne m h]
  · rw [AMap.get_set_ne m b h]

/-- Writes leave every byte outside them. -/
theorem Memory.read_writeN_outside {bs : List Byte} {m : Memory} {a k : Nat} (h : k < a ∨ a + bs.length ≤ k) :
    (m.writeN a bs).read k = m.read k := by
  induction bs generalizing m a with
  | nil => rfl
  | cons b bs ih =>
    simp only [List.length_cons] at h
    simp only [Memory.writeN]
    rw [ih (by omega), Memory.read_write_ne (by omega)]

/-- A byte among those written reads as written. -/
theorem Memory.read_writeN_inside {bs : List Byte} {m : Memory} {a i : Nat} {b : Byte}
    (h : bs[i]? = some b) : (m.writeN a bs).read (a + i) = b := by
  induction bs generalizing m a i with
  | nil => simp at h
  | cons c bs ih =>
    simp only [Memory.writeN]
    cases i with
    | zero =>
      simp only [List.getElem?_cons_zero, Option.some.injEq] at h
      subst h
      rw [Memory.read_writeN_outside (by omega), Nat.add_zero, Memory.read_write_self]
    | succ i =>
      simp only [List.getElem?_cons_succ] at h
      have := ih (m := m.write a c) (a := a + 1) h
      rwa [show a + 1 + i = a + (i + 1) by omega] at this

/-- Bytes just written read back. -/
theorem Memory.readN_writeN {bs : List Byte} {m : Memory} {a : Nat} :
    (m.writeN a bs).readN a bs.length = bs := by
  induction bs generalizing m a with
  | nil => rfl
  | cons b bs ih =>
    simp only [List.length_cons, Memory.readN, Memory.writeN]
    rw [ih, Memory.read_writeN_outside (by omega), Memory.read_write_self]

end Sys2Proof
end

