-- ==== Sys2Proof/Laws/State.lean ====
section
/-! SUPPORT. What each update of a piece of State leaves of every other field. -/
namespace Sys2Proof.Machine

/-! ### setWarp -/

@[simp] theorem State.setWarp_mem (s : State) (k : Nat) (w : Warp) : (s.setWarp k w).mem = s.mem := rfl
@[simp] theorem State.setWarp_l2Behind (s : State) (k : Nat) (w : Warp) : (s.setWarp k w).l2Behind = s.l2Behind := rfl
@[simp] theorem State.setWarp_mscBehind (s : State) (k : Nat) (w : Warp) : (s.setWarp k w).mscBehind = s.mscBehind := rfl
@[simp] theorem State.setWarp_l2 (s : State) (k : Nat) (w : Warp) : (s.setWarp k w).l2 = s.l2 := rfl
@[simp] theorem State.setWarp_msc (s : State) (k : Nat) (w : Warp) : (s.setWarp k w).msc = s.msc := rfl
@[simp] theorem State.setWarp_summary (s : State) (k : Nat) (w : Warp) : (s.setWarp k w).summary = s.summary := rfl
@[simp] theorem State.setWarp_slots (s : State) (k : Nat) (w : Warp) : (s.setWarp k w).slots = s.slots := rfl
@[simp] theorem State.setWarp_slotWaits (s : State) (k : Nat) (w : Warp) : (s.setWarp k w).slotWaits = s.slotWaits := rfl
@[simp] theorem State.setWarp_ranges (s : State) (k : Nat) (w : Warp) : (s.setWarp k w).ranges = s.ranges := rfl
@[simp] theorem State.setWarp_codeOld (s : State) (k : Nat) (w : Warp) : (s.setWarp k w).codeOld = s.codeOld := rfl
@[simp] theorem State.setWarp_cores (s : State) (k : Nat) (w : Warp) : (s.setWarp k w).cores = s.cores := rfl
@[simp] theorem State.setWarp_clusters (s : State) (k : Nat) (w : Warp) : (s.setWarp k w).clusters = s.clusters := rfl
@[simp] theorem State.setWarp_dies (s : State) (k : Nat) (w : Warp) : (s.setWarp k w).dies = s.dies := rfl
@[simp] theorem State.setWarp_gangs (s : State) (k : Nat) (w : Warp) : (s.setWarp k w).gangs = s.gangs := rfl
@[simp] theorem State.setWarp_allots (s : State) (k : Nat) (w : Warp) : (s.setWarp k w).allots = s.allots := rfl
@[simp] theorem State.setWarp_teams (s : State) (k : Nat) (w : Warp) : (s.setWarp k w).teams = s.teams := rfl
@[simp] theorem State.setWarp_launches (s : State) (k : Nat) (w : Warp) : (s.setWarp k w).launches = s.launches := rfl
@[simp] theorem State.setWarp_ctxs (s : State) (k : Nat) (w : Warp) : (s.setWarp k w).ctxs = s.ctxs := rfl
@[simp] theorem State.setWarp_queues (s : State) (k : Nat) (w : Warp) : (s.setWarp k w).queues = s.queues := rfl
@[simp] theorem State.setWarp_saved (s : State) (k : Nat) (w : Warp) : (s.setWarp k w).saved = s.saved := rfl
@[simp] theorem State.setWarp_evicts (s : State) (k : Nat) (w : Warp) : (s.setWarp k w).evicts = s.evicts := rfl
@[simp] theorem State.setWarp_sup (s : State) (k : Nat) (w : Warp) : (s.setWarp k w).sup = s.sup := rfl
@[simp] theorem State.setWarp_side (s : State) (k : Nat) (w : Warp) : (s.setWarp k w).side = s.side := rfl
@[simp] theorem State.setWarp_links (s : State) (k : Nat) (w : Warp) : (s.setWarp k w).links = s.links := rfl
@[simp] theorem State.setWarp_out (s : State) (k : Nat) (w : Warp) : (s.setWarp k w).out = s.out := rfl
@[simp] theorem State.setWarp_ns (s : State) (k : Nat) (w : Warp) : (s.setWarp k w).ns = s.ns := rfl
@[simp] theorem State.setWarp_cur (s : State) (k : Nat) (w : Warp) : (s.setWarp k w).cur = s.cur := rfl
@[simp] theorem State.setWarp_nib (s : State) (k : Nat) (w : Warp) : (s.setWarp k w).nib = s.nib := rfl
@[simp] theorem State.setWarp_ev (s : State) (k : Nat) (w : Warp) : (s.setWarp k w).ev = s.ev := rfl
@[simp] theorem State.setWarp_agenda (s : State) (k : Nat) (w : Warp) : (s.setWarp k w).agenda = s.agenda := rfl
@[simp] theorem State.setWarp_deferred (s : State) (k : Nat) (w : Warp) : (s.setWarp k w).deferred = s.deferred := rfl
@[simp] theorem State.setWarp_waited (s : State) (k : Nat) (w : Warp) : (s.setWarp k w).waited = s.waited := rfl
@[simp] theorem State.setWarp_free (s : State) (k : Nat) (w : Warp) : (s.setWarp k w).free = s.free := rfl
@[simp] theorem State.setWarp_uid (s : State) (k : Nat) (w : Warp) : (s.setWarp k w).uid = s.uid := rfl
@[simp] theorem State.setWarp_stamp (s : State) (k : Nat) (w : Warp) : (s.setWarp k w).stamp = s.stamp := rfl
@[simp] theorem State.setWarp_moving (s : State) (k : Nat) (w : Warp) : (s.setWarp k w).moving = s.moving := rfl
@[simp] theorem State.setWarp_ns1 (s : State) (k : Nat) (w : Warp) : (s.setWarp k w).ns1 = s.ns1 := rfl
@[simp] theorem State.setWarp_elapsed (s : State) (k : Nat) (w : Warp) : (s.setWarp k w).elapsed = s.elapsed := rfl
@[simp] theorem State.setWarp_burst (s : State) (k : Nat) (w : Warp) : (s.setWarp k w).burst = s.burst := rfl

/-! ### modCore -/

@[simp] theorem State.modCore_mem (s : State) (k : Nat) (g : Core → Core) : (s.modCore k g).mem = s.mem := rfl
@[simp] theorem State.modCore_l2Behind (s : State) (k : Nat) (g : Core → Core) : (s.modCore k g).l2Behind = s.l2Behind := rfl
@[simp] theorem State.modCore_mscBehind (s : State) (k : Nat) (g : Core → Core) : (s.modCore k g).mscBehind = s.mscBehind := rfl
@[simp] theorem State.modCore_l2 (s : State) (k : Nat) (g : Core → Core) : (s.modCore k g).l2 = s.l2 := rfl
@[simp] theorem State.modCore_msc (s : State) (k : Nat) (g : Core → Core) : (s.modCore k g).msc = s.msc := rfl
@[simp] theorem State.modCore_summary (s : State) (k : Nat) (g : Core → Core) : (s.modCore k g).summary = s.summary := rfl
@[simp] theorem State.modCore_slots (s : State) (k : Nat) (g : Core → Core) : (s.modCore k g).slots = s.slots := rfl
@[simp] theorem State.modCore_slotWaits (s : State) (k : Nat) (g : Core → Core) : (s.modCore k g).slotWaits = s.slotWaits := rfl
@[simp] theorem State.modCore_ranges (s : State) (k : Nat) (g : Core → Core) : (s.modCore k g).ranges = s.ranges := rfl
@[simp] theorem State.modCore_codeOld (s : State) (k : Nat) (g : Core → Core) : (s.modCore k g).codeOld = s.codeOld := rfl
@[simp] theorem State.modCore_warps (s : State) (k : Nat) (g : Core → Core) : (s.modCore k g).warps = s.warps := rfl
@[simp] theorem State.modCore_clusters (s : State) (k : Nat) (g : Core → Core) : (s.modCore k g).clusters = s.clusters := rfl
@[simp] theorem State.modCore_dies (s : State) (k : Nat) (g : Core → Core) : (s.modCore k g).dies = s.dies := rfl
@[simp] theorem State.modCore_gangs (s : State) (k : Nat) (g : Core → Core) : (s.modCore k g).gangs = s.gangs := rfl
@[simp] theorem State.modCore_allots (s : State) (k : Nat) (g : Core → Core) : (s.modCore k g).allots = s.allots := rfl
@[simp] theorem State.modCore_teams (s : State) (k : Nat) (g : Core → Core) : (s.modCore k g).teams = s.teams := rfl
@[simp] theorem State.modCore_launches (s : State) (k : Nat) (g : Core → Core) : (s.modCore k g).launches = s.launches := rfl
@[simp] theorem State.modCore_ctxs (s : State) (k : Nat) (g : Core → Core) : (s.modCore k g).ctxs = s.ctxs := rfl
@[simp] theorem State.modCore_queues (s : State) (k : Nat) (g : Core → Core) : (s.modCore k g).queues = s.queues := rfl
@[simp] theorem State.modCore_saved (s : State) (k : Nat) (g : Core → Core) : (s.modCore k g).saved = s.saved := rfl
@[simp] theorem State.modCore_evicts (s : State) (k : Nat) (g : Core → Core) : (s.modCore k g).evicts = s.evicts := rfl
@[simp] theorem State.modCore_sup (s : State) (k : Nat) (g : Core → Core) : (s.modCore k g).sup = s.sup := rfl
@[simp] theorem State.modCore_side (s : State) (k : Nat) (g : Core → Core) : (s.modCore k g).side = s.side := rfl
@[simp] theorem State.modCore_links (s : State) (k : Nat) (g : Core → Core) : (s.modCore k g).links = s.links := rfl
@[simp] theorem State.modCore_out (s : State) (k : Nat) (g : Core → Core) : (s.modCore k g).out = s.out := rfl
@[simp] theorem State.modCore_ns (s : State) (k : Nat) (g : Core → Core) : (s.modCore k g).ns = s.ns := rfl
@[simp] theorem State.modCore_cur (s : State) (k : Nat) (g : Core → Core) : (s.modCore k g).cur = s.cur := rfl
@[simp] theorem State.modCore_nib (s : State) (k : Nat) (g : Core → Core) : (s.modCore k g).nib = s.nib := rfl
@[simp] theorem State.modCore_ev (s : State) (k : Nat) (g : Core → Core) : (s.modCore k g).ev = s.ev := rfl
@[simp] theorem State.modCore_agenda (s : State) (k : Nat) (g : Core → Core) : (s.modCore k g).agenda = s.agenda := rfl
@[simp] theorem State.modCore_deferred (s : State) (k : Nat) (g : Core → Core) : (s.modCore k g).deferred = s.deferred := rfl
@[simp] theorem State.modCore_waited (s : State) (k : Nat) (g : Core → Core) : (s.modCore k g).waited = s.waited := rfl
@[simp] theorem State.modCore_free (s : State) (k : Nat) (g : Core → Core) : (s.modCore k g).free = s.free := rfl
@[simp] theorem State.modCore_uid (s : State) (k : Nat) (g : Core → Core) : (s.modCore k g).uid = s.uid := rfl
@[simp] theorem State.modCore_stamp (s : State) (k : Nat) (g : Core → Core) : (s.modCore k g).stamp = s.stamp := rfl
@[simp] theorem State.modCore_moving (s : State) (k : Nat) (g : Core → Core) : (s.modCore k g).moving = s.moving := rfl
@[simp] theorem State.modCore_ns1 (s : State) (k : Nat) (g : Core → Core) : (s.modCore k g).ns1 = s.ns1 := rfl
@[simp] theorem State.modCore_elapsed (s : State) (k : Nat) (g : Core → Core) : (s.modCore k g).elapsed = s.elapsed := rfl
@[simp] theorem State.modCore_burst (s : State) (k : Nat) (g : Core → Core) : (s.modCore k g).burst = s.burst := rfl

/-! ### modCluster -/

@[simp] theorem State.modCluster_mem (s : State) (k : Nat) (g : Cluster → Cluster) : (s.modCluster k g).mem = s.mem := rfl
@[simp] theorem State.modCluster_l2Behind (s : State) (k : Nat) (g : Cluster → Cluster) : (s.modCluster k g).l2Behind = s.l2Behind := rfl
@[simp] theorem State.modCluster_mscBehind (s : State) (k : Nat) (g : Cluster → Cluster) : (s.modCluster k g).mscBehind = s.mscBehind := rfl
@[simp] theorem State.modCluster_l2 (s : State) (k : Nat) (g : Cluster → Cluster) : (s.modCluster k g).l2 = s.l2 := rfl
@[simp] theorem State.modCluster_msc (s : State) (k : Nat) (g : Cluster → Cluster) : (s.modCluster k g).msc = s.msc := rfl
@[simp] theorem State.modCluster_summary (s : State) (k : Nat) (g : Cluster → Cluster) : (s.modCluster k g).summary = s.summary := rfl
@[simp] theorem State.modCluster_slots (s : State) (k : Nat) (g : Cluster → Cluster) : (s.modCluster k g).slots = s.slots := rfl
@[simp] theorem State.modCluster_slotWaits (s : State) (k : Nat) (g : Cluster → Cluster) : (s.modCluster k g).slotWaits = s.slotWaits := rfl
@[simp] theorem State.modCluster_ranges (s : State) (k : Nat) (g : Cluster → Cluster) : (s.modCluster k g).ranges = s.ranges := rfl
@[simp] theorem State.modCluster_codeOld (s : State) (k : Nat) (g : Cluster → Cluster) : (s.modCluster k g).codeOld = s.codeOld := rfl
@[simp] theorem State.modCluster_warps (s : State) (k : Nat) (g : Cluster → Cluster) : (s.modCluster k g).warps = s.warps := rfl
@[simp] theorem State.modCluster_cores (s : State) (k : Nat) (g : Cluster → Cluster) : (s.modCluster k g).cores = s.cores := rfl
@[simp] theorem State.modCluster_dies (s : State) (k : Nat) (g : Cluster → Cluster) : (s.modCluster k g).dies = s.dies := rfl
@[simp] theorem State.modCluster_gangs (s : State) (k : Nat) (g : Cluster → Cluster) : (s.modCluster k g).gangs = s.gangs := rfl
@[simp] theorem State.modCluster_allots (s : State) (k : Nat) (g : Cluster → Cluster) : (s.modCluster k g).allots = s.allots := rfl
@[simp] theorem State.modCluster_teams (s : State) (k : Nat) (g : Cluster → Cluster) : (s.modCluster k g).teams = s.teams := rfl
@[simp] theorem State.modCluster_launches (s : State) (k : Nat) (g : Cluster → Cluster) : (s.modCluster k g).launches = s.launches := rfl
@[simp] theorem State.modCluster_ctxs (s : State) (k : Nat) (g : Cluster → Cluster) : (s.modCluster k g).ctxs = s.ctxs := rfl
@[simp] theorem State.modCluster_queues (s : State) (k : Nat) (g : Cluster → Cluster) : (s.modCluster k g).queues = s.queues := rfl
@[simp] theorem State.modCluster_saved (s : State) (k : Nat) (g : Cluster → Cluster) : (s.modCluster k g).saved = s.saved := rfl
@[simp] theorem State.modCluster_evicts (s : State) (k : Nat) (g : Cluster → Cluster) : (s.modCluster k g).evicts = s.evicts := rfl
@[simp] theorem State.modCluster_sup (s : State) (k : Nat) (g : Cluster → Cluster) : (s.modCluster k g).sup = s.sup := rfl
@[simp] theorem State.modCluster_side (s : State) (k : Nat) (g : Cluster → Cluster) : (s.modCluster k g).side = s.side := rfl
@[simp] theorem State.modCluster_links (s : State) (k : Nat) (g : Cluster → Cluster) : (s.modCluster k g).links = s.links := rfl
@[simp] theorem State.modCluster_out (s : State) (k : Nat) (g : Cluster → Cluster) : (s.modCluster k g).out = s.out := rfl
@[simp] theorem State.modCluster_ns (s : State) (k : Nat) (g : Cluster → Cluster) : (s.modCluster k g).ns = s.ns := rfl
@[simp] theorem State.modCluster_cur (s : State) (k : Nat) (g : Cluster → Cluster) : (s.modCluster k g).cur = s.cur := rfl
@[simp] theorem State.modCluster_nib (s : State) (k : Nat) (g : Cluster → Cluster) : (s.modCluster k g).nib = s.nib := rfl
@[simp] theorem State.modCluster_ev (s : State) (k : Nat) (g : Cluster → Cluster) : (s.modCluster k g).ev = s.ev := rfl
@[simp] theorem State.modCluster_agenda (s : State) (k : Nat) (g : Cluster → Cluster) : (s.modCluster k g).agenda = s.agenda := rfl
@[simp] theorem State.modCluster_deferred (s : State) (k : Nat) (g : Cluster → Cluster) : (s.modCluster k g).deferred = s.deferred := rfl
@[simp] theorem State.modCluster_waited (s : State) (k : Nat) (g : Cluster → Cluster) : (s.modCluster k g).waited = s.waited := rfl
@[simp] theorem State.modCluster_free (s : State) (k : Nat) (g : Cluster → Cluster) : (s.modCluster k g).free = s.free := rfl
@[simp] theorem State.modCluster_uid (s : State) (k : Nat) (g : Cluster → Cluster) : (s.modCluster k g).uid = s.uid := rfl
@[simp] theorem State.modCluster_stamp (s : State) (k : Nat) (g : Cluster → Cluster) : (s.modCluster k g).stamp = s.stamp := rfl
@[simp] theorem State.modCluster_moving (s : State) (k : Nat) (g : Cluster → Cluster) : (s.modCluster k g).moving = s.moving := rfl
@[simp] theorem State.modCluster_ns1 (s : State) (k : Nat) (g : Cluster → Cluster) : (s.modCluster k g).ns1 = s.ns1 := rfl
@[simp] theorem State.modCluster_elapsed (s : State) (k : Nat) (g : Cluster → Cluster) : (s.modCluster k g).elapsed = s.elapsed := rfl
@[simp] theorem State.modCluster_burst (s : State) (k : Nat) (g : Cluster → Cluster) : (s.modCluster k g).burst = s.burst := rfl

/-! ### modDie -/

@[simp] theorem State.modDie_mem (s : State) (k : Nat) (g : Die → Die) : (s.modDie k g).mem = s.mem := rfl
@[simp] theorem State.modDie_l2Behind (s : State) (k : Nat) (g : Die → Die) : (s.modDie k g).l2Behind = s.l2Behind := rfl
@[simp] theorem State.modDie_mscBehind (s : State) (k : Nat) (g : Die → Die) : (s.modDie k g).mscBehind = s.mscBehind := rfl
@[simp] theorem State.modDie_l2 (s : State) (k : Nat) (g : Die → Die) : (s.modDie k g).l2 = s.l2 := rfl
@[simp] theorem State.modDie_msc (s : State) (k : Nat) (g : Die → Die) : (s.modDie k g).msc = s.msc := rfl
@[simp] theorem State.modDie_summary (s : State) (k : Nat) (g : Die → Die) : (s.modDie k g).summary = s.summary := rfl
@[simp] theorem State.modDie_slots (s : State) (k : Nat) (g : Die → Die) : (s.modDie k g).slots = s.slots := rfl
@[simp] theorem State.modDie_slotWaits (s : State) (k : Nat) (g : Die → Die) : (s.modDie k g).slotWaits = s.slotWaits := rfl
@[simp] theorem State.modDie_ranges (s : State) (k : Nat) (g : Die → Die) : (s.modDie k g).ranges = s.ranges := rfl
@[simp] theorem State.modDie_codeOld (s : State) (k : Nat) (g : Die → Die) : (s.modDie k g).codeOld = s.codeOld := rfl
@[simp] theorem State.modDie_warps (s : State) (k : Nat) (g : Die → Die) : (s.modDie k g).warps = s.warps := rfl
@[simp] theorem State.modDie_cores (s : State) (k : Nat) (g : Die → Die) : (s.modDie k g).cores = s.cores := rfl
@[simp] theorem State.modDie_clusters (s : State) (k : Nat) (g : Die → Die) : (s.modDie k g).clusters = s.clusters := rfl
@[simp] theorem State.modDie_gangs (s : State) (k : Nat) (g : Die → Die) : (s.modDie k g).gangs = s.gangs := rfl
@[simp] theorem State.modDie_allots (s : State) (k : Nat) (g : Die → Die) : (s.modDie k g).allots = s.allots := rfl
@[simp] theorem State.modDie_teams (s : State) (k : Nat) (g : Die → Die) : (s.modDie k g).teams = s.teams := rfl
@[simp] theorem State.modDie_launches (s : State) (k : Nat) (g : Die → Die) : (s.modDie k g).launches = s.launches := rfl
@[simp] theorem State.modDie_ctxs (s : State) (k : Nat) (g : Die → Die) : (s.modDie k g).ctxs = s.ctxs := rfl
@[simp] theorem State.modDie_queues (s : State) (k : Nat) (g : Die → Die) : (s.modDie k g).queues = s.queues := rfl
@[simp] theorem State.modDie_saved (s : State) (k : Nat) (g : Die → Die) : (s.modDie k g).saved = s.saved := rfl
@[simp] theorem State.modDie_evicts (s : State) (k : Nat) (g : Die → Die) : (s.modDie k g).evicts = s.evicts := rfl
@[simp] theorem State.modDie_sup (s : State) (k : Nat) (g : Die → Die) : (s.modDie k g).sup = s.sup := rfl
@[simp] theorem State.modDie_side (s : State) (k : Nat) (g : Die → Die) : (s.modDie k g).side = s.side := rfl
@[simp] theorem State.modDie_links (s : State) (k : Nat) (g : Die → Die) : (s.modDie k g).links = s.links := rfl
@[simp] theorem State.modDie_out (s : State) (k : Nat) (g : Die → Die) : (s.modDie k g).out = s.out := rfl
@[simp] theorem State.modDie_ns (s : State) (k : Nat) (g : Die → Die) : (s.modDie k g).ns = s.ns := rfl
@[simp] theorem State.modDie_cur (s : State) (k : Nat) (g : Die → Die) : (s.modDie k g).cur = s.cur := rfl
@[simp] theorem State.modDie_nib (s : State) (k : Nat) (g : Die → Die) : (s.modDie k g).nib = s.nib := rfl
@[simp] theorem State.modDie_ev (s : State) (k : Nat) (g : Die → Die) : (s.modDie k g).ev = s.ev := rfl
@[simp] theorem State.modDie_agenda (s : State) (k : Nat) (g : Die → Die) : (s.modDie k g).agenda = s.agenda := rfl
@[simp] theorem State.modDie_deferred (s : State) (k : Nat) (g : Die → Die) : (s.modDie k g).deferred = s.deferred := rfl
@[simp] theorem State.modDie_waited (s : State) (k : Nat) (g : Die → Die) : (s.modDie k g).waited = s.waited := rfl
@[simp] theorem State.modDie_free (s : State) (k : Nat) (g : Die → Die) : (s.modDie k g).free = s.free := rfl
@[simp] theorem State.modDie_uid (s : State) (k : Nat) (g : Die → Die) : (s.modDie k g).uid = s.uid := rfl
@[simp] theorem State.modDie_stamp (s : State) (k : Nat) (g : Die → Die) : (s.modDie k g).stamp = s.stamp := rfl
@[simp] theorem State.modDie_moving (s : State) (k : Nat) (g : Die → Die) : (s.modDie k g).moving = s.moving := rfl
@[simp] theorem State.modDie_ns1 (s : State) (k : Nat) (g : Die → Die) : (s.modDie k g).ns1 = s.ns1 := rfl
@[simp] theorem State.modDie_elapsed (s : State) (k : Nat) (g : Die → Die) : (s.modDie k g).elapsed = s.elapsed := rfl
@[simp] theorem State.modDie_burst (s : State) (k : Nat) (g : Die → Die) : (s.modDie k g).burst = s.burst := rfl

/-! ### modAllot -/

@[simp] theorem State.modAllot_mem (s : State) (k : Nat) (g : Allot → Allot) : (s.modAllot k g).mem = s.mem := rfl
@[simp] theorem State.modAllot_l2Behind (s : State) (k : Nat) (g : Allot → Allot) : (s.modAllot k g).l2Behind = s.l2Behind := rfl
@[simp] theorem State.modAllot_mscBehind (s : State) (k : Nat) (g : Allot → Allot) : (s.modAllot k g).mscBehind = s.mscBehind := rfl
@[simp] theorem State.modAllot_l2 (s : State) (k : Nat) (g : Allot → Allot) : (s.modAllot k g).l2 = s.l2 := rfl
@[simp] theorem State.modAllot_msc (s : State) (k : Nat) (g : Allot → Allot) : (s.modAllot k g).msc = s.msc := rfl
@[simp] theorem State.modAllot_summary (s : State) (k : Nat) (g : Allot → Allot) : (s.modAllot k g).summary = s.summary := rfl
@[simp] theorem State.modAllot_slots (s : State) (k : Nat) (g : Allot → Allot) : (s.modAllot k g).slots = s.slots := rfl
@[simp] theorem State.modAllot_slotWaits (s : State) (k : Nat) (g : Allot → Allot) : (s.modAllot k g).slotWaits = s.slotWaits := rfl
@[simp] theorem State.modAllot_ranges (s : State) (k : Nat) (g : Allot → Allot) : (s.modAllot k g).ranges = s.ranges := rfl
@[simp] theorem State.modAllot_codeOld (s : State) (k : Nat) (g : Allot → Allot) : (s.modAllot k g).codeOld = s.codeOld := rfl
@[simp] theorem State.modAllot_warps (s : State) (k : Nat) (g : Allot → Allot) : (s.modAllot k g).warps = s.warps := rfl
@[simp] theorem State.modAllot_cores (s : State) (k : Nat) (g : Allot → Allot) : (s.modAllot k g).cores = s.cores := rfl
@[simp] theorem State.modAllot_clusters (s : State) (k : Nat) (g : Allot → Allot) : (s.modAllot k g).clusters = s.clusters := rfl
@[simp] theorem State.modAllot_dies (s : State) (k : Nat) (g : Allot → Allot) : (s.modAllot k g).dies = s.dies := rfl
@[simp] theorem State.modAllot_gangs (s : State) (k : Nat) (g : Allot → Allot) : (s.modAllot k g).gangs = s.gangs := rfl
@[simp] theorem State.modAllot_teams (s : State) (k : Nat) (g : Allot → Allot) : (s.modAllot k g).teams = s.teams := rfl
@[simp] theorem State.modAllot_launches (s : State) (k : Nat) (g : Allot → Allot) : (s.modAllot k g).launches = s.launches := rfl
@[simp] theorem State.modAllot_ctxs (s : State) (k : Nat) (g : Allot → Allot) : (s.modAllot k g).ctxs = s.ctxs := rfl
@[simp] theorem State.modAllot_queues (s : State) (k : Nat) (g : Allot → Allot) : (s.modAllot k g).queues = s.queues := rfl
@[simp] theorem State.modAllot_saved (s : State) (k : Nat) (g : Allot → Allot) : (s.modAllot k g).saved = s.saved := rfl
@[simp] theorem State.modAllot_evicts (s : State) (k : Nat) (g : Allot → Allot) : (s.modAllot k g).evicts = s.evicts := rfl
@[simp] theorem State.modAllot_sup (s : State) (k : Nat) (g : Allot → Allot) : (s.modAllot k g).sup = s.sup := rfl
@[simp] theorem State.modAllot_side (s : State) (k : Nat) (g : Allot → Allot) : (s.modAllot k g).side = s.side := rfl
@[simp] theorem State.modAllot_links (s : State) (k : Nat) (g : Allot → Allot) : (s.modAllot k g).links = s.links := rfl
@[simp] theorem State.modAllot_out (s : State) (k : Nat) (g : Allot → Allot) : (s.modAllot k g).out = s.out := rfl
@[simp] theorem State.modAllot_ns (s : State) (k : Nat) (g : Allot → Allot) : (s.modAllot k g).ns = s.ns := rfl
@[simp] theorem State.modAllot_cur (s : State) (k : Nat) (g : Allot → Allot) : (s.modAllot k g).cur = s.cur := rfl
@[simp] theorem State.modAllot_nib (s : State) (k : Nat) (g : Allot → Allot) : (s.modAllot k g).nib = s.nib := rfl
@[simp] theorem State.modAllot_ev (s : State) (k : Nat) (g : Allot → Allot) : (s.modAllot k g).ev = s.ev := rfl
@[simp] theorem State.modAllot_agenda (s : State) (k : Nat) (g : Allot → Allot) : (s.modAllot k g).agenda = s.agenda := rfl
@[simp] theorem State.modAllot_deferred (s : State) (k : Nat) (g : Allot → Allot) : (s.modAllot k g).deferred = s.deferred := rfl
@[simp] theorem State.modAllot_waited (s : State) (k : Nat) (g : Allot → Allot) : (s.modAllot k g).waited = s.waited := rfl
@[simp] theorem State.modAllot_free (s : State) (k : Nat) (g : Allot → Allot) : (s.modAllot k g).free = s.free := rfl
@[simp] theorem State.modAllot_uid (s : State) (k : Nat) (g : Allot → Allot) : (s.modAllot k g).uid = s.uid := rfl
@[simp] theorem State.modAllot_stamp (s : State) (k : Nat) (g : Allot → Allot) : (s.modAllot k g).stamp = s.stamp := rfl
@[simp] theorem State.modAllot_moving (s : State) (k : Nat) (g : Allot → Allot) : (s.modAllot k g).moving = s.moving := rfl
@[simp] theorem State.modAllot_ns1 (s : State) (k : Nat) (g : Allot → Allot) : (s.modAllot k g).ns1 = s.ns1 := rfl
@[simp] theorem State.modAllot_elapsed (s : State) (k : Nat) (g : Allot → Allot) : (s.modAllot k g).elapsed = s.elapsed := rfl
@[simp] theorem State.modAllot_burst (s : State) (k : Nat) (g : Allot → Allot) : (s.modAllot k g).burst = s.burst := rfl

/-! ### modGang -/

@[simp] theorem State.modGang_mem (s : State) (k : Nat) (g : Gang → Gang) : (s.modGang k g).mem = s.mem := rfl
@[simp] theorem State.modGang_l2Behind (s : State) (k : Nat) (g : Gang → Gang) : (s.modGang k g).l2Behind = s.l2Behind := rfl
@[simp] theorem State.modGang_mscBehind (s : State) (k : Nat) (g : Gang → Gang) : (s.modGang k g).mscBehind = s.mscBehind := rfl
@[simp] theorem State.modGang_l2 (s : State) (k : Nat) (g : Gang → Gang) : (s.modGang k g).l2 = s.l2 := rfl
@[simp] theorem State.modGang_msc (s : State) (k : Nat) (g : Gang → Gang) : (s.modGang k g).msc = s.msc := rfl
@[simp] theorem State.modGang_summary (s : State) (k : Nat) (g : Gang → Gang) : (s.modGang k g).summary = s.summary := rfl
@[simp] theorem State.modGang_slots (s : State) (k : Nat) (g : Gang → Gang) : (s.modGang k g).slots = s.slots := rfl
@[simp] theorem State.modGang_slotWaits (s : State) (k : Nat) (g : Gang → Gang) : (s.modGang k g).slotWaits = s.slotWaits := rfl
@[simp] theorem State.modGang_ranges (s : State) (k : Nat) (g : Gang → Gang) : (s.modGang k g).ranges = s.ranges := rfl
@[simp] theorem State.modGang_codeOld (s : State) (k : Nat) (g : Gang → Gang) : (s.modGang k g).codeOld = s.codeOld := rfl
@[simp] theorem State.modGang_warps (s : State) (k : Nat) (g : Gang → Gang) : (s.modGang k g).warps = s.warps := rfl
@[simp] theorem State.modGang_cores (s : State) (k : Nat) (g : Gang → Gang) : (s.modGang k g).cores = s.cores := rfl
@[simp] theorem State.modGang_clusters (s : State) (k : Nat) (g : Gang → Gang) : (s.modGang k g).clusters = s.clusters := rfl
@[simp] theorem State.modGang_dies (s : State) (k : Nat) (g : Gang → Gang) : (s.modGang k g).dies = s.dies := rfl
@[simp] theorem State.modGang_allots (s : State) (k : Nat) (g : Gang → Gang) : (s.modGang k g).allots = s.allots := rfl
@[simp] theorem State.modGang_teams (s : State) (k : Nat) (g : Gang → Gang) : (s.modGang k g).teams = s.teams := rfl
@[simp] theorem State.modGang_launches (s : State) (k : Nat) (g : Gang → Gang) : (s.modGang k g).launches = s.launches := rfl
@[simp] theorem State.modGang_ctxs (s : State) (k : Nat) (g : Gang → Gang) : (s.modGang k g).ctxs = s.ctxs := rfl
@[simp] theorem State.modGang_queues (s : State) (k : Nat) (g : Gang → Gang) : (s.modGang k g).queues = s.queues := rfl
@[simp] theorem State.modGang_saved (s : State) (k : Nat) (g : Gang → Gang) : (s.modGang k g).saved = s.saved := rfl
@[simp] theorem State.modGang_evicts (s : State) (k : Nat) (g : Gang → Gang) : (s.modGang k g).evicts = s.evicts := rfl
@[simp] theorem State.modGang_sup (s : State) (k : Nat) (g : Gang → Gang) : (s.modGang k g).sup = s.sup := rfl
@[simp] theorem State.modGang_side (s : State) (k : Nat) (g : Gang → Gang) : (s.modGang k g).side = s.side := rfl
@[simp] theorem State.modGang_links (s : State) (k : Nat) (g : Gang → Gang) : (s.modGang k g).links = s.links := rfl
@[simp] theorem State.modGang_out (s : State) (k : Nat) (g : Gang → Gang) : (s.modGang k g).out = s.out := rfl
@[simp] theorem State.modGang_ns (s : State) (k : Nat) (g : Gang → Gang) : (s.modGang k g).ns = s.ns := rfl
@[simp] theorem State.modGang_cur (s : State) (k : Nat) (g : Gang → Gang) : (s.modGang k g).cur = s.cur := rfl
@[simp] theorem State.modGang_nib (s : State) (k : Nat) (g : Gang → Gang) : (s.modGang k g).nib = s.nib := rfl
@[simp] theorem State.modGang_ev (s : State) (k : Nat) (g : Gang → Gang) : (s.modGang k g).ev = s.ev := rfl
@[simp] theorem State.modGang_agenda (s : State) (k : Nat) (g : Gang → Gang) : (s.modGang k g).agenda = s.agenda := rfl
@[simp] theorem State.modGang_deferred (s : State) (k : Nat) (g : Gang → Gang) : (s.modGang k g).deferred = s.deferred := rfl
@[simp] theorem State.modGang_waited (s : State) (k : Nat) (g : Gang → Gang) : (s.modGang k g).waited = s.waited := rfl
@[simp] theorem State.modGang_free (s : State) (k : Nat) (g : Gang → Gang) : (s.modGang k g).free = s.free := rfl
@[simp] theorem State.modGang_uid (s : State) (k : Nat) (g : Gang → Gang) : (s.modGang k g).uid = s.uid := rfl
@[simp] theorem State.modGang_stamp (s : State) (k : Nat) (g : Gang → Gang) : (s.modGang k g).stamp = s.stamp := rfl
@[simp] theorem State.modGang_moving (s : State) (k : Nat) (g : Gang → Gang) : (s.modGang k g).moving = s.moving := rfl
@[simp] theorem State.modGang_ns1 (s : State) (k : Nat) (g : Gang → Gang) : (s.modGang k g).ns1 = s.ns1 := rfl
@[simp] theorem State.modGang_elapsed (s : State) (k : Nat) (g : Gang → Gang) : (s.modGang k g).elapsed = s.elapsed := rfl
@[simp] theorem State.modGang_burst (s : State) (k : Nat) (g : Gang → Gang) : (s.modGang k g).burst = s.burst := rfl

/-! ### modTeam -/

@[simp] theorem State.modTeam_mem (s : State) (k : Nat) (g : Team → Team) : (s.modTeam k g).mem = s.mem := rfl
@[simp] theorem State.modTeam_l2Behind (s : State) (k : Nat) (g : Team → Team) : (s.modTeam k g).l2Behind = s.l2Behind := rfl
@[simp] theorem State.modTeam_mscBehind (s : State) (k : Nat) (g : Team → Team) : (s.modTeam k g).mscBehind = s.mscBehind := rfl
@[simp] theorem State.modTeam_l2 (s : State) (k : Nat) (g : Team → Team) : (s.modTeam k g).l2 = s.l2 := rfl
@[simp] theorem State.modTeam_msc (s : State) (k : Nat) (g : Team → Team) : (s.modTeam k g).msc = s.msc := rfl
@[simp] theorem State.modTeam_summary (s : State) (k : Nat) (g : Team → Team) : (s.modTeam k g).summary = s.summary := rfl
@[simp] theorem State.modTeam_slots (s : State) (k : Nat) (g : Team → Team) : (s.modTeam k g).slots = s.slots := rfl
@[simp] theorem State.modTeam_slotWaits (s : State) (k : Nat) (g : Team → Team) : (s.modTeam k g).slotWaits = s.slotWaits := rfl
@[simp] theorem State.modTeam_ranges (s : State) (k : Nat) (g : Team → Team) : (s.modTeam k g).ranges = s.ranges := rfl
@[simp] theorem State.modTeam_codeOld (s : State) (k : Nat) (g : Team → Team) : (s.modTeam k g).codeOld = s.codeOld := rfl
@[simp] theorem State.modTeam_warps (s : State) (k : Nat) (g : Team → Team) : (s.modTeam k g).warps = s.warps := rfl
@[simp] theorem State.modTeam_cores (s : State) (k : Nat) (g : Team → Team) : (s.modTeam k g).cores = s.cores := rfl
@[simp] theorem State.modTeam_clusters (s : State) (k : Nat) (g : Team → Team) : (s.modTeam k g).clusters = s.clusters := rfl
@[simp] theorem State.modTeam_dies (s : State) (k : Nat) (g : Team → Team) : (s.modTeam k g).dies = s.dies := rfl
@[simp] theorem State.modTeam_gangs (s : State) (k : Nat) (g : Team → Team) : (s.modTeam k g).gangs = s.gangs := rfl
@[simp] theorem State.modTeam_allots (s : State) (k : Nat) (g : Team → Team) : (s.modTeam k g).allots = s.allots := rfl
@[simp] theorem State.modTeam_launches (s : State) (k : Nat) (g : Team → Team) : (s.modTeam k g).launches = s.launches := rfl
@[simp] theorem State.modTeam_ctxs (s : State) (k : Nat) (g : Team → Team) : (s.modTeam k g).ctxs = s.ctxs := rfl
@[simp] theorem State.modTeam_queues (s : State) (k : Nat) (g : Team → Team) : (s.modTeam k g).queues = s.queues := rfl
@[simp] theorem State.modTeam_saved (s : State) (k : Nat) (g : Team → Team) : (s.modTeam k g).saved = s.saved := rfl
@[simp] theorem State.modTeam_evicts (s : State) (k : Nat) (g : Team → Team) : (s.modTeam k g).evicts = s.evicts := rfl
@[simp] theorem State.modTeam_sup (s : State) (k : Nat) (g : Team → Team) : (s.modTeam k g).sup = s.sup := rfl
@[simp] theorem State.modTeam_side (s : State) (k : Nat) (g : Team → Team) : (s.modTeam k g).side = s.side := rfl
@[simp] theorem State.modTeam_links (s : State) (k : Nat) (g : Team → Team) : (s.modTeam k g).links = s.links := rfl
@[simp] theorem State.modTeam_out (s : State) (k : Nat) (g : Team → Team) : (s.modTeam k g).out = s.out := rfl
@[simp] theorem State.modTeam_ns (s : State) (k : Nat) (g : Team → Team) : (s.modTeam k g).ns = s.ns := rfl
@[simp] theorem State.modTeam_cur (s : State) (k : Nat) (g : Team → Team) : (s.modTeam k g).cur = s.cur := rfl
@[simp] theorem State.modTeam_nib (s : State) (k : Nat) (g : Team → Team) : (s.modTeam k g).nib = s.nib := rfl
@[simp] theorem State.modTeam_ev (s : State) (k : Nat) (g : Team → Team) : (s.modTeam k g).ev = s.ev := rfl
@[simp] theorem State.modTeam_agenda (s : State) (k : Nat) (g : Team → Team) : (s.modTeam k g).agenda = s.agenda := rfl
@[simp] theorem State.modTeam_deferred (s : State) (k : Nat) (g : Team → Team) : (s.modTeam k g).deferred = s.deferred := rfl
@[simp] theorem State.modTeam_waited (s : State) (k : Nat) (g : Team → Team) : (s.modTeam k g).waited = s.waited := rfl
@[simp] theorem State.modTeam_free (s : State) (k : Nat) (g : Team → Team) : (s.modTeam k g).free = s.free := rfl
@[simp] theorem State.modTeam_uid (s : State) (k : Nat) (g : Team → Team) : (s.modTeam k g).uid = s.uid := rfl
@[simp] theorem State.modTeam_stamp (s : State) (k : Nat) (g : Team → Team) : (s.modTeam k g).stamp = s.stamp := rfl
@[simp] theorem State.modTeam_moving (s : State) (k : Nat) (g : Team → Team) : (s.modTeam k g).moving = s.moving := rfl
@[simp] theorem State.modTeam_ns1 (s : State) (k : Nat) (g : Team → Team) : (s.modTeam k g).ns1 = s.ns1 := rfl
@[simp] theorem State.modTeam_elapsed (s : State) (k : Nat) (g : Team → Team) : (s.modTeam k g).elapsed = s.elapsed := rfl
@[simp] theorem State.modTeam_burst (s : State) (k : Nat) (g : Team → Team) : (s.modTeam k g).burst = s.burst := rfl

/-! ### modLaunch -/

@[simp] theorem State.modLaunch_mem (s : State) (k : Nat) (g : Launch → Launch) : (s.modLaunch k g).mem = s.mem := rfl
@[simp] theorem State.modLaunch_l2Behind (s : State) (k : Nat) (g : Launch → Launch) : (s.modLaunch k g).l2Behind = s.l2Behind := rfl
@[simp] theorem State.modLaunch_mscBehind (s : State) (k : Nat) (g : Launch → Launch) : (s.modLaunch k g).mscBehind = s.mscBehind := rfl
@[simp] theorem State.modLaunch_l2 (s : State) (k : Nat) (g : Launch → Launch) : (s.modLaunch k g).l2 = s.l2 := rfl
@[simp] theorem State.modLaunch_msc (s : State) (k : Nat) (g : Launch → Launch) : (s.modLaunch k g).msc = s.msc := rfl
@[simp] theorem State.modLaunch_summary (s : State) (k : Nat) (g : Launch → Launch) : (s.modLaunch k g).summary = s.summary := rfl
@[simp] theorem State.modLaunch_slots (s : State) (k : Nat) (g : Launch → Launch) : (s.modLaunch k g).slots = s.slots := rfl
@[simp] theorem State.modLaunch_slotWaits (s : State) (k : Nat) (g : Launch → Launch) : (s.modLaunch k g).slotWaits = s.slotWaits := rfl
@[simp] theorem State.modLaunch_ranges (s : State) (k : Nat) (g : Launch → Launch) : (s.modLaunch k g).ranges = s.ranges := rfl
@[simp] theorem State.modLaunch_codeOld (s : State) (k : Nat) (g : Launch → Launch) : (s.modLaunch k g).codeOld = s.codeOld := rfl
@[simp] theorem State.modLaunch_warps (s : State) (k : Nat) (g : Launch → Launch) : (s.modLaunch k g).warps = s.warps := rfl
@[simp] theorem State.modLaunch_cores (s : State) (k : Nat) (g : Launch → Launch) : (s.modLaunch k g).cores = s.cores := rfl
@[simp] theorem State.modLaunch_clusters (s : State) (k : Nat) (g : Launch → Launch) : (s.modLaunch k g).clusters = s.clusters := rfl
@[simp] theorem State.modLaunch_dies (s : State) (k : Nat) (g : Launch → Launch) : (s.modLaunch k g).dies = s.dies := rfl
@[simp] theorem State.modLaunch_gangs (s : State) (k : Nat) (g : Launch → Launch) : (s.modLaunch k g).gangs = s.gangs := rfl
@[simp] theorem State.modLaunch_allots (s : State) (k : Nat) (g : Launch → Launch) : (s.modLaunch k g).allots = s.allots := rfl
@[simp] theorem State.modLaunch_teams (s : State) (k : Nat) (g : Launch → Launch) : (s.modLaunch k g).teams = s.teams := rfl
@[simp] theorem State.modLaunch_ctxs (s : State) (k : Nat) (g : Launch → Launch) : (s.modLaunch k g).ctxs = s.ctxs := rfl
@[simp] theorem State.modLaunch_queues (s : State) (k : Nat) (g : Launch → Launch) : (s.modLaunch k g).queues = s.queues := rfl
@[simp] theorem State.modLaunch_saved (s : State) (k : Nat) (g : Launch → Launch) : (s.modLaunch k g).saved = s.saved := rfl
@[simp] theorem State.modLaunch_evicts (s : State) (k : Nat) (g : Launch → Launch) : (s.modLaunch k g).evicts = s.evicts := rfl
@[simp] theorem State.modLaunch_sup (s : State) (k : Nat) (g : Launch → Launch) : (s.modLaunch k g).sup = s.sup := rfl
@[simp] theorem State.modLaunch_side (s : State) (k : Nat) (g : Launch → Launch) : (s.modLaunch k g).side = s.side := rfl
@[simp] theorem State.modLaunch_links (s : State) (k : Nat) (g : Launch → Launch) : (s.modLaunch k g).links = s.links := rfl
@[simp] theorem State.modLaunch_out (s : State) (k : Nat) (g : Launch → Launch) : (s.modLaunch k g).out = s.out := rfl
@[simp] theorem State.modLaunch_ns (s : State) (k : Nat) (g : Launch → Launch) : (s.modLaunch k g).ns = s.ns := rfl
@[simp] theorem State.modLaunch_cur (s : State) (k : Nat) (g : Launch → Launch) : (s.modLaunch k g).cur = s.cur := rfl
@[simp] theorem State.modLaunch_nib (s : State) (k : Nat) (g : Launch → Launch) : (s.modLaunch k g).nib = s.nib := rfl
@[simp] theorem State.modLaunch_ev (s : State) (k : Nat) (g : Launch → Launch) : (s.modLaunch k g).ev = s.ev := rfl
@[simp] theorem State.modLaunch_agenda (s : State) (k : Nat) (g : Launch → Launch) : (s.modLaunch k g).agenda = s.agenda := rfl
@[simp] theorem State.modLaunch_deferred (s : State) (k : Nat) (g : Launch → Launch) : (s.modLaunch k g).deferred = s.deferred := rfl
@[simp] theorem State.modLaunch_waited (s : State) (k : Nat) (g : Launch → Launch) : (s.modLaunch k g).waited = s.waited := rfl
@[simp] theorem State.modLaunch_free (s : State) (k : Nat) (g : Launch → Launch) : (s.modLaunch k g).free = s.free := rfl
@[simp] theorem State.modLaunch_uid (s : State) (k : Nat) (g : Launch → Launch) : (s.modLaunch k g).uid = s.uid := rfl
@[simp] theorem State.modLaunch_stamp (s : State) (k : Nat) (g : Launch → Launch) : (s.modLaunch k g).stamp = s.stamp := rfl
@[simp] theorem State.modLaunch_moving (s : State) (k : Nat) (g : Launch → Launch) : (s.modLaunch k g).moving = s.moving := rfl
@[simp] theorem State.modLaunch_ns1 (s : State) (k : Nat) (g : Launch → Launch) : (s.modLaunch k g).ns1 = s.ns1 := rfl
@[simp] theorem State.modLaunch_elapsed (s : State) (k : Nat) (g : Launch → Launch) : (s.modLaunch k g).elapsed = s.elapsed := rfl
@[simp] theorem State.modLaunch_burst (s : State) (k : Nat) (g : Launch → Launch) : (s.modLaunch k g).burst = s.burst := rfl

/-! ### modCtx -/

@[simp] theorem State.modCtx_mem (s : State) (k : Nat) (g : Ctx → Ctx) : (s.modCtx k g).mem = s.mem := rfl
@[simp] theorem State.modCtx_l2Behind (s : State) (k : Nat) (g : Ctx → Ctx) : (s.modCtx k g).l2Behind = s.l2Behind := rfl
@[simp] theorem State.modCtx_mscBehind (s : State) (k : Nat) (g : Ctx → Ctx) : (s.modCtx k g).mscBehind = s.mscBehind := rfl
@[simp] theorem State.modCtx_l2 (s : State) (k : Nat) (g : Ctx → Ctx) : (s.modCtx k g).l2 = s.l2 := rfl
@[simp] theorem State.modCtx_msc (s : State) (k : Nat) (g : Ctx → Ctx) : (s.modCtx k g).msc = s.msc := rfl
@[simp] theorem State.modCtx_summary (s : State) (k : Nat) (g : Ctx → Ctx) : (s.modCtx k g).summary = s.summary := rfl
@[simp] theorem State.modCtx_slots (s : State) (k : Nat) (g : Ctx → Ctx) : (s.modCtx k g).slots = s.slots := rfl
@[simp] theorem State.modCtx_slotWaits (s : State) (k : Nat) (g : Ctx → Ctx) : (s.modCtx k g).slotWaits = s.slotWaits := rfl
@[simp] theorem State.modCtx_ranges (s : State) (k : Nat) (g : Ctx → Ctx) : (s.modCtx k g).ranges = s.ranges := rfl
@[simp] theorem State.modCtx_codeOld (s : State) (k : Nat) (g : Ctx → Ctx) : (s.modCtx k g).codeOld = s.codeOld := rfl
@[simp] theorem State.modCtx_warps (s : State) (k : Nat) (g : Ctx → Ctx) : (s.modCtx k g).warps = s.warps := rfl
@[simp] theorem State.modCtx_cores (s : State) (k : Nat) (g : Ctx → Ctx) : (s.modCtx k g).cores = s.cores := rfl
@[simp] theorem State.modCtx_clusters (s : State) (k : Nat) (g : Ctx → Ctx) : (s.modCtx k g).clusters = s.clusters := rfl
@[simp] theorem State.modCtx_dies (s : State) (k : Nat) (g : Ctx → Ctx) : (s.modCtx k g).dies = s.dies := rfl
@[simp] theorem State.modCtx_gangs (s : State) (k : Nat) (g : Ctx → Ctx) : (s.modCtx k g).gangs = s.gangs := rfl
@[simp] theorem State.modCtx_allots (s : State) (k : Nat) (g : Ctx → Ctx) : (s.modCtx k g).allots = s.allots := rfl
@[simp] theorem State.modCtx_teams (s : State) (k : Nat) (g : Ctx → Ctx) : (s.modCtx k g).teams = s.teams := rfl
@[simp] theorem State.modCtx_launches (s : State) (k : Nat) (g : Ctx → Ctx) : (s.modCtx k g).launches = s.launches := rfl
@[simp] theorem State.modCtx_queues (s : State) (k : Nat) (g : Ctx → Ctx) : (s.modCtx k g).queues = s.queues := rfl
@[simp] theorem State.modCtx_saved (s : State) (k : Nat) (g : Ctx → Ctx) : (s.modCtx k g).saved = s.saved := rfl
@[simp] theorem State.modCtx_evicts (s : State) (k : Nat) (g : Ctx → Ctx) : (s.modCtx k g).evicts = s.evicts := rfl
@[simp] theorem State.modCtx_sup (s : State) (k : Nat) (g : Ctx → Ctx) : (s.modCtx k g).sup = s.sup := rfl
@[simp] theorem State.modCtx_side (s : State) (k : Nat) (g : Ctx → Ctx) : (s.modCtx k g).side = s.side := rfl
@[simp] theorem State.modCtx_links (s : State) (k : Nat) (g : Ctx → Ctx) : (s.modCtx k g).links = s.links := rfl
@[simp] theorem State.modCtx_out (s : State) (k : Nat) (g : Ctx → Ctx) : (s.modCtx k g).out = s.out := rfl
@[simp] theorem State.modCtx_ns (s : State) (k : Nat) (g : Ctx → Ctx) : (s.modCtx k g).ns = s.ns := rfl
@[simp] theorem State.modCtx_cur (s : State) (k : Nat) (g : Ctx → Ctx) : (s.modCtx k g).cur = s.cur := rfl
@[simp] theorem State.modCtx_nib (s : State) (k : Nat) (g : Ctx → Ctx) : (s.modCtx k g).nib = s.nib := rfl
@[simp] theorem State.modCtx_ev (s : State) (k : Nat) (g : Ctx → Ctx) : (s.modCtx k g).ev = s.ev := rfl
@[simp] theorem State.modCtx_agenda (s : State) (k : Nat) (g : Ctx → Ctx) : (s.modCtx k g).agenda = s.agenda := rfl
@[simp] theorem State.modCtx_deferred (s : State) (k : Nat) (g : Ctx → Ctx) : (s.modCtx k g).deferred = s.deferred := rfl
@[simp] theorem State.modCtx_waited (s : State) (k : Nat) (g : Ctx → Ctx) : (s.modCtx k g).waited = s.waited := rfl
@[simp] theorem State.modCtx_free (s : State) (k : Nat) (g : Ctx → Ctx) : (s.modCtx k g).free = s.free := rfl
@[simp] theorem State.modCtx_uid (s : State) (k : Nat) (g : Ctx → Ctx) : (s.modCtx k g).uid = s.uid := rfl
@[simp] theorem State.modCtx_stamp (s : State) (k : Nat) (g : Ctx → Ctx) : (s.modCtx k g).stamp = s.stamp := rfl
@[simp] theorem State.modCtx_moving (s : State) (k : Nat) (g : Ctx → Ctx) : (s.modCtx k g).moving = s.moving := rfl
@[simp] theorem State.modCtx_ns1 (s : State) (k : Nat) (g : Ctx → Ctx) : (s.modCtx k g).ns1 = s.ns1 := rfl
@[simp] theorem State.modCtx_elapsed (s : State) (k : Nat) (g : Ctx → Ctx) : (s.modCtx k g).elapsed = s.elapsed := rfl
@[simp] theorem State.modCtx_burst (s : State) (k : Nat) (g : Ctx → Ctx) : (s.modCtx k g).burst = s.burst := rfl

/-! ### modQueue -/

@[simp] theorem State.modQueue_mem (s : State) (k : Nat) (g : Queue → Queue) : (s.modQueue k g).mem = s.mem := rfl
@[simp] theorem State.modQueue_l2Behind (s : State) (k : Nat) (g : Queue → Queue) : (s.modQueue k g).l2Behind = s.l2Behind := rfl
@[simp] theorem State.modQueue_mscBehind (s : State) (k : Nat) (g : Queue → Queue) : (s.modQueue k g).mscBehind = s.mscBehind := rfl
@[simp] theorem State.modQueue_l2 (s : State) (k : Nat) (g : Queue → Queue) : (s.modQueue k g).l2 = s.l2 := rfl
@[simp] theorem State.modQueue_msc (s : State) (k : Nat) (g : Queue → Queue) : (s.modQueue k g).msc = s.msc := rfl
@[simp] theorem State.modQueue_summary (s : State) (k : Nat) (g : Queue → Queue) : (s.modQueue k g).summary = s.summary := rfl
@[simp] theorem State.modQueue_slots (s : State) (k : Nat) (g : Queue → Queue) : (s.modQueue k g).slots = s.slots := rfl
@[simp] theorem State.modQueue_slotWaits (s : State) (k : Nat) (g : Queue → Queue) : (s.modQueue k g).slotWaits = s.slotWaits := rfl
@[simp] theorem State.modQueue_ranges (s : State) (k : Nat) (g : Queue → Queue) : (s.modQueue k g).ranges = s.ranges := rfl
@[simp] theorem State.modQueue_codeOld (s : State) (k : Nat) (g : Queue → Queue) : (s.modQueue k g).codeOld = s.codeOld := rfl
@[simp] theorem State.modQueue_warps (s : State) (k : Nat) (g : Queue → Queue) : (s.modQueue k g).warps = s.warps := rfl
@[simp] theorem State.modQueue_cores (s : State) (k : Nat) (g : Queue → Queue) : (s.modQueue k g).cores = s.cores := rfl
@[simp] theorem State.modQueue_clusters (s : State) (k : Nat) (g : Queue → Queue) : (s.modQueue k g).clusters = s.clusters := rfl
@[simp] theorem State.modQueue_dies (s : State) (k : Nat) (g : Queue → Queue) : (s.modQueue k g).dies = s.dies := rfl
@[simp] theorem State.modQueue_gangs (s : State) (k : Nat) (g : Queue → Queue) : (s.modQueue k g).gangs = s.gangs := rfl
@[simp] theorem State.modQueue_allots (s : State) (k : Nat) (g : Queue → Queue) : (s.modQueue k g).allots = s.allots := rfl
@[simp] theorem State.modQueue_teams (s : State) (k : Nat) (g : Queue → Queue) : (s.modQueue k g).teams = s.teams := rfl
@[simp] theorem State.modQueue_launches (s : State) (k : Nat) (g : Queue → Queue) : (s.modQueue k g).launches = s.launches := rfl
@[simp] theorem State.modQueue_ctxs (s : State) (k : Nat) (g : Queue → Queue) : (s.modQueue k g).ctxs = s.ctxs := rfl
@[simp] theorem State.modQueue_saved (s : State) (k : Nat) (g : Queue → Queue) : (s.modQueue k g).saved = s.saved := rfl
@[simp] theorem State.modQueue_evicts (s : State) (k : Nat) (g : Queue → Queue) : (s.modQueue k g).evicts = s.evicts := rfl
@[simp] theorem State.modQueue_sup (s : State) (k : Nat) (g : Queue → Queue) : (s.modQueue k g).sup = s.sup := rfl
@[simp] theorem State.modQueue_side (s : State) (k : Nat) (g : Queue → Queue) : (s.modQueue k g).side = s.side := rfl
@[simp] theorem State.modQueue_links (s : State) (k : Nat) (g : Queue → Queue) : (s.modQueue k g).links = s.links := rfl
@[simp] theorem State.modQueue_out (s : State) (k : Nat) (g : Queue → Queue) : (s.modQueue k g).out = s.out := rfl
@[simp] theorem State.modQueue_ns (s : State) (k : Nat) (g : Queue → Queue) : (s.modQueue k g).ns = s.ns := rfl
@[simp] theorem State.modQueue_cur (s : State) (k : Nat) (g : Queue → Queue) : (s.modQueue k g).cur = s.cur := rfl
@[simp] theorem State.modQueue_nib (s : State) (k : Nat) (g : Queue → Queue) : (s.modQueue k g).nib = s.nib := rfl
@[simp] theorem State.modQueue_ev (s : State) (k : Nat) (g : Queue → Queue) : (s.modQueue k g).ev = s.ev := rfl
@[simp] theorem State.modQueue_agenda (s : State) (k : Nat) (g : Queue → Queue) : (s.modQueue k g).agenda = s.agenda := rfl
@[simp] theorem State.modQueue_deferred (s : State) (k : Nat) (g : Queue → Queue) : (s.modQueue k g).deferred = s.deferred := rfl
@[simp] theorem State.modQueue_waited (s : State) (k : Nat) (g : Queue → Queue) : (s.modQueue k g).waited = s.waited := rfl
@[simp] theorem State.modQueue_free (s : State) (k : Nat) (g : Queue → Queue) : (s.modQueue k g).free = s.free := rfl
@[simp] theorem State.modQueue_uid (s : State) (k : Nat) (g : Queue → Queue) : (s.modQueue k g).uid = s.uid := rfl
@[simp] theorem State.modQueue_stamp (s : State) (k : Nat) (g : Queue → Queue) : (s.modQueue k g).stamp = s.stamp := rfl
@[simp] theorem State.modQueue_moving (s : State) (k : Nat) (g : Queue → Queue) : (s.modQueue k g).moving = s.moving := rfl
@[simp] theorem State.modQueue_ns1 (s : State) (k : Nat) (g : Queue → Queue) : (s.modQueue k g).ns1 = s.ns1 := rfl
@[simp] theorem State.modQueue_elapsed (s : State) (k : Nat) (g : Queue → Queue) : (s.modQueue k g).elapsed = s.elapsed := rfl
@[simp] theorem State.modQueue_burst (s : State) (k : Nat) (g : Queue → Queue) : (s.modQueue k g).burst = s.burst := rfl

/-! ### modBuilder -/

@[simp] theorem State.modBuilder_mem (s : State) (k : Nat) (g : Builder → Builder) : (s.modBuilder k g).mem = s.mem := rfl
@[simp] theorem State.modBuilder_l2Behind (s : State) (k : Nat) (g : Builder → Builder) : (s.modBuilder k g).l2Behind = s.l2Behind := rfl
@[simp] theorem State.modBuilder_mscBehind (s : State) (k : Nat) (g : Builder → Builder) : (s.modBuilder k g).mscBehind = s.mscBehind := rfl
@[simp] theorem State.modBuilder_l2 (s : State) (k : Nat) (g : Builder → Builder) : (s.modBuilder k g).l2 = s.l2 := rfl
@[simp] theorem State.modBuilder_msc (s : State) (k : Nat) (g : Builder → Builder) : (s.modBuilder k g).msc = s.msc := rfl
@[simp] theorem State.modBuilder_summary (s : State) (k : Nat) (g : Builder → Builder) : (s.modBuilder k g).summary = s.summary := rfl
@[simp] theorem State.modBuilder_slots (s : State) (k : Nat) (g : Builder → Builder) : (s.modBuilder k g).slots = s.slots := rfl
@[simp] theorem State.modBuilder_slotWaits (s : State) (k : Nat) (g : Builder → Builder) : (s.modBuilder k g).slotWaits = s.slotWaits := rfl
@[simp] theorem State.modBuilder_ranges (s : State) (k : Nat) (g : Builder → Builder) : (s.modBuilder k g).ranges = s.ranges := rfl
@[simp] theorem State.modBuilder_codeOld (s : State) (k : Nat) (g : Builder → Builder) : (s.modBuilder k g).codeOld = s.codeOld := rfl
@[simp] theorem State.modBuilder_warps (s : State) (k : Nat) (g : Builder → Builder) : (s.modBuilder k g).warps = s.warps := rfl
@[simp] theorem State.modBuilder_cores (s : State) (k : Nat) (g : Builder → Builder) : (s.modBuilder k g).cores = s.cores := rfl
@[simp] theorem State.modBuilder_clusters (s : State) (k : Nat) (g : Builder → Builder) : (s.modBuilder k g).clusters = s.clusters := rfl
@[simp] theorem State.modBuilder_gangs (s : State) (k : Nat) (g : Builder → Builder) : (s.modBuilder k g).gangs = s.gangs := rfl
@[simp] theorem State.modBuilder_allots (s : State) (k : Nat) (g : Builder → Builder) : (s.modBuilder k g).allots = s.allots := rfl
@[simp] theorem State.modBuilder_teams (s : State) (k : Nat) (g : Builder → Builder) : (s.modBuilder k g).teams = s.teams := rfl
@[simp] theorem State.modBuilder_launches (s : State) (k : Nat) (g : Builder → Builder) : (s.modBuilder k g).launches = s.launches := rfl
@[simp] theorem State.modBuilder_ctxs (s : State) (k : Nat) (g : Builder → Builder) : (s.modBuilder k g).ctxs = s.ctxs := rfl
@[simp] theorem State.modBuilder_queues (s : State) (k : Nat) (g : Builder → Builder) : (s.modBuilder k g).queues = s.queues := rfl
@[simp] theorem State.modBuilder_saved (s : State) (k : Nat) (g : Builder → Builder) : (s.modBuilder k g).saved = s.saved := rfl
@[simp] theorem State.modBuilder_evicts (s : State) (k : Nat) (g : Builder → Builder) : (s.modBuilder k g).evicts = s.evicts := rfl
@[simp] theorem State.modBuilder_sup (s : State) (k : Nat) (g : Builder → Builder) : (s.modBuilder k g).sup = s.sup := rfl
@[simp] theorem State.modBuilder_side (s : State) (k : Nat) (g : Builder → Builder) : (s.modBuilder k g).side = s.side := rfl
@[simp] theorem State.modBuilder_links (s : State) (k : Nat) (g : Builder → Builder) : (s.modBuilder k g).links = s.links := rfl
@[simp] theorem State.modBuilder_out (s : State) (k : Nat) (g : Builder → Builder) : (s.modBuilder k g).out = s.out := rfl
@[simp] theorem State.modBuilder_ns (s : State) (k : Nat) (g : Builder → Builder) : (s.modBuilder k g).ns = s.ns := rfl
@[simp] theorem State.modBuilder_cur (s : State) (k : Nat) (g : Builder → Builder) : (s.modBuilder k g).cur = s.cur := rfl
@[simp] theorem State.modBuilder_nib (s : State) (k : Nat) (g : Builder → Builder) : (s.modBuilder k g).nib = s.nib := rfl
@[simp] theorem State.modBuilder_ev (s : State) (k : Nat) (g : Builder → Builder) : (s.modBuilder k g).ev = s.ev := rfl
@[simp] theorem State.modBuilder_agenda (s : State) (k : Nat) (g : Builder → Builder) : (s.modBuilder k g).agenda = s.agenda := rfl
@[simp] theorem State.modBuilder_deferred (s : State) (k : Nat) (g : Builder → Builder) : (s.modBuilder k g).deferred = s.deferred := rfl
@[simp] theorem State.modBuilder_waited (s : State) (k : Nat) (g : Builder → Builder) : (s.modBuilder k g).waited = s.waited := rfl
@[simp] theorem State.modBuilder_free (s : State) (k : Nat) (g : Builder → Builder) : (s.modBuilder k g).free = s.free := rfl
@[simp] theorem State.modBuilder_uid (s : State) (k : Nat) (g : Builder → Builder) : (s.modBuilder k g).uid = s.uid := rfl
@[simp] theorem State.modBuilder_stamp (s : State) (k : Nat) (g : Builder → Builder) : (s.modBuilder k g).stamp = s.stamp := rfl
@[simp] theorem State.modBuilder_moving (s : State) (k : Nat) (g : Builder → Builder) : (s.modBuilder k g).moving = s.moving := rfl
@[simp] theorem State.modBuilder_ns1 (s : State) (k : Nat) (g : Builder → Builder) : (s.modBuilder k g).ns1 = s.ns1 := rfl
@[simp] theorem State.modBuilder_elapsed (s : State) (k : Nat) (g : Builder → Builder) : (s.modBuilder k g).elapsed = s.elapsed := rfl
@[simp] theorem State.modBuilder_burst (s : State) (k : Nat) (g : Builder → Builder) : (s.modBuilder k g).burst = s.burst := rfl

/-! ### post -/

@[simp] theorem State.post_mem (s : State) (m : Message) : (s.post m).mem = s.mem := rfl
@[simp] theorem State.post_l2Behind (s : State) (m : Message) : (s.post m).l2Behind = s.l2Behind := rfl
@[simp] theorem State.post_mscBehind (s : State) (m : Message) : (s.post m).mscBehind = s.mscBehind := rfl
@[simp] theorem State.post_l2 (s : State) (m : Message) : (s.post m).l2 = s.l2 := rfl
@[simp] theorem State.post_msc (s : State) (m : Message) : (s.post m).msc = s.msc := rfl
@[simp] theorem State.post_summary (s : State) (m : Message) : (s.post m).summary = s.summary := rfl
@[simp] theorem State.post_slots (s : State) (m : Message) : (s.post m).slots = s.slots := rfl
@[simp] theorem State.post_slotWaits (s : State) (m : Message) : (s.post m).slotWaits = s.slotWaits := rfl
@[simp] theorem State.post_ranges (s : State) (m : Message) : (s.post m).ranges = s.ranges := rfl
@[simp] theorem State.post_codeOld (s : State) (m : Message) : (s.post m).codeOld = s.codeOld := rfl
@[simp] theorem State.post_warps (s : State) (m : Message) : (s.post m).warps = s.warps := rfl
@[simp] theorem State.post_cores (s : State) (m : Message) : (s.post m).cores = s.cores := rfl
@[simp] theorem State.post_clusters (s : State) (m : Message) : (s.post m).clusters = s.clusters := rfl
@[simp] theorem State.post_dies (s : State) (m : Message) : (s.post m).dies = s.dies := rfl
@[simp] theorem State.post_gangs (s : State) (m : Message) : (s.post m).gangs = s.gangs := rfl
@[simp] theorem State.post_allots (s : State) (m : Message) : (s.post m).allots = s.allots := rfl
@[simp] theorem State.post_teams (s : State) (m : Message) : (s.post m).teams = s.teams := rfl
@[simp] theorem State.post_launches (s : State) (m : Message) : (s.post m).launches = s.launches := rfl
@[simp] theorem State.post_ctxs (s : State) (m : Message) : (s.post m).ctxs = s.ctxs := rfl
@[simp] theorem State.post_queues (s : State) (m : Message) : (s.post m).queues = s.queues := rfl
@[simp] theorem State.post_saved (s : State) (m : Message) : (s.post m).saved = s.saved := rfl
@[simp] theorem State.post_evicts (s : State) (m : Message) : (s.post m).evicts = s.evicts := rfl
@[simp] theorem State.post_sup (s : State) (m : Message) : (s.post m).sup = s.sup := rfl
@[simp] theorem State.post_side (s : State) (m : Message) : (s.post m).side = s.side := rfl
@[simp] theorem State.post_links (s : State) (m : Message) : (s.post m).links = s.links := rfl
@[simp] theorem State.post_ns (s : State) (m : Message) : (s.post m).ns = s.ns := rfl
@[simp] theorem State.post_cur (s : State) (m : Message) : (s.post m).cur = s.cur := rfl
@[simp] theorem State.post_nib (s : State) (m : Message) : (s.post m).nib = s.nib := rfl
@[simp] theorem State.post_ev (s : State) (m : Message) : (s.post m).ev = s.ev := rfl
@[simp] theorem State.post_agenda (s : State) (m : Message) : (s.post m).agenda = s.agenda := rfl
@[simp] theorem State.post_deferred (s : State) (m : Message) : (s.post m).deferred = s.deferred := rfl
@[simp] theorem State.post_waited (s : State) (m : Message) : (s.post m).waited = s.waited := rfl
@[simp] theorem State.post_free (s : State) (m : Message) : (s.post m).free = s.free := rfl
@[simp] theorem State.post_uid (s : State) (m : Message) : (s.post m).uid = s.uid := rfl
@[simp] theorem State.post_stamp (s : State) (m : Message) : (s.post m).stamp = s.stamp := rfl
@[simp] theorem State.post_moving (s : State) (m : Message) : (s.post m).moving = s.moving := rfl
@[simp] theorem State.post_ns1 (s : State) (m : Message) : (s.post m).ns1 = s.ns1 := rfl
@[simp] theorem State.post_elapsed (s : State) (m : Message) : (s.post m).elapsed = s.elapsed := rfl
@[simp] theorem State.post_burst (s : State) (m : Message) : (s.post m).burst = s.burst := rfl

/-! ### wait -/

@[simp] theorem State.wait_mem (s : State) : (s.wait).mem = s.mem := rfl
@[simp] theorem State.wait_l2Behind (s : State) : (s.wait).l2Behind = s.l2Behind := rfl
@[simp] theorem State.wait_mscBehind (s : State) : (s.wait).mscBehind = s.mscBehind := rfl
@[simp] theorem State.wait_l2 (s : State) : (s.wait).l2 = s.l2 := rfl
@[simp] theorem State.wait_msc (s : State) : (s.wait).msc = s.msc := rfl
@[simp] theorem State.wait_summary (s : State) : (s.wait).summary = s.summary := rfl
@[simp] theorem State.wait_slots (s : State) : (s.wait).slots = s.slots := rfl
@[simp] theorem State.wait_slotWaits (s : State) : (s.wait).slotWaits = s.slotWaits := rfl
@[simp] theorem State.wait_ranges (s : State) : (s.wait).ranges = s.ranges := rfl
@[simp] theorem State.wait_codeOld (s : State) : (s.wait).codeOld = s.codeOld := rfl
@[simp] theorem State.wait_warps (s : State) : (s.wait).warps = s.warps := rfl
@[simp] theorem State.wait_cores (s : State) : (s.wait).cores = s.cores := rfl
@[simp] theorem State.wait_clusters (s : State) : (s.wait).clusters = s.clusters := rfl
@[simp] theorem State.wait_dies (s : State) : (s.wait).dies = s.dies := rfl
@[simp] theorem State.wait_gangs (s : State) : (s.wait).gangs = s.gangs := rfl
@[simp] theorem State.wait_allots (s : State) : (s.wait).allots = s.allots := rfl
@[simp] theorem State.wait_teams (s : State) : (s.wait).teams = s.teams := rfl
@[simp] theorem State.wait_launches (s : State) : (s.wait).launches = s.launches := rfl
@[simp] theorem State.wait_ctxs (s : State) : (s.wait).ctxs = s.ctxs := rfl
@[simp] theorem State.wait_queues (s : State) : (s.wait).queues = s.queues := rfl
@[simp] theorem State.wait_saved (s : State) : (s.wait).saved = s.saved := rfl
@[simp] theorem State.wait_evicts (s : State) : (s.wait).evicts = s.evicts := rfl
@[simp] theorem State.wait_sup (s : State) : (s.wait).sup = s.sup := rfl
@[simp] theorem State.wait_side (s : State) : (s.wait).side = s.side := rfl
@[simp] theorem State.wait_links (s : State) : (s.wait).links = s.links := rfl
@[simp] theorem State.wait_out (s : State) : (s.wait).out = s.out := rfl
@[simp] theorem State.wait_ns (s : State) : (s.wait).ns = s.ns := rfl
@[simp] theorem State.wait_cur (s : State) : (s.wait).cur = s.cur := rfl
@[simp] theorem State.wait_nib (s : State) : (s.wait).nib = s.nib := rfl
@[simp] theorem State.wait_ev (s : State) : (s.wait).ev = s.ev := rfl
@[simp] theorem State.wait_agenda (s : State) : (s.wait).agenda = s.agenda := rfl
@[simp] theorem State.wait_deferred (s : State) : (s.wait).deferred = s.deferred := rfl
@[simp] theorem State.wait_free (s : State) : (s.wait).free = s.free := rfl
@[simp] theorem State.wait_uid (s : State) : (s.wait).uid = s.uid := rfl
@[simp] theorem State.wait_stamp (s : State) : (s.wait).stamp = s.stamp := rfl
@[simp] theorem State.wait_moving (s : State) : (s.wait).moving = s.moving := rfl
@[simp] theorem State.wait_ns1 (s : State) : (s.wait).ns1 = s.ns1 := rfl
@[simp] theorem State.wait_elapsed (s : State) : (s.wait).elapsed = s.elapsed := rfl
@[simp] theorem State.wait_burst (s : State) : (s.wait).burst = s.burst := rfl

/-! ### modWarp -/

@[simp] theorem State.modWarp_mem (s : State) (k : Nat) (g : Warp → Warp) : (s.modWarp k g).mem = s.mem := by
  unfold State.modWarp; split <;> rfl
@[simp] theorem State.modWarp_l2Behind (s : State) (k : Nat) (g : Warp → Warp) : (s.modWarp k g).l2Behind = s.l2Behind := by
  unfold State.modWarp; split <;> rfl
@[simp] theorem State.modWarp_mscBehind (s : State) (k : Nat) (g : Warp → Warp) : (s.modWarp k g).mscBehind = s.mscBehind := by
  unfold State.modWarp; split <;> rfl
@[simp] theorem State.modWarp_l2 (s : State) (k : Nat) (g : Warp → Warp) : (s.modWarp k g).l2 = s.l2 := by
  unfold State.modWarp; split <;> rfl
@[simp] theorem State.modWarp_msc (s : State) (k : Nat) (g : Warp → Warp) : (s.modWarp k g).msc = s.msc := by
  unfold State.modWarp; split <;> rfl
@[simp] theorem State.modWarp_summary (s : State) (k : Nat) (g : Warp → Warp) : (s.modWarp k g).summary = s.summary := by
  unfold State.modWarp; split <;> rfl
@[simp] theorem State.modWarp_slots (s : State) (k : Nat) (g : Warp → Warp) : (s.modWarp k g).slots = s.slots := by
  unfold State.modWarp; split <;> rfl
@[simp] theorem State.modWarp_slotWaits (s : State) (k : Nat) (g : Warp → Warp) : (s.modWarp k g).slotWaits = s.slotWaits := by
  unfold State.modWarp; split <;> rfl
@[simp] theorem State.modWarp_ranges (s : State) (k : Nat) (g : Warp → Warp) : (s.modWarp k g).ranges = s.ranges := by
  unfold State.modWarp; split <;> rfl
@[simp] theorem State.modWarp_codeOld (s : State) (k : Nat) (g : Warp → Warp) : (s.modWarp k g).codeOld = s.codeOld := by
  unfold State.modWarp; split <;> rfl
@[simp] theorem State.modWarp_cores (s : State) (k : Nat) (g : Warp → Warp) : (s.modWarp k g).cores = s.cores := by
  unfold State.modWarp; split <;> rfl
@[simp] theorem State.modWarp_clusters (s : State) (k : Nat) (g : Warp → Warp) : (s.modWarp k g).clusters = s.clusters := by
  unfold State.modWarp; split <;> rfl
@[simp] theorem State.modWarp_dies (s : State) (k : Nat) (g : Warp → Warp) : (s.modWarp k g).dies = s.dies := by
  unfold State.modWarp; split <;> rfl
@[simp] theorem State.modWarp_gangs (s : State) (k : Nat) (g : Warp → Warp) : (s.modWarp k g).gangs = s.gangs := by
  unfold State.modWarp; split <;> rfl
@[simp] theorem State.modWarp_allots (s : State) (k : Nat) (g : Warp → Warp) : (s.modWarp k g).allots = s.allots := by
  unfold State.modWarp; split <;> rfl
@[simp] theorem State.modWarp_teams (s : State) (k : Nat) (g : Warp → Warp) : (s.modWarp k g).teams = s.teams := by
  unfold State.modWarp; split <;> rfl
@[simp] theorem State.modWarp_launches (s : State) (k : Nat) (g : Warp → Warp) : (s.modWarp k g).launches = s.launches := by
  unfold State.modWarp; split <;> rfl
@[simp] theorem State.modWarp_ctxs (s : State) (k : Nat) (g : Warp → Warp) : (s.modWarp k g).ctxs = s.ctxs := by
  unfold State.modWarp; split <;> rfl
@[simp] theorem State.modWarp_queues (s : State) (k : Nat) (g : Warp → Warp) : (s.modWarp k g).queues = s.queues := by
  unfold State.modWarp; split <;> rfl
@[simp] theorem State.modWarp_evicts (s : State) (k : Nat) (g : Warp → Warp) : (s.modWarp k g).evicts = s.evicts := by
  unfold State.modWarp; split <;> rfl
@[simp] theorem State.modWarp_sup (s : State) (k : Nat) (g : Warp → Warp) : (s.modWarp k g).sup = s.sup := by
  unfold State.modWarp; split <;> rfl
@[simp] theorem State.modWarp_side (s : State) (k : Nat) (g : Warp → Warp) : (s.modWarp k g).side = s.side := by
  unfold State.modWarp; split <;> rfl
@[simp] theorem State.modWarp_links (s : State) (k : Nat) (g : Warp → Warp) : (s.modWarp k g).links = s.links := by
  unfold State.modWarp; split <;> rfl
@[simp] theorem State.modWarp_out (s : State) (k : Nat) (g : Warp → Warp) : (s.modWarp k g).out = s.out := by
  unfold State.modWarp; split <;> rfl
@[simp] theorem State.modWarp_ns (s : State) (k : Nat) (g : Warp → Warp) : (s.modWarp k g).ns = s.ns := by
  unfold State.modWarp; split <;> rfl
@[simp] theorem State.modWarp_cur (s : State) (k : Nat) (g : Warp → Warp) : (s.modWarp k g).cur = s.cur := by
  unfold State.modWarp; split <;> rfl
@[simp] theorem State.modWarp_nib (s : State) (k : Nat) (g : Warp → Warp) : (s.modWarp k g).nib = s.nib := by
  unfold State.modWarp; split <;> rfl
@[simp] theorem State.modWarp_ev (s : State) (k : Nat) (g : Warp → Warp) : (s.modWarp k g).ev = s.ev := by
  unfold State.modWarp; split <;> rfl
@[simp] theorem State.modWarp_agenda (s : State) (k : Nat) (g : Warp → Warp) : (s.modWarp k g).agenda = s.agenda := by
  unfold State.modWarp; split <;> rfl
@[simp] theorem State.modWarp_deferred (s : State) (k : Nat) (g : Warp → Warp) : (s.modWarp k g).deferred = s.deferred := by
  unfold State.modWarp; split <;> rfl
@[simp] theorem State.modWarp_waited (s : State) (k : Nat) (g : Warp → Warp) : (s.modWarp k g).waited = s.waited := by
  unfold State.modWarp; split <;> rfl
@[simp] theorem State.modWarp_free (s : State) (k : Nat) (g : Warp → Warp) : (s.modWarp k g).free = s.free := by
  unfold State.modWarp; split <;> rfl
@[simp] theorem State.modWarp_uid (s : State) (k : Nat) (g : Warp → Warp) : (s.modWarp k g).uid = s.uid := by
  unfold State.modWarp; split <;> rfl
@[simp] theorem State.modWarp_stamp (s : State) (k : Nat) (g : Warp → Warp) : (s.modWarp k g).stamp = s.stamp := by
  unfold State.modWarp; split <;> rfl
@[simp] theorem State.modWarp_moving (s : State) (k : Nat) (g : Warp → Warp) : (s.modWarp k g).moving = s.moving := by
  unfold State.modWarp; split <;> rfl
@[simp] theorem State.modWarp_ns1 (s : State) (k : Nat) (g : Warp → Warp) : (s.modWarp k g).ns1 = s.ns1 := by
  unfold State.modWarp; split <;> rfl
@[simp] theorem State.modWarp_elapsed (s : State) (k : Nat) (g : Warp → Warp) : (s.modWarp k g).elapsed = s.elapsed := by
  unfold State.modWarp; split <;> rfl
@[simp] theorem State.modWarp_burst (s : State) (k : Nat) (g : Warp → Warp) : (s.modWarp k g).burst = s.burst := by
  unfold State.modWarp; split <;> rfl

/-! ### A warp's registers -/

@[simp] theorem Warp.setW_ctx (w : Warp) (n : Nat) (x : Word) : (w.setW n x).ctx = w.ctx := rfl
@[simp] theorem Warp.setW_launch (w : Warp) (n : Nat) (x : Word) : (w.setW n x).launch = w.launch := rfl
@[simp] theorem Warp.setW_team (w : Warp) (n : Nat) (x : Word) : (w.setW n x).team = w.team := rfl
@[simp] theorem Warp.setW_teamWarp (w : Warp) (n : Nat) (x : Word) : (w.setW n x).teamWarp = w.teamWarp := rfl
@[simp] theorem Warp.setW_role (w : Warp) (n : Nat) (x : Word) : (w.setW n x).role = w.role := rfl
@[simp] theorem Warp.setW_roleWarp (w : Warp) (n : Nat) (x : Word) : (w.setW n x).roleWarp = w.roleWarp := rfl
@[simp] theorem Warp.setW_gang (w : Warp) (n : Nat) (x : Word) : (w.setW n x).gang = w.gang := rfl
@[simp] theorem Warp.setW_gangNumber (w : Warp) (n : Nat) (x : Word) : (w.setW n x).gangNumber = w.gangNumber := rfl
@[simp] theorem Warp.setW_width (w : Warp) (n : Nat) (x : Word) : (w.setW n x).width = w.width := rfl
@[simp] theorem Warp.setW_nw (w : Warp) (n : Nat) (x : Word) : (w.setW n x).nw = w.nw := rfl
@[simp] theorem Warp.setW_strict (w : Warp) (n : Nat) (x : Word) : (w.setW n x).strict = w.strict := rfl
@[simp] theorem Warp.setW_saveIdx (w : Warp) (n : Nat) (x : Word) : (w.setW n x).saveIdx = w.saveIdx := rfl
@[simp] theorem Warp.setW_lanes (w : Warp) (n : Nat) (x : Word) : (w.setW n x).lanes = w.lanes := rfl
@[simp] theorem Warp.setW_v (w : Warp) (n : Nat) (x : Word) : (w.setW n x).v = w.v := rfl
@[simp] theorem Warp.setW_p (w : Warp) (n : Nat) (x : Word) : (w.setW n x).p = w.p := rfl
@[simp] theorem Warp.setW_t (w : Warp) (n : Nat) (x : Word) : (w.setW n x).t = w.t := rfl
@[simp] theorem Warp.setW_q (w : Warp) (n : Nat) (x : Word) : (w.setW n x).q = w.q := rfl
@[simp] theorem Warp.setW_counters (w : Warp) (n : Nat) (x : Word) : (w.setW n x).counters = w.counters := rfl
@[simp] theorem Warp.setW_relTimes (w : Warp) (n : Nat) (x : Word) : (w.setW n x).relTimes = w.relTimes := rfl
@[simp] theorem Warp.setW_mode (w : Warp) (n : Nat) (x : Word) : (w.setW n x).mode = w.mode := rfl
@[simp] theorem Warp.setW_zlane (w : Warp) (n : Nat) (x : Word) : (w.setW n x).zlane = w.zlane := rfl
@[simp] theorem Warp.setW_pts (w : Warp) (n : Nat) (x : Word) : (w.setW n x).pts = w.pts := rfl
@[simp] theorem Warp.setW_ptsSince (w : Warp) (n : Nat) (x : Word) : (w.setW n x).ptsSince = w.ptsSince := rfl
@[simp] theorem Warp.setW_handler (w : Warp) (n : Nat) (x : Word) : (w.setW n x).handler = w.handler := rfl
@[simp] theorem Warp.setW_stop (w : Warp) (n : Nat) (x : Word) : (w.setW n x).stop = w.stop := rfl
@[simp] theorem Warp.setW_pend (w : Warp) (n : Nat) (x : Word) : (w.setW n x).pend = w.pend := rfl
@[simp] theorem Warp.setW_hvec (w : Warp) (n : Nat) (x : Word) : (w.setW n x).hvec = w.hvec := rfl
@[simp] theorem Warp.setW_tcause (w : Warp) (n : Nat) (x : Word) : (w.setW n x).tcause = w.tcause := rfl
@[simp] theorem Warp.setW_tinfo (w : Warp) (n : Nat) (x : Word) : (w.setW n x).tinfo = w.tinfo := rfl
@[simp] theorem Warp.setW_tepc (w : Warp) (n : Nat) (x : Word) : (w.setW n x).tepc = w.tepc := rfl
@[simp] theorem Warp.setW_tmask (w : Warp) (n : Nat) (x : Word) : (w.setW n x).tmask = w.tmask := rfl
@[simp] theorem Warp.setW_task (w : Warp) (n : Nat) (x : Word) : (w.setW n x).task = w.task := rfl
@[simp] theorem Warp.setW_barWaits (w : Warp) (n : Nat) (x : Word) : (w.setW n x).barWaits = w.barWaits := rfl
@[simp] theorem Warp.setW_floor (w : Warp) (n : Nat) (x : Word) : (w.setW n x).floor = w.floor := rfl
@[simp] theorem Warp.setW_peak (w : Warp) (n : Nat) (x : Word) : (w.setW n x).peak = w.peak := rfl
@[simp] theorem Warp.setW_res (w : Warp) (n : Nat) (x : Word) : (w.setW n x).res = w.res := rfl
@[simp] theorem Warp.setW_nextBundle (w : Warp) (n : Nat) (x : Word) : (w.setW n x).nextBundle = w.nextBundle := rfl
@[simp] theorem Warp.setW_spilled (w : Warp) (n : Nat) (x : Word) : (w.setW n x).spilled = w.spilled := rfl
@[simp] theorem Warp.setW_refillRes (w : Warp) (n : Nat) (x : Word) : (w.setW n x).refillRes = w.refillRes := rfl
@[simp] theorem Warp.setW_placed (w : Warp) (n : Nat) (x : Word) : (w.setW n x).placed = w.placed := rfl
@[simp] theorem Warp.setW_issuedAt (w : Warp) (n : Nat) (x : Word) : (w.setW n x).issuedAt = w.issuedAt := rfl
@[simp] theorem Warp.setW_yieldUntil (w : Warp) (n : Nat) (x : Word) : (w.setW n x).yieldUntil = w.yieldUntil := rfl
@[simp] theorem Warp.setW_draining (w : Warp) (n : Nat) (x : Word) : (w.setW n x).draining = w.draining := rfl
@[simp] theorem Warp.setW_asked (w : Warp) (n : Nat) (x : Word) : (w.setW n x).asked = w.asked := rfl
@[simp] theorem Warp.setW_askedAt (w : Warp) (n : Nat) (x : Word) : (w.setW n x).askedAt = w.askedAt := rfl
@[simp] theorem Warp.setW_awaitV (w : Warp) (n : Nat) (x : Word) : (w.setW n x).awaitV = w.awaitV := rfl
@[simp] theorem Warp.setW_awaitW (w : Warp) (n : Nat) (x : Word) : (w.setW n x).awaitW = w.awaitW := rfl
@[simp] theorem Warp.setW_owed (w : Warp) (n : Nat) (x : Word) : (w.setW n x).owed = w.owed := rfl
@[simp] theorem Warp.setW_flight (w : Warp) (n : Nat) (x : Word) : (w.setW n x).flight = w.flight := rfl
@[simp] theorem Warp.setW_cmdTimes (w : Warp) (n : Nat) (x : Word) : (w.setW n x).cmdTimes = w.cmdTimes := rfl
@[simp] theorem Warp.setW_faultPcs (w : Warp) (n : Nat) (x : Word) : (w.setW n x).faultPcs = w.faultPcs := rfl
@[simp] theorem Warp.setW_gangWait (w : Warp) (n : Nat) (x : Word) : (w.setW n x).gangWait = w.gangWait := rfl
@[simp] theorem Warp.setW_teamCore (w : Warp) (n : Nat) (x : Word) : (w.setW n x).teamCore = w.teamCore := rfl
@[simp] theorem Warp.setW_search (w : Warp) (n : Nat) (x : Word) : (w.setW n x).search = w.search := rfl
@[simp] theorem Warp.setW_yieldNext (w : Warp) (n : Nat) (x : Word) : (w.setW n x).yieldNext = w.yieldNext := rfl
@[simp] theorem Warp.setW_sending (w : Warp) (n : Nat) (x : Word) : (w.setW n x).sending = w.sending := rfl

@[simp] theorem Warp.setT_ctx (w : Warp) (n : Nat) (x : BitVec 128) : (w.setT n x).ctx = w.ctx := rfl
@[simp] theorem Warp.setT_launch (w : Warp) (n : Nat) (x : BitVec 128) : (w.setT n x).launch = w.launch := rfl
@[simp] theorem Warp.setT_team (w : Warp) (n : Nat) (x : BitVec 128) : (w.setT n x).team = w.team := rfl
@[simp] theorem Warp.setT_teamWarp (w : Warp) (n : Nat) (x : BitVec 128) : (w.setT n x).teamWarp = w.teamWarp := rfl
@[simp] theorem Warp.setT_role (w : Warp) (n : Nat) (x : BitVec 128) : (w.setT n x).role = w.role := rfl
@[simp] theorem Warp.setT_roleWarp (w : Warp) (n : Nat) (x : BitVec 128) : (w.setT n x).roleWarp = w.roleWarp := rfl
@[simp] theorem Warp.setT_gang (w : Warp) (n : Nat) (x : BitVec 128) : (w.setT n x).gang = w.gang := rfl
@[simp] theorem Warp.setT_gangNumber (w : Warp) (n : Nat) (x : BitVec 128) : (w.setT n x).gangNumber = w.gangNumber := rfl
@[simp] theorem Warp.setT_width (w : Warp) (n : Nat) (x : BitVec 128) : (w.setT n x).width = w.width := rfl
@[simp] theorem Warp.setT_nw (w : Warp) (n : Nat) (x : BitVec 128) : (w.setT n x).nw = w.nw := rfl
@[simp] theorem Warp.setT_strict (w : Warp) (n : Nat) (x : BitVec 128) : (w.setT n x).strict = w.strict := rfl
@[simp] theorem Warp.setT_saveIdx (w : Warp) (n : Nat) (x : BitVec 128) : (w.setT n x).saveIdx = w.saveIdx := rfl
@[simp] theorem Warp.setT_lanes (w : Warp) (n : Nat) (x : BitVec 128) : (w.setT n x).lanes = w.lanes := rfl
@[simp] theorem Warp.setT_v (w : Warp) (n : Nat) (x : BitVec 128) : (w.setT n x).v = w.v := rfl
@[simp] theorem Warp.setT_w (w : Warp) (n : Nat) (x : BitVec 128) : (w.setT n x).w = w.w := rfl
@[simp] theorem Warp.setT_p (w : Warp) (n : Nat) (x : BitVec 128) : (w.setT n x).p = w.p := rfl
@[simp] theorem Warp.setT_q (w : Warp) (n : Nat) (x : BitVec 128) : (w.setT n x).q = w.q := rfl
@[simp] theorem Warp.setT_counters (w : Warp) (n : Nat) (x : BitVec 128) : (w.setT n x).counters = w.counters := rfl
@[simp] theorem Warp.setT_relTimes (w : Warp) (n : Nat) (x : BitVec 128) : (w.setT n x).relTimes = w.relTimes := rfl
@[simp] theorem Warp.setT_mode (w : Warp) (n : Nat) (x : BitVec 128) : (w.setT n x).mode = w.mode := rfl
@[simp] theorem Warp.setT_zlane (w : Warp) (n : Nat) (x : BitVec 128) : (w.setT n x).zlane = w.zlane := rfl
@[simp] theorem Warp.setT_pts (w : Warp) (n : Nat) (x : BitVec 128) : (w.setT n x).pts = w.pts := rfl
@[simp] theorem Warp.setT_ptsSince (w : Warp) (n : Nat) (x : BitVec 128) : (w.setT n x).ptsSince = w.ptsSince := rfl
@[simp] theorem Warp.setT_handler (w : Warp) (n : Nat) (x : BitVec 128) : (w.setT n x).handler = w.handler := rfl
@[simp] theorem Warp.setT_stop (w : Warp) (n : Nat) (x : BitVec 128) : (w.setT n x).stop = w.stop := rfl
@[simp] theorem Warp.setT_pend (w : Warp) (n : Nat) (x : BitVec 128) : (w.setT n x).pend = w.pend := rfl
@[simp] theorem Warp.setT_hvec (w : Warp) (n : Nat) (x : BitVec 128) : (w.setT n x).hvec = w.hvec := rfl
@[simp] theorem Warp.setT_tcause (w : Warp) (n : Nat) (x : BitVec 128) : (w.setT n x).tcause = w.tcause := rfl
@[simp] theorem Warp.setT_tinfo (w : Warp) (n : Nat) (x : BitVec 128) : (w.setT n x).tinfo = w.tinfo := rfl
@[simp] theorem Warp.setT_tepc (w : Warp) (n : Nat) (x : BitVec 128) : (w.setT n x).tepc = w.tepc := rfl
@[simp] theorem Warp.setT_tmask (w : Warp) (n : Nat) (x : BitVec 128) : (w.setT n x).tmask = w.tmask := rfl
@[simp] theorem Warp.setT_task (w : Warp) (n : Nat) (x : BitVec 128) : (w.setT n x).task = w.task := rfl
@[simp] theorem Warp.setT_barWaits (w : Warp) (n : Nat) (x : BitVec 128) : (w.setT n x).barWaits = w.barWaits := rfl
@[simp] theorem Warp.setT_floor (w : Warp) (n : Nat) (x : BitVec 128) : (w.setT n x).floor = w.floor := rfl
@[simp] theorem Warp.setT_peak (w : Warp) (n : Nat) (x : BitVec 128) : (w.setT n x).peak = w.peak := rfl
@[simp] theorem Warp.setT_res (w : Warp) (n : Nat) (x : BitVec 128) : (w.setT n x).res = w.res := rfl
@[simp] theorem Warp.setT_nextBundle (w : Warp) (n : Nat) (x : BitVec 128) : (w.setT n x).nextBundle = w.nextBundle := rfl
@[simp] theorem Warp.setT_spilled (w : Warp) (n : Nat) (x : BitVec 128) : (w.setT n x).spilled = w.spilled := rfl
@[simp] theorem Warp.setT_refillRes (w : Warp) (n : Nat) (x : BitVec 128) : (w.setT n x).refillRes = w.refillRes := rfl
@[simp] theorem Warp.setT_placed (w : Warp) (n : Nat) (x : BitVec 128) : (w.setT n x).placed = w.placed := rfl
@[simp] theorem Warp.setT_issuedAt (w : Warp) (n : Nat) (x : BitVec 128) : (w.setT n x).issuedAt = w.issuedAt := rfl
@[simp] theorem Warp.setT_yieldUntil (w : Warp) (n : Nat) (x : BitVec 128) : (w.setT n x).yieldUntil = w.yieldUntil := rfl
@[simp] theorem Warp.setT_draining (w : Warp) (n : Nat) (x : BitVec 128) : (w.setT n x).draining = w.draining := rfl
@[simp] theorem Warp.setT_asked (w : Warp) (n : Nat) (x : BitVec 128) : (w.setT n x).asked = w.asked := rfl
@[simp] theorem Warp.setT_askedAt (w : Warp) (n : Nat) (x : BitVec 128) : (w.setT n x).askedAt = w.askedAt := rfl
@[simp] theorem Warp.setT_awaitV (w : Warp) (n : Nat) (x : BitVec 128) : (w.setT n x).awaitV = w.awaitV := rfl
@[simp] theorem Warp.setT_awaitW (w : Warp) (n : Nat) (x : BitVec 128) : (w.setT n x).awaitW = w.awaitW := rfl
@[simp] theorem Warp.setT_owed (w : Warp) (n : Nat) (x : BitVec 128) : (w.setT n x).owed = w.owed := rfl
@[simp] theorem Warp.setT_flight (w : Warp) (n : Nat) (x : BitVec 128) : (w.setT n x).flight = w.flight := rfl
@[simp] theorem Warp.setT_cmdTimes (w : Warp) (n : Nat) (x : BitVec 128) : (w.setT n x).cmdTimes = w.cmdTimes := rfl
@[simp] theorem Warp.setT_faultPcs (w : Warp) (n : Nat) (x : BitVec 128) : (w.setT n x).faultPcs = w.faultPcs := rfl
@[simp] theorem Warp.setT_gangWait (w : Warp) (n : Nat) (x : BitVec 128) : (w.setT n x).gangWait = w.gangWait := rfl
@[simp] theorem Warp.setT_teamCore (w : Warp) (n : Nat) (x : BitVec 128) : (w.setT n x).teamCore = w.teamCore := rfl
@[simp] theorem Warp.setT_search (w : Warp) (n : Nat) (x : BitVec 128) : (w.setT n x).search = w.search := rfl
@[simp] theorem Warp.setT_yieldNext (w : Warp) (n : Nat) (x : BitVec 128) : (w.setT n x).yieldNext = w.yieldNext := rfl
@[simp] theorem Warp.setT_sending (w : Warp) (n : Nat) (x : BitVec 128) : (w.setT n x).sending = w.sending := rfl

@[simp] theorem Warp.setCounter_ctx (w : Warp) (k n : Nat) : (w.setCounter k n).ctx = w.ctx := rfl
@[simp] theorem Warp.setCounter_launch (w : Warp) (k n : Nat) : (w.setCounter k n).launch = w.launch := rfl
@[simp] theorem Warp.setCounter_team (w : Warp) (k n : Nat) : (w.setCounter k n).team = w.team := rfl
@[simp] theorem Warp.setCounter_teamWarp (w : Warp) (k n : Nat) : (w.setCounter k n).teamWarp = w.teamWarp := rfl
@[simp] theorem Warp.setCounter_role (w : Warp) (k n : Nat) : (w.setCounter k n).role = w.role := rfl
@[simp] theorem Warp.setCounter_roleWarp (w : Warp) (k n : Nat) : (w.setCounter k n).roleWarp = w.roleWarp := rfl
@[simp] theorem Warp.setCounter_gang (w : Warp) (k n : Nat) : (w.setCounter k n).gang = w.gang := rfl
@[simp] theorem Warp.setCounter_gangNumber (w : Warp) (k n : Nat) : (w.setCounter k n).gangNumber = w.gangNumber := rfl
@[simp] theorem Warp.setCounter_width (w : Warp) (k n : Nat) : (w.setCounter k n).width = w.width := rfl
@[simp] theorem Warp.setCounter_nw (w : Warp) (k n : Nat) : (w.setCounter k n).nw = w.nw := rfl
@[simp] theorem Warp.setCounter_strict (w : Warp) (k n : Nat) : (w.setCounter k n).strict = w.strict := rfl
@[simp] theorem Warp.setCounter_saveIdx (w : Warp) (k n : Nat) : (w.setCounter k n).saveIdx = w.saveIdx := rfl
@[simp] theorem Warp.setCounter_lanes (w : Warp) (k n : Nat) : (w.setCounter k n).lanes = w.lanes := rfl
@[simp] theorem Warp.setCounter_v (w : Warp) (k n : Nat) : (w.setCounter k n).v = w.v := rfl
@[simp] theorem Warp.setCounter_w (w : Warp) (k n : Nat) : (w.setCounter k n).w = w.w := rfl
@[simp] theorem Warp.setCounter_p (w : Warp) (k n : Nat) : (w.setCounter k n).p = w.p := rfl
@[simp] theorem Warp.setCounter_t (w : Warp) (k n : Nat) : (w.setCounter k n).t = w.t := rfl
@[simp] theorem Warp.setCounter_q (w : Warp) (k n : Nat) : (w.setCounter k n).q = w.q := rfl
@[simp] theorem Warp.setCounter_relTimes (w : Warp) (k n : Nat) : (w.setCounter k n).relTimes = w.relTimes := rfl
@[simp] theorem Warp.setCounter_mode (w : Warp) (k n : Nat) : (w.setCounter k n).mode = w.mode := rfl
@[simp] theorem Warp.setCounter_zlane (w : Warp) (k n : Nat) : (w.setCounter k n).zlane = w.zlane := rfl
@[simp] theorem Warp.setCounter_pts (w : Warp) (k n : Nat) : (w.setCounter k n).pts = w.pts := rfl
@[simp] theorem Warp.setCounter_ptsSince (w : Warp) (k n : Nat) : (w.setCounter k n).ptsSince = w.ptsSince := rfl
@[simp] theorem Warp.setCounter_handler (w : Warp) (k n : Nat) : (w.setCounter k n).handler = w.handler := rfl
@[simp] theorem Warp.setCounter_stop (w : Warp) (k n : Nat) : (w.setCounter k n).stop = w.stop := rfl
@[simp] theorem Warp.setCounter_pend (w : Warp) (k n : Nat) : (w.setCounter k n).pend = w.pend := rfl
@[simp] theorem Warp.setCounter_hvec (w : Warp) (k n : Nat) : (w.setCounter k n).hvec = w.hvec := rfl
@[simp] theorem Warp.setCounter_tcause (w : Warp) (k n : Nat) : (w.setCounter k n).tcause = w.tcause := rfl
@[simp] theorem Warp.setCounter_tinfo (w : Warp) (k n : Nat) : (w.setCounter k n).tinfo = w.tinfo := rfl
@[simp] theorem Warp.setCounter_tepc (w : Warp) (k n : Nat) : (w.setCounter k n).tepc = w.tepc := rfl
@[simp] theorem Warp.setCounter_tmask (w : Warp) (k n : Nat) : (w.setCounter k n).tmask = w.tmask := rfl
@[simp] theorem Warp.setCounter_task (w : Warp) (k n : Nat) : (w.setCounter k n).task = w.task := rfl
@[simp] theorem Warp.setCounter_barWaits (w : Warp) (k n : Nat) : (w.setCounter k n).barWaits = w.barWaits := rfl
@[simp] theorem Warp.setCounter_floor (w : Warp) (k n : Nat) : (w.setCounter k n).floor = w.floor := rfl
@[simp] theorem Warp.setCounter_peak (w : Warp) (k n : Nat) : (w.setCounter k n).peak = w.peak := rfl
@[simp] theorem Warp.setCounter_res (w : Warp) (k n : Nat) : (w.setCounter k n).res = w.res := rfl
@[simp] theorem Warp.setCounter_nextBundle (w : Warp) (k n : Nat) : (w.setCounter k n).nextBundle = w.nextBundle := rfl
@[simp] theorem Warp.setCounter_spilled (w : Warp) (k n : Nat) : (w.setCounter k n).spilled = w.spilled := rfl
@[simp] theorem Warp.setCounter_refillRes (w : Warp) (k n : Nat) : (w.setCounter k n).refillRes = w.refillRes := rfl
@[simp] theorem Warp.setCounter_placed (w : Warp) (k n : Nat) : (w.setCounter k n).placed = w.placed := rfl
@[simp] theorem Warp.setCounter_issuedAt (w : Warp) (k n : Nat) : (w.setCounter k n).issuedAt = w.issuedAt := rfl
@[simp] theorem Warp.setCounter_yieldUntil (w : Warp) (k n : Nat) : (w.setCounter k n).yieldUntil = w.yieldUntil := rfl
@[simp] theorem Warp.setCounter_draining (w : Warp) (k n : Nat) : (w.setCounter k n).draining = w.draining := rfl
@[simp] theorem Warp.setCounter_asked (w : Warp) (k n : Nat) : (w.setCounter k n).asked = w.asked := rfl
@[simp] theorem Warp.setCounter_askedAt (w : Warp) (k n : Nat) : (w.setCounter k n).askedAt = w.askedAt := rfl
@[simp] theorem Warp.setCounter_awaitV (w : Warp) (k n : Nat) : (w.setCounter k n).awaitV = w.awaitV := rfl
@[simp] theorem Warp.setCounter_awaitW (w : Warp) (k n : Nat) : (w.setCounter k n).awaitW = w.awaitW := rfl
@[simp] theorem Warp.setCounter_owed (w : Warp) (k n : Nat) : (w.setCounter k n).owed = w.owed := rfl
@[simp] theorem Warp.setCounter_flight (w : Warp) (k n : Nat) : (w.setCounter k n).flight = w.flight := rfl
@[simp] theorem Warp.setCounter_cmdTimes (w : Warp) (k n : Nat) : (w.setCounter k n).cmdTimes = w.cmdTimes := rfl
@[simp] theorem Warp.setCounter_faultPcs (w : Warp) (k n : Nat) : (w.setCounter k n).faultPcs = w.faultPcs := rfl
@[simp] theorem Warp.setCounter_gangWait (w : Warp) (k n : Nat) : (w.setCounter k n).gangWait = w.gangWait := rfl
@[simp] theorem Warp.setCounter_teamCore (w : Warp) (k n : Nat) : (w.setCounter k n).teamCore = w.teamCore := rfl
@[simp] theorem Warp.setCounter_search (w : Warp) (k n : Nat) : (w.setCounter k n).search = w.search := rfl
@[simp] theorem Warp.setCounter_yieldNext (w : Warp) (k n : Nat) : (w.setCounter k n).yieldNext = w.yieldNext := rfl
@[simp] theorem Warp.setCounter_sending (w : Warp) (k n : Nat) : (w.setCounter k n).sending = w.sending := rfl

@[simp] theorem Warp.writeV_ctx (w : Warp) (n : Nat) (xs : List (Nat × Word)) : (w.writeV n xs).ctx = w.ctx := rfl
@[simp] theorem Warp.writeV_launch (w : Warp) (n : Nat) (xs : List (Nat × Word)) : (w.writeV n xs).launch = w.launch := rfl
@[simp] theorem Warp.writeV_team (w : Warp) (n : Nat) (xs : List (Nat × Word)) : (w.writeV n xs).team = w.team := rfl
@[simp] theorem Warp.writeV_teamWarp (w : Warp) (n : Nat) (xs : List (Nat × Word)) : (w.writeV n xs).teamWarp = w.teamWarp := rfl
@[simp] theorem Warp.writeV_role (w : Warp) (n : Nat) (xs : List (Nat × Word)) : (w.writeV n xs).role = w.role := rfl
@[simp] theorem Warp.writeV_roleWarp (w : Warp) (n : Nat) (xs : List (Nat × Word)) : (w.writeV n xs).roleWarp = w.roleWarp := rfl
@[simp] theorem Warp.writeV_gang (w : Warp) (n : Nat) (xs : List (Nat × Word)) : (w.writeV n xs).gang = w.gang := rfl
@[simp] theorem Warp.writeV_gangNumber (w : Warp) (n : Nat) (xs : List (Nat × Word)) : (w.writeV n xs).gangNumber = w.gangNumber := rfl
@[simp] theorem Warp.writeV_width (w : Warp) (n : Nat) (xs : List (Nat × Word)) : (w.writeV n xs).width = w.width := rfl
@[simp] theorem Warp.writeV_nw (w : Warp) (n : Nat) (xs : List (Nat × Word)) : (w.writeV n xs).nw = w.nw := rfl
@[simp] theorem Warp.writeV_strict (w : Warp) (n : Nat) (xs : List (Nat × Word)) : (w.writeV n xs).strict = w.strict := rfl
@[simp] theorem Warp.writeV_saveIdx (w : Warp) (n : Nat) (xs : List (Nat × Word)) : (w.writeV n xs).saveIdx = w.saveIdx := rfl
@[simp] theorem Warp.writeV_lanes (w : Warp) (n : Nat) (xs : List (Nat × Word)) : (w.writeV n xs).lanes = w.lanes := rfl
@[simp] theorem Warp.writeV_w (w : Warp) (n : Nat) (xs : List (Nat × Word)) : (w.writeV n xs).w = w.w := rfl
@[simp] theorem Warp.writeV_p (w : Warp) (n : Nat) (xs : List (Nat × Word)) : (w.writeV n xs).p = w.p := rfl
@[simp] theorem Warp.writeV_t (w : Warp) (n : Nat) (xs : List (Nat × Word)) : (w.writeV n xs).t = w.t := rfl
@[simp] theorem Warp.writeV_q (w : Warp) (n : Nat) (xs : List (Nat × Word)) : (w.writeV n xs).q = w.q := rfl
@[simp] theorem Warp.writeV_counters (w : Warp) (n : Nat) (xs : List (Nat × Word)) : (w.writeV n xs).counters = w.counters := rfl
@[simp] theorem Warp.writeV_relTimes (w : Warp) (n : Nat) (xs : List (Nat × Word)) : (w.writeV n xs).relTimes = w.relTimes := rfl
@[simp] theorem Warp.writeV_mode (w : Warp) (n : Nat) (xs : List (Nat × Word)) : (w.writeV n xs).mode = w.mode := rfl
@[simp] theorem Warp.writeV_zlane (w : Warp) (n : Nat) (xs : List (Nat × Word)) : (w.writeV n xs).zlane = w.zlane := rfl
@[simp] theorem Warp.writeV_pts (w : Warp) (n : Nat) (xs : List (Nat × Word)) : (w.writeV n xs).pts = w.pts := rfl
@[simp] theorem Warp.writeV_ptsSince (w : Warp) (n : Nat) (xs : List (Nat × Word)) : (w.writeV n xs).ptsSince = w.ptsSince := rfl
@[simp] theorem Warp.writeV_handler (w : Warp) (n : Nat) (xs : List (Nat × Word)) : (w.writeV n xs).handler = w.handler := rfl
@[simp] theorem Warp.writeV_stop (w : Warp) (n : Nat) (xs : List (Nat × Word)) : (w.writeV n xs).stop = w.stop := rfl
@[simp] theorem Warp.writeV_pend (w : Warp) (n : Nat) (xs : List (Nat × Word)) : (w.writeV n xs).pend = w.pend := rfl
@[simp] theorem Warp.writeV_hvec (w : Warp) (n : Nat) (xs : List (Nat × Word)) : (w.writeV n xs).hvec = w.hvec := rfl
@[simp] theorem Warp.writeV_tcause (w : Warp) (n : Nat) (xs : List (Nat × Word)) : (w.writeV n xs).tcause = w.tcause := rfl
@[simp] theorem Warp.writeV_tinfo (w : Warp) (n : Nat) (xs : List (Nat × Word)) : (w.writeV n xs).tinfo = w.tinfo := rfl
@[simp] theorem Warp.writeV_tepc (w : Warp) (n : Nat) (xs : List (Nat × Word)) : (w.writeV n xs).tepc = w.tepc := rfl
@[simp] theorem Warp.writeV_tmask (w : Warp) (n : Nat) (xs : List (Nat × Word)) : (w.writeV n xs).tmask = w.tmask := rfl
@[simp] theorem Warp.writeV_task (w : Warp) (n : Nat) (xs : List (Nat × Word)) : (w.writeV n xs).task = w.task := rfl
@[simp] theorem Warp.writeV_barWaits (w : Warp) (n : Nat) (xs : List (Nat × Word)) : (w.writeV n xs).barWaits = w.barWaits := rfl
@[simp] theorem Warp.writeV_floor (w : Warp) (n : Nat) (xs : List (Nat × Word)) : (w.writeV n xs).floor = w.floor := rfl
@[simp] theorem Warp.writeV_peak (w : Warp) (n : Nat) (xs : List (Nat × Word)) : (w.writeV n xs).peak = w.peak := rfl
@[simp] theorem Warp.writeV_res (w : Warp) (n : Nat) (xs : List (Nat × Word)) : (w.writeV n xs).res = w.res := rfl
@[simp] theorem Warp.writeV_nextBundle (w : Warp) (n : Nat) (xs : List (Nat × Word)) : (w.writeV n xs).nextBundle = w.nextBundle := rfl
@[simp] theorem Warp.writeV_spilled (w : Warp) (n : Nat) (xs : List (Nat × Word)) : (w.writeV n xs).spilled = w.spilled := rfl
@[simp] theorem Warp.writeV_refillRes (w : Warp) (n : Nat) (xs : List (Nat × Word)) : (w.writeV n xs).refillRes = w.refillRes := rfl
@[simp] theorem Warp.writeV_placed (w : Warp) (n : Nat) (xs : List (Nat × Word)) : (w.writeV n xs).placed = w.placed := rfl
@[simp] theorem Warp.writeV_issuedAt (w : Warp) (n : Nat) (xs : List (Nat × Word)) : (w.writeV n xs).issuedAt = w.issuedAt := rfl
@[simp] theorem Warp.writeV_yieldUntil (w : Warp) (n : Nat) (xs : List (Nat × Word)) : (w.writeV n xs).yieldUntil = w.yieldUntil := rfl
@[simp] theorem Warp.writeV_draining (w : Warp) (n : Nat) (xs : List (Nat × Word)) : (w.writeV n xs).draining = w.draining := rfl
@[simp] theorem Warp.writeV_asked (w : Warp) (n : Nat) (xs : List (Nat × Word)) : (w.writeV n xs).asked = w.asked := rfl
@[simp] theorem Warp.writeV_askedAt (w : Warp) (n : Nat) (xs : List (Nat × Word)) : (w.writeV n xs).askedAt = w.askedAt := rfl
@[simp] theorem Warp.writeV_awaitV (w : Warp) (n : Nat) (xs : List (Nat × Word)) : (w.writeV n xs).awaitV = w.awaitV := rfl
@[simp] theorem Warp.writeV_awaitW (w : Warp) (n : Nat) (xs : List (Nat × Word)) : (w.writeV n xs).awaitW = w.awaitW := rfl
@[simp] theorem Warp.writeV_owed (w : Warp) (n : Nat) (xs : List (Nat × Word)) : (w.writeV n xs).owed = w.owed := rfl
@[simp] theorem Warp.writeV_flight (w : Warp) (n : Nat) (xs : List (Nat × Word)) : (w.writeV n xs).flight = w.flight := rfl
@[simp] theorem Warp.writeV_cmdTimes (w : Warp) (n : Nat) (xs : List (Nat × Word)) : (w.writeV n xs).cmdTimes = w.cmdTimes := rfl
@[simp] theorem Warp.writeV_faultPcs (w : Warp) (n : Nat) (xs : List (Nat × Word)) : (w.writeV n xs).faultPcs = w.faultPcs := rfl
@[simp] theorem Warp.writeV_gangWait (w : Warp) (n : Nat) (xs : List (Nat × Word)) : (w.writeV n xs).gangWait = w.gangWait := rfl
@[simp] theorem Warp.writeV_teamCore (w : Warp) (n : Nat) (xs : List (Nat × Word)) : (w.writeV n xs).teamCore = w.teamCore := rfl
@[simp] theorem Warp.writeV_search (w : Warp) (n : Nat) (xs : List (Nat × Word)) : (w.writeV n xs).search = w.search := rfl
@[simp] theorem Warp.writeV_yieldNext (w : Warp) (n : Nat) (xs : List (Nat × Word)) : (w.writeV n xs).yieldNext = w.yieldNext := rfl
@[simp] theorem Warp.writeV_sending (w : Warp) (n : Nat) (xs : List (Nat × Word)) : (w.writeV n xs).sending = w.sending := rfl

@[simp] theorem Warp.modLanes_ctx (w : Warp) (m : Mask) (g : Lane → Lane) : (w.modLanes m g).ctx = w.ctx := rfl
@[simp] theorem Warp.modLanes_launch (w : Warp) (m : Mask) (g : Lane → Lane) : (w.modLanes m g).launch = w.launch := rfl
@[simp] theorem Warp.modLanes_team (w : Warp) (m : Mask) (g : Lane → Lane) : (w.modLanes m g).team = w.team := rfl
@[simp] theorem Warp.modLanes_teamWarp (w : Warp) (m : Mask) (g : Lane → Lane) : (w.modLanes m g).teamWarp = w.teamWarp := rfl
@[simp] theorem Warp.modLanes_role (w : Warp) (m : Mask) (g : Lane → Lane) : (w.modLanes m g).role = w.role := rfl
@[simp] theorem Warp.modLanes_roleWarp (w : Warp) (m : Mask) (g : Lane → Lane) : (w.modLanes m g).roleWarp = w.roleWarp := rfl
@[simp] theorem Warp.modLanes_gang (w : Warp) (m : Mask) (g : Lane → Lane) : (w.modLanes m g).gang = w.gang := rfl
@[simp] theorem Warp.modLanes_gangNumber (w : Warp) (m : Mask) (g : Lane → Lane) : (w.modLanes m g).gangNumber = w.gangNumber := rfl
@[simp] theorem Warp.modLanes_width (w : Warp) (m : Mask) (g : Lane → Lane) : (w.modLanes m g).width = w.width := rfl
@[simp] theorem Warp.modLanes_nw (w : Warp) (m : Mask) (g : Lane → Lane) : (w.modLanes m g).nw = w.nw := rfl
@[simp] theorem Warp.modLanes_strict (w : Warp) (m : Mask) (g : Lane → Lane) : (w.modLanes m g).strict = w.strict := rfl
@[simp] theorem Warp.modLanes_saveIdx (w : Warp) (m : Mask) (g : Lane → Lane) : (w.modLanes m g).saveIdx = w.saveIdx := rfl
@[simp] theorem Warp.modLanes_v (w : Warp) (m : Mask) (g : Lane → Lane) : (w.modLanes m g).v = w.v := rfl
@[simp] theorem Warp.modLanes_w (w : Warp) (m : Mask) (g : Lane → Lane) : (w.modLanes m g).w = w.w := rfl
@[simp] theorem Warp.modLanes_p (w : Warp) (m : Mask) (g : Lane → Lane) : (w.modLanes m g).p = w.p := rfl
@[simp] theorem Warp.modLanes_t (w : Warp) (m : Mask) (g : Lane → Lane) : (w.modLanes m g).t = w.t := rfl
@[simp] theorem Warp.modLanes_q (w : Warp) (m : Mask) (g : Lane → Lane) : (w.modLanes m g).q = w.q := rfl
@[simp] theorem Warp.modLanes_counters (w : Warp) (m : Mask) (g : Lane → Lane) : (w.modLanes m g).counters = w.counters := rfl
@[simp] theorem Warp.modLanes_relTimes (w : Warp) (m : Mask) (g : Lane → Lane) : (w.modLanes m g).relTimes = w.relTimes := rfl
@[simp] theorem Warp.modLanes_mode (w : Warp) (m : Mask) (g : Lane → Lane) : (w.modLanes m g).mode = w.mode := rfl
@[simp] theorem Warp.modLanes_zlane (w : Warp) (m : Mask) (g : Lane → Lane) : (w.modLanes m g).zlane = w.zlane := rfl
@[simp] theorem Warp.modLanes_pts (w : Warp) (m : Mask) (g : Lane → Lane) : (w.modLanes m g).pts = w.pts := rfl
@[simp] theorem Warp.modLanes_ptsSince (w : Warp) (m : Mask) (g : Lane → Lane) : (w.modLanes m g).ptsSince = w.ptsSince := rfl
@[simp] theorem Warp.modLanes_handler (w : Warp) (m : Mask) (g : Lane → Lane) : (w.modLanes m g).handler = w.handler := rfl
@[simp] theorem Warp.modLanes_stop (w : Warp) (m : Mask) (g : Lane → Lane) : (w.modLanes m g).stop = w.stop := rfl
@[simp] theorem Warp.modLanes_pend (w : Warp) (m : Mask) (g : Lane → Lane) : (w.modLanes m g).pend = w.pend := rfl
@[simp] theorem Warp.modLanes_hvec (w : Warp) (m : Mask) (g : Lane → Lane) : (w.modLanes m g).hvec = w.hvec := rfl
@[simp] theorem Warp.modLanes_tcause (w : Warp) (m : Mask) (g : Lane → Lane) : (w.modLanes m g).tcause = w.tcause := rfl
@[simp] theorem Warp.modLanes_tinfo (w : Warp) (m : Mask) (g : Lane → Lane) : (w.modLanes m g).tinfo = w.tinfo := rfl
@[simp] theorem Warp.modLanes_tepc (w : Warp) (m : Mask) (g : Lane → Lane) : (w.modLanes m g).tepc = w.tepc := rfl
@[simp] theorem Warp.modLanes_tmask (w : Warp) (m : Mask) (g : Lane → Lane) : (w.modLanes m g).tmask = w.tmask := rfl
@[simp] theorem Warp.modLanes_task (w : Warp) (m : Mask) (g : Lane → Lane) : (w.modLanes m g).task = w.task := rfl
@[simp] theorem Warp.modLanes_barWaits (w : Warp) (m : Mask) (g : Lane → Lane) : (w.modLanes m g).barWaits = w.barWaits := rfl
@[simp] theorem Warp.modLanes_floor (w : Warp) (m : Mask) (g : Lane → Lane) : (w.modLanes m g).floor = w.floor := rfl
@[simp] theorem Warp.modLanes_peak (w : Warp) (m : Mask) (g : Lane → Lane) : (w.modLanes m g).peak = w.peak := rfl
@[simp] theorem Warp.modLanes_res (w : Warp) (m : Mask) (g : Lane → Lane) : (w.modLanes m g).res = w.res := rfl
@[simp] theorem Warp.modLanes_nextBundle (w : Warp) (m : Mask) (g : Lane → Lane) : (w.modLanes m g).nextBundle = w.nextBundle := rfl
@[simp] theorem Warp.modLanes_spilled (w : Warp) (m : Mask) (g : Lane → Lane) : (w.modLanes m g).spilled = w.spilled := rfl
@[simp] theorem Warp.modLanes_refillRes (w : Warp) (m : Mask) (g : Lane → Lane) : (w.modLanes m g).refillRes = w.refillRes := rfl
@[simp] theorem Warp.modLanes_placed (w : Warp) (m : Mask) (g : Lane → Lane) : (w.modLanes m g).placed = w.placed := rfl
@[simp] theorem Warp.modLanes_issuedAt (w : Warp) (m : Mask) (g : Lane → Lane) : (w.modLanes m g).issuedAt = w.issuedAt := rfl
@[simp] theorem Warp.modLanes_yieldUntil (w : Warp) (m : Mask) (g : Lane → Lane) : (w.modLanes m g).yieldUntil = w.yieldUntil := rfl
@[simp] theorem Warp.modLanes_draining (w : Warp) (m : Mask) (g : Lane → Lane) : (w.modLanes m g).draining = w.draining := rfl
@[simp] theorem Warp.modLanes_asked (w : Warp) (m : Mask) (g : Lane → Lane) : (w.modLanes m g).asked = w.asked := rfl
@[simp] theorem Warp.modLanes_askedAt (w : Warp) (m : Mask) (g : Lane → Lane) : (w.modLanes m g).askedAt = w.askedAt := rfl
@[simp] theorem Warp.modLanes_awaitV (w : Warp) (m : Mask) (g : Lane → Lane) : (w.modLanes m g).awaitV = w.awaitV := rfl
@[simp] theorem Warp.modLanes_awaitW (w : Warp) (m : Mask) (g : Lane → Lane) : (w.modLanes m g).awaitW = w.awaitW := rfl
@[simp] theorem Warp.modLanes_owed (w : Warp) (m : Mask) (g : Lane → Lane) : (w.modLanes m g).owed = w.owed := rfl
@[simp] theorem Warp.modLanes_flight (w : Warp) (m : Mask) (g : Lane → Lane) : (w.modLanes m g).flight = w.flight := rfl
@[simp] theorem Warp.modLanes_cmdTimes (w : Warp) (m : Mask) (g : Lane → Lane) : (w.modLanes m g).cmdTimes = w.cmdTimes := rfl
@[simp] theorem Warp.modLanes_faultPcs (w : Warp) (m : Mask) (g : Lane → Lane) : (w.modLanes m g).faultPcs = w.faultPcs := rfl
@[simp] theorem Warp.modLanes_gangWait (w : Warp) (m : Mask) (g : Lane → Lane) : (w.modLanes m g).gangWait = w.gangWait := rfl
@[simp] theorem Warp.modLanes_teamCore (w : Warp) (m : Mask) (g : Lane → Lane) : (w.modLanes m g).teamCore = w.teamCore := rfl
@[simp] theorem Warp.modLanes_search (w : Warp) (m : Mask) (g : Lane → Lane) : (w.modLanes m g).search = w.search := rfl
@[simp] theorem Warp.modLanes_yieldNext (w : Warp) (m : Mask) (g : Lane → Lane) : (w.modLanes m g).yieldNext = w.yieldNext := rfl
@[simp] theorem Warp.modLanes_sending (w : Warp) (m : Mask) (g : Lane → Lane) : (w.modLanes m g).sending = w.sending := rfl

@[simp] theorem Warp.setP_ctx (w : Warp) (n : Nat) (m x : Mask) : (w.setP n m x).ctx = w.ctx := by
  unfold Warp.setP; split <;> rfl
@[simp] theorem Warp.setP_launch (w : Warp) (n : Nat) (m x : Mask) : (w.setP n m x).launch = w.launch := by
  unfold Warp.setP; split <;> rfl
@[simp] theorem Warp.setP_team (w : Warp) (n : Nat) (m x : Mask) : (w.setP n m x).team = w.team := by
  unfold Warp.setP; split <;> rfl
@[simp] theorem Warp.setP_teamWarp (w : Warp) (n : Nat) (m x : Mask) : (w.setP n m x).teamWarp = w.teamWarp := by
  unfold Warp.setP; split <;> rfl
@[simp] theorem Warp.setP_role (w : Warp) (n : Nat) (m x : Mask) : (w.setP n m x).role = w.role := by
  unfold Warp.setP; split <;> rfl
@[simp] theorem Warp.setP_roleWarp (w : Warp) (n : Nat) (m x : Mask) : (w.setP n m x).roleWarp = w.roleWarp := by
  unfold Warp.setP; split <;> rfl
@[simp] theorem Warp.setP_gang (w : Warp) (n : Nat) (m x : Mask) : (w.setP n m x).gang = w.gang := by
  unfold Warp.setP; split <;> rfl
@[simp] theorem Warp.setP_gangNumber (w : Warp) (n : Nat) (m x : Mask) : (w.setP n m x).gangNumber = w.gangNumber := by
  unfold Warp.setP; split <;> rfl
@[simp] theorem Warp.setP_width (w : Warp) (n : Nat) (m x : Mask) : (w.setP n m x).width = w.width := by
  unfold Warp.setP; split <;> rfl
@[simp] theorem Warp.setP_nw (w : Warp) (n : Nat) (m x : Mask) : (w.setP n m x).nw = w.nw := by
  unfold Warp.setP; split <;> rfl
@[simp] theorem Warp.setP_strict (w : Warp) (n : Nat) (m x : Mask) : (w.setP n m x).strict = w.strict := by
  unfold Warp.setP; split <;> rfl
@[simp] theorem Warp.setP_saveIdx (w : Warp) (n : Nat) (m x : Mask) : (w.setP n m x).saveIdx = w.saveIdx := by
  unfold Warp.setP; split <;> rfl
@[simp] theorem Warp.setP_lanes (w : Warp) (n : Nat) (m x : Mask) : (w.setP n m x).lanes = w.lanes := by
  unfold Warp.setP; split <;> rfl
@[simp] theorem Warp.setP_v (w : Warp) (n : Nat) (m x : Mask) : (w.setP n m x).v = w.v := by
  unfold Warp.setP; split <;> rfl
@[simp] theorem Warp.setP_w (w : Warp) (n : Nat) (m x : Mask) : (w.setP n m x).w = w.w := by
  unfold Warp.setP; split <;> rfl
@[simp] theorem Warp.setP_t (w : Warp) (n : Nat) (m x : Mask) : (w.setP n m x).t = w.t := by
  unfold Warp.setP; split <;> rfl
@[simp] theorem Warp.setP_q (w : Warp) (n : Nat) (m x : Mask) : (w.setP n m x).q = w.q := by
  unfold Warp.setP; split <;> rfl
@[simp] theorem Warp.setP_counters (w : Warp) (n : Nat) (m x : Mask) : (w.setP n m x).counters = w.counters := by
  unfold Warp.setP; split <;> rfl
@[simp] theorem Warp.setP_relTimes (w : Warp) (n : Nat) (m x : Mask) : (w.setP n m x).relTimes = w.relTimes := by
  unfold Warp.setP; split <;> rfl
@[simp] theorem Warp.setP_mode (w : Warp) (n : Nat) (m x : Mask) : (w.setP n m x).mode = w.mode := by
  unfold Warp.setP; split <;> rfl
@[simp] theorem Warp.setP_zlane (w : Warp) (n : Nat) (m x : Mask) : (w.setP n m x).zlane = w.zlane := by
  unfold Warp.setP; split <;> rfl
@[simp] theorem Warp.setP_pts (w : Warp) (n : Nat) (m x : Mask) : (w.setP n m x).pts = w.pts := by
  unfold Warp.setP; split <;> rfl
@[simp] theorem Warp.setP_ptsSince (w : Warp) (n : Nat) (m x : Mask) : (w.setP n m x).ptsSince = w.ptsSince := by
  unfold Warp.setP; split <;> rfl
@[simp] theorem Warp.setP_handler (w : Warp) (n : Nat) (m x : Mask) : (w.setP n m x).handler = w.handler := by
  unfold Warp.setP; split <;> rfl
@[simp] theorem Warp.setP_stop (w : Warp) (n : Nat) (m x : Mask) : (w.setP n m x).stop = w.stop := by
  unfold Warp.setP; split <;> rfl
@[simp] theorem Warp.setP_pend (w : Warp) (n : Nat) (m x : Mask) : (w.setP n m x).pend = w.pend := by
  unfold Warp.setP; split <;> rfl
@[simp] theorem Warp.setP_hvec (w : Warp) (n : Nat) (m x : Mask) : (w.setP n m x).hvec = w.hvec := by
  unfold Warp.setP; split <;> rfl
@[simp] theorem Warp.setP_tcause (w : Warp) (n : Nat) (m x : Mask) : (w.setP n m x).tcause = w.tcause := by
  unfold Warp.setP; split <;> rfl
@[simp] theorem Warp.setP_tinfo (w : Warp) (n : Nat) (m x : Mask) : (w.setP n m x).tinfo = w.tinfo := by
  unfold Warp.setP; split <;> rfl
@[simp] theorem Warp.setP_tepc (w : Warp) (n : Nat) (m x : Mask) : (w.setP n m x).tepc = w.tepc := by
  unfold Warp.setP; split <;> rfl
@[simp] theorem Warp.setP_tmask (w : Warp) (n : Nat) (m x : Mask) : (w.setP n m x).tmask = w.tmask := by
  unfold Warp.setP; split <;> rfl
@[simp] theorem Warp.setP_task (w : Warp) (n : Nat) (m x : Mask) : (w.setP n m x).task = w.task := by
  unfold Warp.setP; split <;> rfl
@[simp] theorem Warp.setP_barWaits (w : Warp) (n : Nat) (m x : Mask) : (w.setP n m x).barWaits = w.barWaits := by
  unfold Warp.setP; split <;> rfl
@[simp] theorem Warp.setP_floor (w : Warp) (n : Nat) (m x : Mask) : (w.setP n m x).floor = w.floor := by
  unfold Warp.setP; split <;> rfl
@[simp] theorem Warp.setP_peak (w : Warp) (n : Nat) (m x : Mask) : (w.setP n m x).peak = w.peak := by
  unfold Warp.setP; split <;> rfl
@[simp] theorem Warp.setP_res (w : Warp) (n : Nat) (m x : Mask) : (w.setP n m x).res = w.res := by
  unfold Warp.setP; split <;> rfl
@[simp] theorem Warp.setP_nextBundle (w : Warp) (n : Nat) (m x : Mask) : (w.setP n m x).nextBundle = w.nextBundle := by
  unfold Warp.setP; split <;> rfl
@[simp] theorem Warp.setP_spilled (w : Warp) (n : Nat) (m x : Mask) : (w.setP n m x).spilled = w.spilled := by
  unfold Warp.setP; split <;> rfl
@[simp] theorem Warp.setP_refillRes (w : Warp) (n : Nat) (m x : Mask) : (w.setP n m x).refillRes = w.refillRes := by
  unfold Warp.setP; split <;> rfl
@[simp] theorem Warp.setP_placed (w : Warp) (n : Nat) (m x : Mask) : (w.setP n m x).placed = w.placed := by
  unfold Warp.setP; split <;> rfl
@[simp] theorem Warp.setP_issuedAt (w : Warp) (n : Nat) (m x : Mask) : (w.setP n m x).issuedAt = w.issuedAt := by
  unfold Warp.setP; split <;> rfl
@[simp] theorem Warp.setP_yieldUntil (w : Warp) (n : Nat) (m x : Mask) : (w.setP n m x).yieldUntil = w.yieldUntil := by
  unfold Warp.setP; split <;> rfl
@[simp] theorem Warp.setP_draining (w : Warp) (n : Nat) (m x : Mask) : (w.setP n m x).draining = w.draining := by
  unfold Warp.setP; split <;> rfl
@[simp] theorem Warp.setP_asked (w : Warp) (n : Nat) (m x : Mask) : (w.setP n m x).asked = w.asked := by
  unfold Warp.setP; split <;> rfl
@[simp] theorem Warp.setP_askedAt (w : Warp) (n : Nat) (m x : Mask) : (w.setP n m x).askedAt = w.askedAt := by
  unfold Warp.setP; split <;> rfl
@[simp] theorem Warp.setP_awaitV (w : Warp) (n : Nat) (m x : Mask) : (w.setP n m x).awaitV = w.awaitV := by
  unfold Warp.setP; split <;> rfl
@[simp] theorem Warp.setP_awaitW (w : Warp) (n : Nat) (m x : Mask) : (w.setP n m x).awaitW = w.awaitW := by
  unfold Warp.setP; split <;> rfl
@[simp] theorem Warp.setP_owed (w : Warp) (n : Nat) (m x : Mask) : (w.setP n m x).owed = w.owed := by
  unfold Warp.setP; split <;> rfl
@[simp] theorem Warp.setP_flight (w : Warp) (n : Nat) (m x : Mask) : (w.setP n m x).flight = w.flight := by
  unfold Warp.setP; split <;> rfl
@[simp] theorem Warp.setP_cmdTimes (w : Warp) (n : Nat) (m x : Mask) : (w.setP n m x).cmdTimes = w.cmdTimes := by
  unfold Warp.setP; split <;> rfl
@[simp] theorem Warp.setP_faultPcs (w : Warp) (n : Nat) (m x : Mask) : (w.setP n m x).faultPcs = w.faultPcs := by
  unfold Warp.setP; split <;> rfl
@[simp] theorem Warp.setP_gangWait (w : Warp) (n : Nat) (m x : Mask) : (w.setP n m x).gangWait = w.gangWait := by
  unfold Warp.setP; split <;> rfl
@[simp] theorem Warp.setP_teamCore (w : Warp) (n : Nat) (m x : Mask) : (w.setP n m x).teamCore = w.teamCore := by
  unfold Warp.setP; split <;> rfl
@[simp] theorem Warp.setP_search (w : Warp) (n : Nat) (m x : Mask) : (w.setP n m x).search = w.search := by
  unfold Warp.setP; split <;> rfl
@[simp] theorem Warp.setP_yieldNext (w : Warp) (n : Nat) (m x : Mask) : (w.setP n m x).yieldNext = w.yieldNext := by
  unfold Warp.setP; split <;> rfl
@[simp] theorem Warp.setP_sending (w : Warp) (n : Nat) (m x : Mask) : (w.setP n m x).sending = w.sending := by
  unfold Warp.setP; split <;> rfl

end Sys2Proof.Machine
end

