-- ==== Sys2Proof/Laws/Issue.lean ====
section
/-! SUPPORT. What the steps around an instruction's own effect do, said once: a bundle that runs through, and each way an instruction ends instead. -/
namespace Sys2Proof.Laws
open Sys2Proof.Machine Sys2Proof.Safety

/-! ### Guards of descriptions -/

theorem guard_some {p : Prop} [Decidable p] {u : Unit} : (guard p : Option Unit) = some u ↔ p := by
  by_cases h : p <;> simp [guard, h]

theorem guard_bind {α : Type} {p : Prop} [Decidable p] {f : Unit → Option α} {t : α} :
    (guard p : Option Unit).bind f = some t ↔ p ∧ f () = some t := by
  by_cases h : p
  · simp [guard, h]
  · simp only [guard, h, if_false, false_and, iff_false]
    exact fun e => nomatch e

/-! ### A bundle that runs through -/

/-- With its writes covered an instruction finishes. -/
theorem commit_covered {b s : State} {e : Enc} {f : Fields} {c : Cur} {act : Mask} {push : Option (Nat × Nat)}
    {ws : List Wr} {mv : Warp → Warp} (h : Covered s e f c ws) :
    commit b s e f c act push ws mv = s.finish e f c push ws mv := by
  unfold commit
  unfold Covered at h
  cases hw : s.warp? c.wid with
  | none => simp [State.finish, hw]
  | some w => simp only [hw, Option.all_some] at h; simp [State.demanded, h]

/-- With nothing in its way an instruction comes to its own effect. -/
theorem irlek_ready {e : Enc} {f : Fields} {s : State} {c : Cur} {w : Warp} {body : Iss → State → Res} {ident : Word}
    {level : Bool} (hr : Ready e f level s c w) :
    irlek e f s body ident level = .next (effect s e f c w (activeLanes w f c.lanes) body) := by
  obtain ⟨h1, h2, hs, h3, h4, h5, h6, h7, h8, h9, h10⟩ := hr
  have h4' : (level && !w.handler) = false := by cases level <;> simp_all
  have h8' : (w.strict && (vectorSources e f).any fun n => !w.mapped n) = false := by
    cases hw : w.strict <;> simp_all
  have h10' : ((counterOf f).map fun k => w.counter k == 63).getD false = false := by
    cases hk : counterOf f <;> simp_all
  have h9' : ¬ activeLanes w f c.lanes = 0 := h9
  unfold irlek issueOne
  simp only [h1, h2, hs, h3, h4', h5, h6, h7, h8', h9', h10', Bool.not_true, Bool.or_self, Bool.false_eq_true, if_false]

/-- What an effect that moves its lanes comes to. -/
theorem irlek_move {e : Enc} {f : Fields} {s s1 s2 : State} {c : Cur} {w : Warp} {pop : Option (Nat × Nat × Nat)}
    {push : Option (Nat × Nat)} {bs : List Blocked} {popped : AMap Word} {body : Iss → State → Res} {ident : Word}
    {level : Bool} {ws : List Wr} {mv : Warp → Warp} (hr : Ready e f level s c w)
    (hq : s.ringReady c.wid w c.pc e f (activeLanes w f c.lanes).count = .ready pop push bs)
    (ht : s.deliver c.wid e f (activeLanes w f c.lanes) pop bs = (s1, popped))
    (hb : body (c.iss (s1.popped c.wid w) e f (activeLanes w f c.lanes) popped) s1 = .move s2 ws mv) (hc : Covered s2 e f c ws) :
    irlek e f s body ident level = .next (s2.finish e f c push ws mv) := by
  rw [irlek_ready hr]
  unfold effect
  simp only [hq, ht, hb, State.conclude, commit_covered hc]

/-- What an effect that goes past the instruction comes to. -/
theorem irlek_ok {e : Enc} {f : Fields} {s s1 s2 : State} {c : Cur} {w : Warp} {pop : Option (Nat × Nat × Nat)}
    {push : Option (Nat × Nat)} {bs : List Blocked} {popped : AMap Word} {body : Iss → State → Res} {ident : Word}
    {level : Bool} {ws : List Wr} (hr : Ready e f level s c w)
    (hq : s.ringReady c.wid w c.pc e f (activeLanes w f c.lanes).count = .ready pop push bs)
    (ht : s.deliver c.wid e f (activeLanes w f c.lanes) pop bs = (s1, popped))
    (hb : body (c.iss (s1.popped c.wid w) e f (activeLanes w f c.lanes) popped) s1 = .ok s2 ws) (hc : Covered s2 e f c ws) :
    irlek e f s body ident level = .next (s2.finish e f c push ws fun w => w.advance c c.lanes) := by
  rw [irlek_ready hr]
  unfold effect
  simp only [hq, ht, hb, State.conclude, commit_covered hc]

/-- An instruction whose body answers as its row says, going past itself. -/
theorem does_ok {r : Row} {body : Fields → Iss → State → Res} {ident : Fields → Word}
    (hx : ∀ f s, exec (r.ins f) s = irlek r.enc f s (body f) (ident f) (r.level f))
    (hm : ∀ i s w, r.eff.mv i s w = w.advance i.c i.c.lanes)
    (hb : ∀ i s, i.e = r.enc → r.eff.cond i s = true → body i.f i s = .ok (r.eff.st i s) (r.eff.ws i s)) : r.Does := by
  rintro f s s1 c push i ⟨⟨w, hr, pop, bs, popped, hq, ht, rfl⟩, hcond, hcov⟩
  have hmv : r.eff.mv (c.iss (s1.popped c.wid w) r.enc f (activeLanes w f c.lanes) popped) s1 = fun w => w.advance c c.lanes := by
    funext w'; rw [hm]; rfl
  rw [hx, Row.after, hmv]
  exact irlek_ok hr hq ht (hb _ _ rfl hcond) hcov

/-- An instruction whose body answers as its row says and moves its lanes. -/
theorem does_move {r : Row} {body : Fields → Iss → State → Res} {ident : Fields → Word}
    (hx : ∀ f s, exec (r.ins f) s = irlek r.enc f s (body f) (ident f) (r.level f))
    (hb : ∀ i s, i.e = r.enc → r.eff.cond i s = true →
      body i.f i s = .move (r.eff.st i s) (r.eff.ws i s) (r.eff.mv i s)) : r.Does := by
  rintro f s s1 c push i ⟨⟨w, hr, pop, bs, popped, hq, ht, rfl⟩, hcond, hcov⟩
  rw [hx]
  exact irlek_move hr hq ht (hb _ _ rfl hcond) hcov

/-- What `Row.meets` finds is a bundle that the instruction runs for. -/
theorem runs_of_meets {r : Row} {f : Fields} {s : State} (h : r.meets f s = true) :
    ∃ s1 c push i, r.Runs f s s1 c push i := by
  unfold Row.meets at h
  split at h
  · cases h
  · next c hc =>
    split at h
    · cases h
    · next w hw =>
      simp only [Bool.and_eq_true, decide_eq_true_eq] at h
      obtain ⟨hr, h⟩ := h
      split at h
      · next pop push bs hq =>
        simp only [Bool.and_eq_true, decide_eq_true_eq] at h
        exact ⟨_, c, push, _, ⟨w, hr, pop, bs, _, hq, rfl, rfl⟩, h.1, h.2⟩
      · cases h

/-! ### Ways an instruction ends before its own effect -/

/-- A word that fails a decode check traps with every lane and TINFO 0, whatever its guards (03 R60). -/
theorem irlek_illegal {e : Enc} {f : Fields} {s : State} {c : Cur} {w : Warp} {body : Iss → State → Res} {ident : Word}
    {level : Bool} (h1 : s.cur = some c) (h2 : s.warp? c.wid = some w) (hs : w.sending = none)
    (h3 : Enc.legal w.width w.nw e f = false) :
    irlek e f s body ident level = .next (s.takeTrap c.wid .illegalField c.lanes c.lanes 0 c.pc) := by
  unfold irlek issueOne
  simp [h1, h2, hs, h3]

/-- An instruction of handler level outside it traps (18 R401). -/
theorem irlek_level {e : Enc} {f : Fields} {s : State} {c : Cur} {w : Warp} {body : Iss → State → Res} {ident : Word}
    (h1 : s.cur = some c) (h2 : s.warp? c.wid = some w) (hs : w.sending = none)
    (h3 : Enc.legal w.width w.nw e f = true) (h4 : w.handler = false) :
    irlek e f s body ident true = .next (s.takeTrap c.wid .level c.lanes c.lanes 0 c.pc) := by
  unfold irlek issueOne
  simp [h1, h2, hs, h3, h4]

/-- An instruction that must wait for a register or a fault stays (04 R78, 14 R325). -/
theorem irlek_interlocked {e : Enc} {f : Fields} {s : State} {c : Cur} {w : Warp} {body : Iss → State → Res} {ident : Word}
    {level : Bool} (h1 : s.cur = some c) (h2 : s.warp? c.wid = some w) (hs : w.sending = none)
    (h3 : Enc.legal w.width w.nw e f = true)
    (h4 : level = true → w.handler = true) (h5 : w.interlocked e f = true ∨ w.faultPcs.contains c.pc = true) :
    irlek e f s body ident level = .next s.wait := by
  have h4' : (level && !w.handler) = false := by cases level <;> simp_all
  have h5' : (w.interlocked e f || w.faultPcs.contains c.pc) = true := by simpa using h5
  unfold irlek issueOne
  simp only [h1, h2, hs, h3, h4', h5', Bool.not_true, Bool.false_eq_true, if_false, if_true]

/-- A read of an unmapped register in a strict warp traps (05 R109). -/
theorem irlek_strict {e : Enc} {f : Fields} {s : State} {c : Cur} {w : Warp} {body : Iss → State → Res} {ident : Word}
    {level : Bool} (h1 : s.cur = some c) (h2 : s.warp? c.wid = some w) (hs : w.sending = none)
    (h3 : Enc.legal w.width w.nw e f = true)
    (h4 : level = true → w.handler = true) (h5 : w.interlocked e f = false) (h6 : w.faultPcs.contains c.pc = false)
    (h7 : s.ringBinding c.wid w e f = none) (h8 : w.strict = true) (h9 : (vectorSources e f).any (fun n => !w.mapped n) = true) :
    irlek e f s body ident level = .next (s.takeTrap c.wid .regReleased c.lanes (activeLanes w f c.lanes)
      (BitVec.ofNat 64 ((activeLanes w f c.lanes).lowest.getD 0)) c.pc) := by
  have h4' : (level && !w.handler) = false := by cases level <;> simp_all
  unfold irlek issueOne
  simp only [h1, h2, hs, h3, h4', h5, h6, h7, h8, h9, Bool.not_true, Bool.or_self, Bool.false_eq_true, if_false, Bool.and_self,
    if_true]

/-- With no active lane an instruction has only the effects of R119. -/
theorem irlek_inactive {e : Enc} {f : Fields} {s : State} {c : Cur} {w : Warp} {body : Iss → State → Res} {ident : Word}
    {level : Bool} (h1 : s.cur = some c) (h2 : s.warp? c.wid = some w) (hs : w.sending = none)
    (h3 : Enc.legal w.width w.nw e f = true)
    (h4 : level = true → w.handler = true) (h5 : w.interlocked e f = false) (h6 : w.faultPcs.contains c.pc = false)
    (h7 : s.ringBinding c.wid w e f = none)
    (h8 : w.strict = true → (vectorSources e f).all w.mapped = true) (h9 : activeLanes w f c.lanes = 0) :
    irlek e f s body ident level = .next (zeroActive s e f c w ident) := by
  have h4' : (level && !w.handler) = false := by cases level <;> simp_all
  have h8' : (w.strict && (vectorSources e f).any fun n => !w.mapped n) = false := by
    cases hw : w.strict <;> simp_all
  unfold irlek issueOne
  simp only [h1, h2, hs, h3, h4', h5, h6, h7, h8', h9, Bool.not_true, Bool.or_self, Bool.false_eq_true, if_false, if_true]

/-- With its counter at 63 an instruction waits (10 R225). -/
theorem irlek_counterFull {e : Enc} {f : Fields} {s : State} {c : Cur} {w : Warp} {body : Iss → State → Res} {ident : Word}
    {level : Bool} {k : Nat} (h1 : s.cur = some c) (h2 : s.warp? c.wid = some w) (hs : w.sending = none)
    (h3 : Enc.legal w.width w.nw e f = true)
    (h4 : level = true → w.handler = true) (h5 : w.interlocked e f = false) (h6 : w.faultPcs.contains c.pc = false)
    (h7 : s.ringBinding c.wid w e f = none)
    (h8 : w.strict = true → (vectorSources e f).all w.mapped = true) (h9 : activeLanes w f c.lanes ≠ 0)
    (h10 : counterOf f = some k) (h11 : w.counter k = 63) :
    irlek e f s body ident level = .next s.wait := by
  have h4' : (level && !w.handler) = false := by cases level <;> simp_all
  have h8' : (w.strict && (vectorSources e f).any fun n => !w.mapped n) = false := by
    cases hw : w.strict <;> simp_all
  have h9' : ¬ activeLanes w f c.lanes = 0 := h9
  unfold irlek issueOne
  simp only [h1, h2, hs, h3, h4', h5, h6, h7, h8', h9', h10, h11, Bool.not_true, Bool.or_self, Bool.false_eq_true, if_false,
    Option.map_some, Option.getD_some, beq_self_eq_true, if_true]

end Sys2Proof.Laws
end

