-- ==== Sys2Proof/Laws/PerInstr.lean ====
section
/-! SUPPORT. For each instruction, the form of its encoding: how many bits, which opcode on top, and what well-formedness asks. -/
namespace Sys2Proof.Laws

/-- An Irlek instruction is 160 bits with its opcode, below 1,024, on top (03 Table 3.4); a Nibex instruction is 32 bits with its
op, below 32, on top (17 R381); an event has no bits. Well-formedness is the legality of its fields. -/
def Encodes.Statement (i : Instr) : Prop :=
  match i.enc with
  | some (e, f) => e.opcode < 1024 ∧ encode i = some (160, (encodeFields e.opcode f).toNat) ∧ i.wf = Enc.legal 64 16 e f
  | none =>
    match i.nibex with
    | some (op, f) => op < 32 ∧ encode i = some (32, (encodeNibex op f).toNat) ∧ i.wf = nibexOk op f
    | none => encode i = none ∧ i.wf = true

theorem Encodes.nop (f : Fields) : Encodes.Statement (.nop f) := ⟨by decide, rfl, rfl⟩
theorem Encodes.bra (f : Fields) : Encodes.Statement (.bra f) := ⟨by decide, rfl, rfl⟩
theorem Encodes.brc (f : Fields) : Encodes.Statement (.brc f) := ⟨by decide, rfl, rfl⟩
theorem Encodes.brwAny (f : Fields) : Encodes.Statement (.brwAny f) := ⟨by decide, rfl, rfl⟩
theorem Encodes.brwAll (f : Fields) : Encodes.Statement (.brwAll f) := ⟨by decide, rfl, rfl⟩
theorem Encodes.brwNone (f : Fields) : Encodes.Statement (.brwNone f) := ⟨by decide, rfl, rfl⟩
theorem Encodes.brwWz (f : Fields) : Encodes.Statement (.brwWz f) := ⟨by decide, rfl, rfl⟩
theorem Encodes.brwWnz (f : Fields) : Encodes.Statement (.brwWnz f) := ⟨by decide, rfl, rfl⟩
theorem Encodes.jmpi (f : Fields) : Encodes.Statement (.jmpi f) := ⟨by decide, rfl, rfl⟩
theorem Encodes.call (f : Fields) : Encodes.Statement (.call f) := ⟨by decide, rfl, rfl⟩
theorem Encodes.calli (f : Fields) : Encodes.Statement (.calli f) := ⟨by decide, rfl, rfl⟩
theorem Encodes.ret (f : Fields) : Encodes.Statement (.ret f) := ⟨by decide, rfl, rfl⟩
theorem Encodes.join (f : Fields) : Encodes.Statement (.join f) := ⟨by decide, rfl, rfl⟩
theorem Encodes.exit (f : Fields) : Encodes.Statement (.exit f) := ⟨by decide, rfl, rfl⟩
theorem Encodes.yield (f : Fields) : Encodes.Statement (.yield f) := ⟨by decide, rfl, rfl⟩
theorem Encodes.brk (f : Fields) : Encodes.Statement (.brk f) := ⟨by decide, rfl, rfl⟩
theorem Encodes.trap (f : Fields) : Encodes.Statement (.trap f) := ⟨by decide, rfl, rfl⟩
theorem Encodes.mov (f : Fields) : Encodes.Statement (.mov f) := ⟨by decide, rfl, rfl⟩
theorem Encodes.movw (f : Fields) : Encodes.Statement (.movw f) := ⟨by decide, rfl, rfl⟩
theorem Encodes.bcastw (f : Fields) : Encodes.Statement (.bcastw f) := ⟨by decide, rfl, rfl⟩
theorem Encodes.bcastwP (f : Fields) : Encodes.Statement (.bcastwP f) := ⟨by decide, rfl, rfl⟩
theorem Encodes.sel (f : Fields) : Encodes.Statement (.sel f) := ⟨by decide, rfl, rfl⟩
theorem Encodes.pand (f : Fields) : Encodes.Statement (.pand f) := ⟨by decide, rfl, rfl⟩
theorem Encodes.pandAn (f : Fields) : Encodes.Statement (.pandAn f) := ⟨by decide, rfl, rfl⟩
theorem Encodes.por (f : Fields) : Encodes.Statement (.por f) := ⟨by decide, rfl, rfl⟩
theorem Encodes.porOn (f : Fields) : Encodes.Statement (.porOn f) := ⟨by decide, rfl, rfl⟩
theorem Encodes.pxor (f : Fields) : Encodes.Statement (.pxor f) := ⟨by decide, rfl, rfl⟩
theorem Encodes.pnot (f : Fields) : Encodes.Statement (.pnot f) := ⟨by decide, rfl, rfl⟩
theorem Encodes.voteBallot (f : Fields) : Encodes.Statement (.voteBallot f) := ⟨by decide, rfl, rfl⟩
theorem Encodes.voteAny (f : Fields) : Encodes.Statement (.voteAny f) := ⟨by decide, rfl, rfl⟩
theorem Encodes.voteAll (f : Fields) : Encodes.Statement (.voteAll f) := ⟨by decide, rfl, rfl⟩
theorem Encodes.voteUni (f : Fields) : Encodes.Statement (.voteUni f) := ⟨by decide, rfl, rfl⟩
theorem Encodes.matchAny (f : Fields) : Encodes.Statement (.matchAny f) := ⟨by decide, rfl, rfl⟩
theorem Encodes.matchAll (f : Fields) : Encodes.Statement (.matchAll f) := ⟨by decide, rfl, rfl⟩
theorem Encodes.reduce (f : Fields) : Encodes.Statement (.reduce f) := ⟨by decide, rfl, rfl⟩
theorem Encodes.scan (f : Fields) : Encodes.Statement (.scan f) := ⟨by decide, rfl, rfl⟩
theorem Encodes.scanExclusive (f : Fields) : Encodes.Statement (.scanExclusive f) := ⟨by decide, rfl, rfl⟩
theorem Encodes.perm (f : Fields) : Encodes.Statement (.perm f) := ⟨by decide, rfl, rfl⟩
theorem Encodes.pack (f : Fields) : Encodes.Statement (.pack f) := ⟨by decide, rfl, rfl⟩
theorem Encodes.unpk (f : Fields) : Encodes.Statement (.unpk f) := ⟨by decide, rfl, rfl⟩
theorem Encodes.subx (f : Fields) : Encodes.Statement (.subx f) := ⟨by decide, rfl, rfl⟩
theorem Encodes.subxTwo (f : Fields) : Encodes.Statement (.subxTwo f) := ⟨by decide, rfl, rfl⟩
theorem Encodes.movs (f : Fields) : Encodes.Statement (.movs f) := ⟨by decide, rfl, rfl⟩
theorem Encodes.movsClr (f : Fields) : Encodes.Statement (.movsClr f) := ⟨by decide, rfl, rfl⟩
theorem Encodes.iadd (f : Fields) : Encodes.Statement (.iadd f) := ⟨by decide, rfl, rfl⟩
theorem Encodes.isub (f : Fields) : Encodes.Statement (.isub f) := ⟨by decide, rfl, rfl⟩
theorem Encodes.imul (f : Fields) : Encodes.Statement (.imul f) := ⟨by decide, rfl, rfl⟩
theorem Encodes.imad (f : Fields) : Encodes.Statement (.imad f) := ⟨by decide, rfl, rfl⟩
theorem Encodes.imulh (f : Fields) : Encodes.Statement (.imulh f) := ⟨by decide, rfl, rfl⟩
theorem Encodes.imulhSu (f : Fields) : Encodes.Statement (.imulhSu f) := ⟨by decide, rfl, rfl⟩
theorem Encodes.imadwLo (f : Fields) : Encodes.Statement (.imadwLo f) := ⟨by decide, rfl, rfl⟩
theorem Encodes.imadwHi (f : Fields) : Encodes.Statement (.imadwHi f) := ⟨by decide, rfl, rfl⟩
theorem Encodes.idiv (f : Fields) : Encodes.Statement (.idiv f) := ⟨by decide, rfl, rfl⟩
theorem Encodes.irem (f : Fields) : Encodes.Statement (.irem f) := ⟨by decide, rfl, rfl⟩
theorem Encodes.imin (f : Fields) : Encodes.Statement (.imin f) := ⟨by decide, rfl, rfl⟩
theorem Encodes.imax (f : Fields) : Encodes.Statement (.imax f) := ⟨by decide, rfl, rfl⟩
theorem Encodes.iabs (f : Fields) : Encodes.Statement (.iabs f) := ⟨by decide, rfl, rfl⟩
theorem Encodes.shl (f : Fields) : Encodes.Statement (.shl f) := ⟨by decide, rfl, rfl⟩
theorem Encodes.shr (f : Fields) : Encodes.Statement (.shr f) := ⟨by decide, rfl, rfl⟩
theorem Encodes.sar (f : Fields) : Encodes.Statement (.sar f) := ⟨by decide, rfl, rfl⟩
theorem Encodes.rotL (f : Fields) : Encodes.Statement (.rotL f) := ⟨by decide, rfl, rfl⟩
theorem Encodes.rotR (f : Fields) : Encodes.Statement (.rotR f) := ⟨by decide, rfl, rfl⟩
theorem Encodes.fshlL (f : Fields) : Encodes.Statement (.fshlL f) := ⟨by decide, rfl, rfl⟩
theorem Encodes.fshlR (f : Fields) : Encodes.Statement (.fshlR f) := ⟨by decide, rfl, rfl⟩
theorem Encodes.andB (f : Fields) : Encodes.Statement (.andB f) := ⟨by decide, rfl, rfl⟩
theorem Encodes.orB (f : Fields) : Encodes.Statement (.orB f) := ⟨by decide, rfl, rfl⟩
theorem Encodes.xor (f : Fields) : Encodes.Statement (.xor f) := ⟨by decide, rfl, rfl⟩
theorem Encodes.andn (f : Fields) : Encodes.Statement (.andn f) := ⟨by decide, rfl, rfl⟩
theorem Encodes.lop3 (f : Fields) : Encodes.Statement (.lop3 f) := ⟨by decide, rfl, rfl⟩
theorem Encodes.popc (f : Fields) : Encodes.Statement (.popc f) := ⟨by decide, rfl, rfl⟩
theorem Encodes.clz (f : Fields) : Encodes.Statement (.clz f) := ⟨by decide, rfl, rfl⟩
theorem Encodes.ctz (f : Fields) : Encodes.Statement (.ctz f) := ⟨by decide, rfl, rfl⟩
theorem Encodes.brev (f : Fields) : Encodes.Statement (.brev f) := ⟨by decide, rfl, rfl⟩
theorem Encodes.bfx (f : Fields) : Encodes.Statement (.bfx f) := ⟨by decide, rfl, rfl⟩
theorem Encodes.bfi (f : Fields) : Encodes.Statement (.bfi f) := ⟨by decide, rfl, rfl⟩
theorem Encodes.icmp (f : Fields) : Encodes.Statement (.icmp f) := ⟨by decide, rfl, rfl⟩
theorem Encodes.iaddcC (f : Fields) : Encodes.Statement (.iaddcC f) := ⟨by decide, rfl, rfl⟩
theorem Encodes.iaddcB (f : Fields) : Encodes.Statement (.iaddcB f) := ⟨by decide, rfl, rfl⟩
theorem Encodes.lea (f : Fields) : Encodes.Statement (.lea f) := ⟨by decide, rfl, rfl⟩
theorem Encodes.sad (f : Fields) : Encodes.Statement (.sad f) := ⟨by decide, rfl, rfl⟩
theorem Encodes.acsPm (f : Fields) : Encodes.Statement (.acsPm f) := ⟨by decide, rfl, rfl⟩
theorem Encodes.acsMp (f : Fields) : Encodes.Statement (.acsMp f) := ⟨by decide, rfl, rfl⟩
theorem Encodes.fadd (f : Fields) : Encodes.Statement (.fadd f) := ⟨by decide, rfl, rfl⟩
theorem Encodes.fsub (f : Fields) : Encodes.Statement (.fsub f) := ⟨by decide, rfl, rfl⟩
theorem Encodes.fmul (f : Fields) : Encodes.Statement (.fmul f) := ⟨by decide, rfl, rfl⟩
theorem Encodes.ffma (f : Fields) : Encodes.Statement (.ffma f) := ⟨by decide, rfl, rfl⟩
theorem Encodes.fmin (f : Fields) : Encodes.Statement (.fmin f) := ⟨by decide, rfl, rfl⟩
theorem Encodes.fmax (f : Fields) : Encodes.Statement (.fmax f) := ⟨by decide, rfl, rfl⟩
theorem Encodes.fcmp (f : Fields) : Encodes.Statement (.fcmp f) := ⟨by decide, rfl, rfl⟩
theorem Encodes.fclass (f : Fields) : Encodes.Statement (.fclass f) := ⟨by decide, rfl, rfl⟩
theorem Encodes.fclassTest (f : Fields) : Encodes.Statement (.fclassTest f) := ⟨by decide, rfl, rfl⟩
theorem Encodes.frnd (f : Fields) : Encodes.Statement (.frnd f) := ⟨by decide, rfl, rfl⟩
theorem Encodes.frndX (f : Fields) : Encodes.Statement (.frndX f) := ⟨by decide, rfl, rfl⟩
theorem Encodes.fcvt (f : Fields) : Encodes.Statement (.fcvt f) := ⟨by decide, rfl, rfl⟩
theorem Encodes.fscale (f : Fields) : Encodes.Statement (.fscale f) := ⟨by decide, rfl, rfl⟩
theorem Encodes.fdot2 (f : Fields) : Encodes.Statement (.fdot2 f) := ⟨by decide, rfl, rfl⟩
theorem Encodes.fdiv (f : Fields) : Encodes.Statement (.fdiv f) := ⟨by decide, rfl, rfl⟩
theorem Encodes.fsqrt (f : Fields) : Encodes.Statement (.fsqrt f) := ⟨by decide, rfl, rfl⟩
theorem Encodes.modesetAll (f : Fields) : Encodes.Statement (.modesetAll f) := ⟨by decide, rfl, rfl⟩
theorem Encodes.modesetRm (f : Fields) : Encodes.Statement (.modesetRm f) := ⟨by decide, rfl, rfl⟩
theorem Encodes.modesetFtz (f : Fields) : Encodes.Statement (.modesetFtz f) := ⟨by decide, rfl, rfl⟩
theorem Encodes.modesetFclr (f : Fields) : Encodes.Statement (.modesetFclr f) := ⟨by decide, rfl, rfl⟩
theorem Encodes.modeget (f : Fields) : Encodes.Statement (.modeget f) := ⟨by decide, rfl, rfl⟩
theorem Encodes.modegetClr (f : Fields) : Encodes.Statement (.modegetClr f) := ⟨by decide, rfl, rfl⟩
theorem Encodes.seed (f : Fields) : Encodes.Statement (.seed f) := ⟨by decide, rfl, rfl⟩
theorem Encodes.seedLane (f : Fields) : Encodes.Statement (.seedLane f) := ⟨by decide, rfl, rfl⟩
theorem Encodes.cmul (f : Fields) : Encodes.Statement (.cmul f) := ⟨by decide, rfl, rfl⟩
theorem Encodes.cfma (f : Fields) : Encodes.Statement (.cfma f) := ⟨by decide, rfl, rfl⟩
theorem Encodes.cmulj (f : Fields) : Encodes.Statement (.cmulj f) := ⟨by decide, rfl, rfl⟩
theorem Encodes.cconj (f : Fields) : Encodes.Statement (.cconj f) := ⟨by decide, rfl, rfl⟩
theorem Encodes.cabs2 (f : Fields) : Encodes.Statement (.cabs2 f) := ⟨by decide, rfl, rfl⟩
theorem Encodes.rcp (f : Fields) : Encodes.Statement (.rcp f) := ⟨by decide, rfl, rfl⟩
theorem Encodes.rsq (f : Fields) : Encodes.Statement (.rsq f) := ⟨by decide, rfl, rfl⟩
theorem Encodes.sqrta (f : Fields) : Encodes.Statement (.sqrta f) := ⟨by decide, rfl, rfl⟩
theorem Encodes.ex2 (f : Fields) : Encodes.Statement (.ex2 f) := ⟨by decide, rfl, rfl⟩
theorem Encodes.lg2 (f : Fields) : Encodes.Statement (.lg2 f) := ⟨by decide, rfl, rfl⟩
theorem Encodes.sinpi (f : Fields) : Encodes.Statement (.sinpi f) := ⟨by decide, rfl, rfl⟩
theorem Encodes.cospi (f : Fields) : Encodes.Statement (.cospi f) := ⟨by decide, rfl, rfl⟩
theorem Encodes.cispi (f : Fields) : Encodes.Statement (.cispi f) := ⟨by decide, rfl, rfl⟩
theorem Encodes.tanh (f : Fields) : Encodes.Statement (.tanh f) := ⟨by decide, rfl, rfl⟩
theorem Encodes.sigm (f : Fields) : Encodes.Statement (.sigm f) := ⟨by decide, rfl, rfl⟩
theorem Encodes.erf (f : Fields) : Encodes.Statement (.erf f) := ⟨by decide, rfl, rfl⟩
theorem Encodes.lds (f : Fields) : Encodes.Statement (.lds f) := ⟨by decide, rfl, rfl⟩
theorem Encodes.sts (f : Fields) : Encodes.Statement (.sts f) := ⟨by decide, rfl, rfl⟩
theorem Encodes.copy (f : Fields) : Encodes.Statement (.copy f) := ⟨by decide, rfl, rfl⟩
theorem Encodes.copyout (f : Fields) : Encodes.Statement (.copyout f) := ⟨by decide, rfl, rfl⟩
theorem Encodes.spclr (f : Fields) : Encodes.Statement (.spclr f) := ⟨by decide, rfl, rfl⟩
theorem Encodes.spmap (f : Fields) : Encodes.Statement (.spmap f) := ⟨by decide, rfl, rfl⟩
theorem Encodes.spunmap (f : Fields) : Encodes.Statement (.spunmap f) := ⟨by decide, rfl, rfl⟩
theorem Encodes.spwb (f : Fields) : Encodes.Statement (.spwb f) := ⟨by decide, rfl, rfl⟩
theorem Encodes.qbindPop (f : Fields) : Encodes.Statement (.qbindPop f) := ⟨by decide, rfl, rfl⟩
theorem Encodes.qbindPush (f : Fields) : Encodes.Statement (.qbindPush f) := ⟨by decide, rfl, rfl⟩
theorem Encodes.qunbind (f : Fields) : Encodes.Statement (.qunbind f) := ⟨by decide, rfl, rfl⟩
theorem Encodes.qinit (f : Fields) : Encodes.Statement (.qinit f) := ⟨by decide, rfl, rfl⟩
theorem Encodes.qinitDrop (f : Fields) : Encodes.Statement (.qinitDrop f) := ⟨by decide, rfl, rfl⟩
theorem Encodes.qtry (f : Fields) : Encodes.Statement (.qtry f) := ⟨by decide, rfl, rfl⟩
theorem Encodes.qpeek (f : Fields) : Encodes.Statement (.qpeek f) := ⟨by decide, rfl, rfl⟩
theorem Encodes.qlen (f : Fields) : Encodes.Statement (.qlen f) := ⟨by decide, rfl, rfl⟩
theorem Encodes.qclose (f : Fields) : Encodes.Statement (.qclose f) := ⟨by decide, rfl, rfl⟩
theorem Encodes.dqset (f : Fields) : Encodes.Statement (.dqset f) := ⟨by decide, rfl, rfl⟩
theorem Encodes.dqsetClr (f : Fields) : Encodes.Statement (.dqsetClr f) := ⟨by decide, rfl, rfl⟩
theorem Encodes.spawn (f : Fields) : Encodes.Statement (.spawn f) := ⟨by decide, rfl, rfl⟩
theorem Encodes.poptask (f : Fields) : Encodes.Statement (.poptask f) := ⟨by decide, rfl, rfl⟩
theorem Encodes.stealAny (f : Fields) : Encodes.Statement (.stealAny f) := ⟨by decide, rfl, rfl⟩
theorem Encodes.stealAt (f : Fields) : Encodes.Statement (.stealAt f) := ⟨by decide, rfl, rfl⟩
theorem Encodes.taskdone (f : Fields) : Encodes.Statement (.taskdone f) := ⟨by decide, rfl, rfl⟩
theorem Encodes.phasebegin (f : Fields) : Encodes.Statement (.phasebegin f) := ⟨by decide, rfl, rfl⟩
theorem Encodes.phasewait (f : Fields) : Encodes.Statement (.phasewait f) := ⟨by decide, rfl, rfl⟩
theorem Encodes.phasewaitTry (f : Fields) : Encodes.Statement (.phasewaitTry f) := ⟨by decide, rfl, rfl⟩
theorem Encodes.waitle (f : Fields) : Encodes.Statement (.waitle f) := ⟨by decide, rfl, rfl⟩
theorem Encodes.barinit (f : Fields) : Encodes.Statement (.barinit f) := ⟨by decide, rfl, rfl⟩
theorem Encodes.bararr (f : Fields) : Encodes.Statement (.bararr f) := ⟨by decide, rfl, rfl⟩
theorem Encodes.barwait (f : Fields) : Encodes.Statement (.barwait f) := ⟨by decide, rfl, rfl⟩
theorem Encodes.barsync (f : Fields) : Encodes.Statement (.barsync f) := ⟨by decide, rfl, rfl⟩
theorem Encodes.tbarSync (f : Fields) : Encodes.Statement (.tbarSync f) := ⟨by decide, rfl, rfl⟩
theorem Encodes.tbarArr (f : Fields) : Encodes.Statement (.tbarArr f) := ⟨by decide, rfl, rfl⟩
theorem Encodes.tbarWait (f : Fields) : Encodes.Statement (.tbarWait f) := ⟨by decide, rfl, rfl⟩
theorem Encodes.gang (f : Fields) : Encodes.Statement (.gang f) := ⟨by decide, rfl, rfl⟩
theorem Encodes.arel (f : Fields) : Encodes.Statement (.arel f) := ⟨by decide, rfl, rfl⟩
theorem Encodes.tdesc (f : Fields) : Encodes.Statement (.tdesc f) := ⟨by decide, rfl, rfl⟩
theorem Encodes.mma (f : Fields) : Encodes.Statement (.mma f) := ⟨by decide, rfl, rfl⟩
theorem Encodes.mmas (f : Fields) : Encodes.Statement (.mmas f) := ⟨by decide, rfl, rfl⟩
theorem Encodes.aclr (f : Fields) : Encodes.Statement (.aclr f) := ⟨by decide, rfl, rfl⟩
theorem Encodes.amovCopy (f : Fields) : Encodes.Statement (.amovCopy f) := ⟨by decide, rfl, rfl⟩
theorem Encodes.amovTr (f : Fields) : Encodes.Statement (.amovTr f) := ⟨by decide, rfl, rfl⟩
theorem Encodes.amovGet (f : Fields) : Encodes.Statement (.amovGet f) := ⟨by decide, rfl, rfl⟩
theorem Encodes.amovPut (f : Fields) : Encodes.Statement (.amovPut f) := ⟨by decide, rfl, rfl⟩
theorem Encodes.ald (f : Fields) : Encodes.Statement (.ald f) := ⟨by decide, rfl, rfl⟩
theorem Encodes.ast (f : Fields) : Encodes.Statement (.ast f) := ⟨by decide, rfl, rfl⟩
theorem Encodes.ared (f : Fields) : Encodes.Statement (.ared f) := ⟨by decide, rfl, rfl⟩
theorem Encodes.aepi (f : Fields) : Encodes.Statement (.aepi f) := ⟨by decide, rfl, rfl⟩
theorem Encodes.ld (f : Fields) : Encodes.Statement (.ld f) := ⟨by decide, rfl, rfl⟩
theorem Encodes.st (f : Fields) : Encodes.Statement (.st f) := ⟨by decide, rfl, rfl⟩
theorem Encodes.ldx (f : Fields) : Encodes.Statement (.ldx f) := ⟨by decide, rfl, rfl⟩
theorem Encodes.stx (f : Fields) : Encodes.Statement (.stx f) := ⟨by decide, rfl, rfl⟩
theorem Encodes.prefL2 (f : Fields) : Encodes.Statement (.prefL2 f) := ⟨by decide, rfl, rfl⟩
theorem Encodes.prefMsc (f : Fields) : Encodes.Statement (.prefMsc f) := ⟨by decide, rfl, rfl⟩
theorem Encodes.prefCore (f : Fields) : Encodes.Statement (.prefCore f) := ⟨by decide, rfl, rfl⟩
theorem Encodes.atom (f : Fields) : Encodes.Statement (.atom f) := ⟨by decide, rfl, rfl⟩
theorem Encodes.atomrCas (f : Fields) : Encodes.Statement (.atomrCas f) := ⟨by decide, rfl, rfl⟩
theorem Encodes.atomrSwap (f : Fields) : Encodes.Statement (.atomrSwap f) := ⟨by decide, rfl, rfl⟩
theorem Encodes.red (f : Fields) : Encodes.Statement (.red f) := ⟨by decide, rfl, rfl⟩
theorem Encodes.redfAdd (f : Fields) : Encodes.Statement (.redfAdd f) := ⟨by decide, rfl, rfl⟩
theorem Encodes.redfFlush (f : Fields) : Encodes.Statement (.redfFlush f) := ⟨by decide, rfl, rfl⟩
theorem Encodes.bulkCopy (f : Fields) : Encodes.Statement (.bulkCopy f) := ⟨by decide, rfl, rfl⟩
theorem Encodes.bulkFill (f : Fields) : Encodes.Statement (.bulkFill f) := ⟨by decide, rfl, rfl⟩
theorem Encodes.esyncBoth (f : Fields) : Encodes.Statement (.esyncBoth f) := ⟨by decide, rfl, rfl⟩
theorem Encodes.esyncIn (f : Fields) : Encodes.Statement (.esyncIn f) := ⟨by decide, rfl, rfl⟩
theorem Encodes.esyncOut (f : Fields) : Encodes.Statement (.esyncOut f) := ⟨by decide, rfl, rfl⟩
theorem Encodes.probeR (f : Fields) : Encodes.Statement (.probeR f) := ⟨by decide, rfl, rfl⟩
theorem Encodes.probeW (f : Fields) : Encodes.Statement (.probeW f) := ⟨by decide, rfl, rfl⟩
theorem Encodes.probeX (f : Fields) : Encodes.Statement (.probeX f) := ⟨by decide, rfl, rfl⟩
theorem Encodes.asbind (f : Fields) : Encodes.Statement (.asbind f) := ⟨by decide, rfl, rfl⟩
theorem Encodes.asbindClose (f : Fields) : Encodes.Statement (.asbindClose f) := ⟨by decide, rfl, rfl⟩
theorem Encodes.asbindClr (f : Fields) : Encodes.Statement (.asbindClr f) := ⟨by decide, rfl, rfl⟩
theorem Encodes.trace (f : Fields) : Encodes.Statement (.trace f) := ⟨by decide, rfl, rfl⟩
theorem Encodes.tracew (f : Fields) : Encodes.Statement (.tracew f) := ⟨by decide, rfl, rfl⟩
theorem Encodes.hitacc (f : Fields) : Encodes.Statement (.hitacc f) := ⟨by decide, rfl, rfl⟩
theorem Encodes.hitaccEnd (f : Fields) : Encodes.Statement (.hitaccEnd f) := ⟨by decide, rfl, rfl⟩
theorem Encodes.hitign (f : Fields) : Encodes.Statement (.hitign f) := ⟨by decide, rfl, rfl⟩
theorem Encodes.rayspawn (f : Fields) : Encodes.Statement (.rayspawn f) := ⟨by decide, rfl, rfl⟩
theorem Encodes.rayterm (f : Fields) : Encodes.Statement (.rayterm f) := ⟨by decide, rfl, rfl⟩
theorem Encodes.rload (f : Fields) : Encodes.Statement (.rload f) := ⟨by decide, rfl, rfl⟩
theorem Encodes.rloadSlot (f : Fields) : Encodes.Statement (.rloadSlot f) := ⟨by decide, rfl, rfl⟩
theorem Encodes.clemit (f : Fields) : Encodes.Statement (.clemit f) := ⟨by decide, rfl, rfl⟩
theorem Encodes.build (f : Fields) : Encodes.Statement (.build f) := ⟨by decide, rfl, rfl⟩
theorem Encodes.refit (f : Fields) : Encodes.Statement (.refit f) := ⟨by decide, rfl, rfl⟩
theorem Encodes.refitInplace (f : Fields) : Encodes.Statement (.refitInplace f) := ⟨by decide, rfl, rfl⟩
theorem Encodes.compact (f : Fields) : Encodes.Statement (.compact f) := ⟨by decide, rfl, rfl⟩
theorem Encodes.sfwait (f : Fields) : Encodes.Statement (.sfwait f) := ⟨by decide, rfl, rfl⟩
theorem Encodes.sfwaitTry (f : Fields) : Encodes.Statement (.sfwaitTry f) := ⟨by decide, rfl, rfl⟩
theorem Encodes.genadv (f : Fields) : Encodes.Statement (.genadv f) := ⟨by decide, rfl, rfl⟩
theorem Encodes.launch (f : Fields) : Encodes.Statement (.launch f) := ⟨by decide, rfl, rfl⟩
theorem Encodes.notify (f : Fields) : Encodes.Statement (.notify f) := ⟨by decide, rfl, rfl⟩
theorem Encodes.hret (f : Fields) : Encodes.Statement (.hret f) := ⟨by decide, rfl, rfl⟩
theorem Encodes.srd (f : Fields) : Encodes.Statement (.srd f) := ⟨by decide, rfl, rfl⟩
theorem Encodes.swr (f : Fields) : Encodes.Statement (.swr f) := ⟨by decide, rfl, rfl⟩
theorem Encodes.swrT (f : Fields) : Encodes.Statement (.swrT f) := ⟨by decide, rfl, rfl⟩
theorem Encodes.clockCyc (f : Fields) : Encodes.Statement (.clockCyc f) := ⟨by decide, rfl, rfl⟩
theorem Encodes.clockNs (f : Fields) : Encodes.Statement (.clockNs f) := ⟨by decide, rfl, rfl⟩

theorem Encodes.nxHalt (f : NibexFields) : Encodes.Statement (.nxHalt f) := ⟨by decide, rfl, rfl⟩
theorem Encodes.nxLdc (f : NibexFields) : Encodes.Statement (.nxLdc f) := ⟨by decide, rfl, rfl⟩
theorem Encodes.nxLdi (f : NibexFields) : Encodes.Statement (.nxLdi f) := ⟨by decide, rfl, rfl⟩
theorem Encodes.nxAddi (f : NibexFields) : Encodes.Statement (.nxAddi f) := ⟨by decide, rfl, rfl⟩
theorem Encodes.nxAdd (f : NibexFields) : Encodes.Statement (.nxAdd f) := ⟨by decide, rfl, rfl⟩
theorem Encodes.nxAnd (f : NibexFields) : Encodes.Statement (.nxAnd f) := ⟨by decide, rfl, rfl⟩
theorem Encodes.nxShr (f : NibexFields) : Encodes.Statement (.nxShr f) := ⟨by decide, rfl, rfl⟩
theorem Encodes.nxShl (f : NibexFields) : Encodes.Statement (.nxShl f) := ⟨by decide, rfl, rfl⟩
theorem Encodes.nxLdm (f : NibexFields) : Encodes.Statement (.nxLdm f) := ⟨by decide, rfl, rfl⟩
theorem Encodes.nxStm (f : NibexFields) : Encodes.Statement (.nxStm f) := ⟨by decide, rfl, rfl⟩
theorem Encodes.nxBeq (f : NibexFields) : Encodes.Statement (.nxBeq f) := ⟨by decide, rfl, rfl⟩
theorem Encodes.nxBne (f : NibexFields) : Encodes.Statement (.nxBne f) := ⟨by decide, rfl, rfl⟩
theorem Encodes.nxBltu (f : NibexFields) : Encodes.Statement (.nxBltu f) := ⟨by decide, rfl, rfl⟩
theorem Encodes.nxDjnz (f : NibexFields) : Encodes.Statement (.nxDjnz f) := ⟨by decide, rfl, rfl⟩
theorem Encodes.nxNlaunch (f : NibexFields) : Encodes.Statement (.nxNlaunch f) := ⟨by decide, rfl, rfl⟩
theorem Encodes.nxNcopy (f : NibexFields) : Encodes.Statement (.nxNcopy f) := ⟨by decide, rfl, rfl⟩
theorem Encodes.nxNbuild (f : NibexFields) : Encodes.Statement (.nxNbuild f) := ⟨by decide, rfl, rfl⟩
theorem Encodes.nxNwait (f : NibexFields) : Encodes.Statement (.nxNwait f) := ⟨by decide, rfl, rfl⟩
theorem Encodes.nxNdone (f : NibexFields) : Encodes.Statement (.nxNdone f) := ⟨by decide, rfl, rfl⟩

theorem Encodes.teamBarrierRelease : Encodes.Statement .teamBarrierRelease := ⟨rfl, rfl⟩
theorem Encodes.gangGrant : Encodes.Statement .gangGrant := ⟨rfl, rfl⟩
theorem Encodes.tileReturn : Encodes.Statement .tileReturn := ⟨rfl, rfl⟩
theorem Encodes.mxeEntryStart : Encodes.Statement .mxeEntryStart := ⟨rfl, rfl⟩
theorem Encodes.mxeRetire : Encodes.Statement .mxeRetire := ⟨rfl, rfl⟩
theorem Encodes.slotWaitResume : Encodes.Statement .slotWaitResume := ⟨rfl, rfl⟩
theorem Encodes.headerWaitPass : Encodes.Statement .headerWaitPass := ⟨rfl, rfl⟩
theorem Encodes.sluiceAdmit : Encodes.Statement .sluiceAdmit := ⟨rfl, rfl⟩
theorem Encodes.sluiceRefill : Encodes.Statement .sluiceRefill := ⟨rfl, rfl⟩
theorem Encodes.joinRelease : Encodes.Statement .joinRelease := ⟨rfl, rfl⟩
theorem Encodes.warpDrainEnd : Encodes.Statement .warpDrainEnd := ⟨rfl, rfl⟩
theorem Encodes.teamPlacement : Encodes.Statement .teamPlacement := ⟨rfl, rfl⟩
theorem Encodes.dictionaryLoad : Encodes.Statement .dictionaryLoad := ⟨rfl, rfl⟩
theorem Encodes.allotmentClear : Encodes.Statement .allotmentClear := ⟨rfl, rfl⟩
theorem Encodes.allotmentFree : Encodes.Statement .allotmentFree := ⟨rfl, rfl⟩
theorem Encodes.lineDataArrival : Encodes.Statement .lineDataArrival := ⟨rfl, rfl⟩
theorem Encodes.copyEngineComplete : Encodes.Statement .copyEngineComplete := ⟨rfl, rfl⟩
theorem Encodes.rayPop : Encodes.Statement .rayPop := ⟨rfl, rfl⟩
theorem Encodes.nodeVisit : Encodes.Statement .nodeVisit := ⟨rfl, rfl⟩
theorem Encodes.fencePass : Encodes.Statement .fencePass := ⟨rfl, rfl⟩
theorem Encodes.leafTest : Encodes.Statement .leafTest := ⟨rfl, rfl⟩
theorem Encodes.builderCommandStart : Encodes.Statement .builderCommandStart := ⟨rfl, rfl⟩
theorem Encodes.builderWritePhase : Encodes.Statement .builderWritePhase := ⟨rfl, rfl⟩
theorem Encodes.builderComplete : Encodes.Statement .builderComplete := ⟨rfl, rfl⟩
theorem Encodes.leaseRenewal : Encodes.Statement .leaseRenewal := ⟨rfl, rfl⟩
theorem Encodes.l2Evict : Encodes.Statement .l2Evict := ⟨rfl, rfl⟩
theorem Encodes.l2Fill : Encodes.Statement .l2Fill := ⟨rfl, rfl⟩
theorem Encodes.ptsAdvance : Encodes.Statement .ptsAdvance := ⟨rfl, rfl⟩
theorem Encodes.timestampOverflow : Encodes.Statement .timestampOverflow := ⟨rfl, rfl⟩
theorem Encodes.peerLinkRead : Encodes.Statement .peerLinkRead := ⟨rfl, rfl⟩
theorem Encodes.peerLinkWrite : Encodes.Statement .peerLinkWrite := ⟨rfl, rfl⟩
theorem Encodes.correctedError : Encodes.Statement .correctedError := ⟨rfl, rfl⟩
theorem Encodes.memUncorrect : Encodes.Statement .memUncorrect := ⟨rfl, rfl⟩
theorem Encodes.unconsumedError : Encodes.Statement .unconsumedError := ⟨rfl, rfl⟩
theorem Encodes.tlbMissWalk : Encodes.Statement .tlbMissWalk := ⟨rfl, rfl⟩
theorem Encodes.walkComplete : Encodes.Statement .walkComplete := ⟨rfl, rfl⟩
theorem Encodes.faultReplay : Encodes.Statement .faultReplay := ⟨rfl, rfl⟩
theorem Encodes.faultFail : Encodes.Statement .faultFail := ⟨rfl, rfl⟩
theorem Encodes.supervisorContinue : Encodes.Statement .supervisorContinue := ⟨rfl, rfl⟩
theorem Encodes.supervisorHalt : Encodes.Statement .supervisorHalt := ⟨rfl, rfl⟩
theorem Encodes.haltSaveComplete : Encodes.Statement .haltSaveComplete := ⟨rfl, rfl⟩
theorem Encodes.evictionRequest : Encodes.Statement .evictionRequest := ⟨rfl, rfl⟩
theorem Encodes.victimSave : Encodes.Statement .victimSave := ⟨rfl, rfl⟩
theorem Encodes.evictionReleaseTimeout : Encodes.Statement .evictionReleaseTimeout := ⟨rfl, rfl⟩
theorem Encodes.warpResume : Encodes.Statement .warpResume := ⟨rfl, rfl⟩
theorem Encodes.feuSlotExamine : Encodes.Statement .feuSlotExamine := ⟨rfl, rfl⟩
theorem Encodes.queueRestart : Encodes.Statement .queueRestart := ⟨rfl, rfl⟩
theorem Encodes.ndoneStore : Encodes.Statement .ndoneStore := ⟨rfl, rfl⟩
theorem Encodes.nxStepBudget : Encodes.Statement .nxStepBudget := ⟨rfl, rfl⟩
theorem Encodes.dispatchStarvation : Encodes.Statement .dispatchStarvation := ⟨rfl, rfl⟩
theorem Encodes.issueClassBoost : Encodes.Statement .issueClassBoost := ⟨rfl, rfl⟩
theorem Encodes.ticket : Encodes.Statement .ticket := ⟨rfl, rfl⟩
theorem Encodes.notifyRecord : Encodes.Statement .notifyRecord := ⟨rfl, rfl⟩
theorem Encodes.mbxClaim : Encodes.Statement .mbxClaim := ⟨rfl, rfl⟩
theorem Encodes.mbxSubmit : Encodes.Statement .mbxSubmit := ⟨rfl, rfl⟩
theorem Encodes.mbxNext : Encodes.Statement .mbxNext := ⟨rfl, rfl⟩
theorem Encodes.mbxRelease : Encodes.Statement .mbxRelease := ⟨rfl, rfl⟩
theorem Encodes.claimLapse : Encodes.Statement .claimLapse := ⟨rfl, rfl⟩
theorem Encodes.reqCreate : Encodes.Statement .reqCreate := ⟨rfl, rfl⟩
theorem Encodes.reqMap : Encodes.Statement .reqMap := ⟨rfl, rfl⟩
theorem Encodes.reqUnmap : Encodes.Statement .reqUnmap := ⟨rfl, rfl⟩
theorem Encodes.reqQueueCreate : Encodes.Statement .reqQueueCreate := ⟨rfl, rfl⟩
theorem Encodes.reqQueueDestroy : Encodes.Statement .reqQueueDestroy := ⟨rfl, rfl⟩
theorem Encodes.reqHalt : Encodes.Statement .reqHalt := ⟨rfl, rfl⟩
theorem Encodes.reqResume : Encodes.Statement .reqResume := ⟨rfl, rfl⟩
theorem Encodes.reqAttest : Encodes.Statement .reqAttest := ⟨rfl, rfl⟩
theorem Encodes.reqDestroy : Encodes.Statement .reqDestroy := ⟨rfl, rfl⟩
theorem Encodes.registerSpaceError : Encodes.Statement .registerSpaceError := ⟨rfl, rfl⟩
theorem Encodes.registerWrite : Encodes.Statement .registerWrite := ⟨rfl, rfl⟩
theorem Encodes.setPointer : Encodes.Statement .setPointer := ⟨rfl, rfl⟩
theorem Encodes.privateRead : Encodes.Statement .privateRead := ⟨rfl, rfl⟩
theorem Encodes.entdaa : Encodes.Statement .entdaa := ⟨rfl, rfl⟩
theorem Encodes.powerLimitWrite : Encodes.Statement .powerLimitWrite := ⟨rfl, rfl⟩
theorem Encodes.eventFlagsClear : Encodes.Statement .eventFlagsClear := ⟨rfl, rfl⟩
theorem Encodes.moduleReset : Encodes.Statement .moduleReset := ⟨rfl, rfl⟩
theorem Encodes.powerThrottleStep : Encodes.Statement .powerThrottleStep := ⟨rfl, rfl⟩
theorem Encodes.clockRaiseStep : Encodes.Statement .clockRaiseStep := ⟨rfl, rfl⟩
theorem Encodes.thermalThrottleStep : Encodes.Statement .thermalThrottleStep := ⟨rfl, rfl⟩
theorem Encodes.thermalTrip : Encodes.Statement .thermalTrip := ⟨rfl, rfl⟩
theorem Encodes.powerOnBoot : Encodes.Statement .powerOnBoot := ⟨rfl, rfl⟩
theorem Encodes.ptpSteer : Encodes.Statement .ptpSteer := ⟨rfl, rfl⟩
theorem Encodes.ptpFirstLock : Encodes.Statement .ptpFirstLock := ⟨rfl, rfl⟩
theorem Encodes.complexFailed : Encodes.Statement .complexFailed := ⟨rfl, rfl⟩
theorem Encodes.fatalDump : Encodes.Statement .fatalDump := ⟨rfl, rfl⟩
theorem Encodes.linkPortFailure : Encodes.Statement .linkPortFailure := ⟨rfl, rfl⟩
theorem Encodes.packageRemoval : Encodes.Statement .packageRemoval := ⟨rfl, rfl⟩
theorem Encodes.heartbeat : Encodes.Statement .heartbeat := ⟨rfl, rfl⟩
theorem Encodes.mscEviction : Encodes.Statement .mscEviction := ⟨rfl, rfl⟩
theorem Encodes.pathReturns : Encodes.Statement .pathReturns := ⟨rfl, rfl⟩

end Sys2Proof.Laws
end

