-- ==== Sys2Proof/Laws/Whole.lean ====
section
/-! SUPPORT. What an instruction's end leaves in its warp, and how every Irlek instruction issues. -/
namespace Sys2Proof.Laws
open Sys2Proof.Machine Sys2Proof.Safety
set_option maxRecDepth 4000

/-- Every Irlek instruction runs the shared issue with a body of its own, the identity of its operation, and its level. -/
theorem exec_irlek {i : Instr} {e : Enc} {f : Fields} (h : i.enc = some (e, f)) :
    ∃ body, ∀ s, exec i s = irlek e f s body (identityOf i) (needsHandler i) := by
  cases i <;> first
    | exact ⟨_, fun s => by cases h; rfl⟩
    | exact nomatch h

/-- A map that lists no default value, after a write. -/
theorem getD_put {α : Type} (m : AMap α) (n : Nat) (x d : α) (p : Prop) [Decidable p] (hp : p → x = d) (k : Nat) :
    AMap.getD (if p then AMap.erase m n else AMap.set m n x) k d = if k = n then x else AMap.getD m k d := by
  unfold AMap.getD
  by_cases hk : k = n
  · subst hk
    by_cases h : p
    · simp [h, AMap.get_erase_self, hp h]
    · simp [h, AMap.get_set_self]
  · by_cases h : p
    · simp [h, hk, AMap.get_erase_ne _ hk]
    · simp [h, hk, AMap.get_set_ne _ _ hk]

/-- A uniform register after a write. -/
theorem wreg_setW (w : Warp) (n : Nat) (x : Word) (k : Nat) : (w.setW n x).wreg k = if k = n then x else w.wreg k :=
  getD_put w.w n x 0 (x = 0) id k

/-- A lane of a predicate after a write of some lanes. -/
theorem preg_setP (w : Warp) (n : Nat) (m x : Mask) (k l : Nat) :
    ((w.setP n m x).preg k).has l = if k = n ∧ n ≠ 15 ∧ m.has l = true then x.has l else (w.preg k).has l := by
  unfold Warp.setP
  by_cases hn : n = 15
  · simp [hn]
  · rw [if_neg hn]
    by_cases hk : k = 15
    · rw [if_neg (by omega)]
      simp [Warp.preg, hk]
    · have e : ({ w with p := if w.preg n &&& ~~~m ||| x &&& m = 0 then AMap.erase w.p n
            else AMap.set w.p n (w.preg n &&& ~~~m ||| x &&& m) } : Warp).preg k
          = if k = n then w.preg n &&& ~~~m ||| x &&& m else AMap.getD w.p k 0 :=
        (if_neg hk).trans (getD_put _ _ _ _ _ id _)
      have e' : w.preg k = AMap.getD w.p k 0 := if_neg hk
      rw [e, e']
      by_cases hkn : k = n
      · subst hkn
        simp only [if_true, true_and, ne_eq, hn, not_false_iff, Mask.has, BitVec.getLsbD_or, BitVec.getLsbD_and,
          BitVec.getLsbD_not, ← e']
        by_cases hl : l < 64
        · cases h : BitVec.getLsbD m l <;> simp [hl]
        · simp [BitVec.getLsbD_of_ge _ _ (by omega : 64 ≤ l)]
      · simp [hkn]

/-- Moving lanes to a header changes lanes and reservations alone. -/
theorem goHeader_eq (w : Warp) (m : Mask) (a : Word) (way : Way) :
    w.goHeader m a way = { w with lanes := (w.goHeader m a way).lanes, res := (w.goHeader m a way).res } := rfl

/-- Going on changes lanes and reservations alone. -/
theorem advance_eq (w : Warp) (c : Cur) (m : Mask) :
    w.advance c m = { w with lanes := (w.advance c m).lanes, res := (w.advance c m).res } := by
  unfold Warp.advance
  dsimp only
  split <;> rfl

/-- Queue pushes change no warp. -/
theorem pushes_warps (s : State) (push : Option (Nat × Nat)) (t : Nat) (ws : List Wr) :
    (s.pushes push t ws).warps = s.warps := by
  unfold State.pushes
  cases push with
  | none => rfl
  | some p =>
    obtain ⟨al, line⟩ := p
    dsimp only
    induction ws generalizing s with
    | nil => rfl
    | cons x ws ih => rw [List.foldl_cons, ih]; cases x <;> rfl

/-- What the end of an instruction leaves in its warp: marks, then writes, then the move. -/
theorem finish_warp {s : State} {e : Enc} {f : Fields} {c : Cur} {push} {ws : List Wr} {mv : Warp → Warp} {w : Warp}
    (h : s.warp? c.wid = some w) :
    (s.finish e f c push ws mv).warp? c.wid = some (mv ((w.marked e f c).written c ws)) := by
  unfold State.finish
  simp only [h]
  unfold State.warp?
  rw [pushes_warps]
  exact AMap.get_set_self ..

/-- Last-use marks change the vector registers alone. -/
theorem marked_eq (w : Warp) (e f c) : w.marked e f c = { w with v := (w.marked e f c).v } := by
  unfold Warp.marked Warp.applyMarks; split <;> rfl

/-- Writes of places keep a list's length. -/
theorem length_foldl_set {α : Type} (xs : List (Nat × α)) (ls : List α) :
    (xs.foldl (fun ls (l, x) => ls.set l x) ls).length = ls.length := by
  induction xs generalizing ls with
  | nil => rfl
  | cons a xs ih => rw [List.foldl_cons, ih]; simp

/-- Lanes written at distinct places. -/
theorem getElem?_foldl_set {α : Type} (p : List Nat) (v : Nat → α) (ls : List α) (l : Nat) :
    ((p.map fun l => (l, v l)).foldl (fun ls (l, x) => ls.set l x) ls)[l]?
      = if l ∈ p ∧ l < ls.length then some (v l) else ls[l]? := by
  induction p generalizing ls with
  | nil => simp
  | cons a p ih =>
    simp only [List.map_cons, List.foldl_cons, ih, List.length_set, List.mem_cons, List.getElem?_set]
    by_cases h : l < ls.length
    · by_cases h1 : l ∈ p
      · simp [h, h1]
      · by_cases h2 : a = l
        · subst h2; simp [h, h1]
        · simp [h1, h2, Ne.symm h2]
    · simp [h]
      intro h2; omega

/-- The lanes of a mask. -/
theorem mem_lanes (m : Mask) (l : Nat) : l ∈ m.lanes ↔ m.has l = true := by
  unfold Mask.lanes
  simp only [List.mem_filter, List.mem_range, and_iff_right_iff_imp]
  intro h
  exact Decidable.byContradiction fun h2 => by
    unfold Mask.has at h
    rw [BitVec.getLsbD_of_ge _ _ (by omega)] at h
    cases h

/-- Marking releases changes no lane. -/
theorem get_foldl_modify (ms : List Nat) (v : AMap VReg) (k : Nat) (r : VReg)
    (h : AMap.get (ms.foldl (fun v n => AMap.modify v n fun r => { r with pending := true }) v) k = some r) :
    ∃ r0, AMap.get v k = some r0 ∧ r.lanes = r0.lanes := by
  induction ms generalizing v with
  | nil => exact ⟨r, h, rfl⟩
  | cons a ms ih =>
    rw [List.foldl_cons] at h
    obtain ⟨r0, h0, h1⟩ := ih _ h
    rw [AMap.get_modify] at h0
    split at h0
    · next e =>
      subst e
      cases hv : AMap.get v k with
      | none => simp [hv] at h0
      | some y => simp [hv] at h0; subst h0; exact ⟨y, rfl, h1⟩
    · exact ⟨r0, h0, h1⟩

/-- What is left after releases stood before. -/
theorem get_foldl_erase (ms : List Nat) (v : AMap VReg) (k : Nat) (r : VReg)
    (h : AMap.get (ms.foldl (fun v n => AMap.erase v n) v) k = some r) : AMap.get v k = some r := by
  induction ms generalizing v with
  | nil => exact h
  | cons a ms ih =>
    have := ih _ h
    by_cases e : k = a
    · subst e; rw [AMap.get_erase_self] at this; cases this
    · rwa [AMap.get_erase_ne _ e] at this

/-- Last-use marks change no lane of a register that stays mapped. -/
theorem marked_lanes {w : Warp} {e f c} {k : Nat} {r : VReg} (h : AMap.get (w.marked e f c).v k = some r) :
    ∃ r0, AMap.get w.v k = some r0 ∧ r.lanes = r0.lanes := by
  unfold Warp.marked Warp.applyMarks at h
  split at h
  · exact ⟨r, get_foldl_erase _ _ _ _ h, rfl⟩
  · exact get_foldl_modify _ _ _ _ h

/-- A lane of a mapped register. -/
theorem vregD {m : Warp} {n l : Nat} {r : VReg} (h : AMap.get m.v n = some r) : m.vreg n l = (r.lanes[l]?).getD 0 := by
  unfold Warp.vreg; rw [h]

/-- An instruction whose body traps takes the trap, and its pops are not made. -/
theorem irlek_trap {e : Enc} {f : Fields} {s s1 : State} {c : Cur} {w : Warp} {pop : Option (Nat × Nat × Nat)}
    {push : Option (Nat × Nat)} {bs : List Blocked} {popped : AMap Word} {body : Iss → State → Res} {ident : Word}
    {level : Bool} {t : Cause} {info : Nat} (hr : Ready e f level s c w)
    (hq : s.ringReady c.wid w c.pc e f (activeLanes w f c.lanes).count = .ready pop push bs)
    (ht : s.deliver c.wid e f (activeLanes w f c.lanes) pop bs = (s1, popped))
    (hb : body (c.iss (s1.popped c.wid w) e f (activeLanes w f c.lanes) popped) s1 = .trap t info) :
    irlek e f s body ident level
      = .next (s.takeTrap c.wid t c.lanes (activeLanes w f c.lanes) (BitVec.ofNat 64 info) c.pc) := by
  rw [irlek_ready hr]
  unfold effect
  simp only [hq, ht, hb, State.conclude]

/-- The lowest lane with a property. -/
theorem find_lowest {p : Nat → Bool} {m : Mask} {l : Nat} (h1 : l ∈ m.lanes) (h2 : p l = true)
    (h3 : ∀ k ∈ m.lanes, k < l → p k = false) : m.lanes.find? p = some l := by
  rw [List.find?_eq_some_iff_getElem]
  refine ⟨h2, ?_⟩
  obtain ⟨i, hi, rfl⟩ := List.getElem_of_mem h1
  refine ⟨i, hi, rfl, fun j hj => ?_⟩
  have hp : m.lanes.Pairwise (· < ·) := List.Pairwise.filter _ List.pairwise_lt_range
  have := List.pairwise_iff_getElem.1 hp j i (by omega) hi hj
  simp [h3 _ (List.getElem_mem _) this]

/-- The lowest misaligned lane stops an access. -/
theorem lanesAt_misaligned {i : Iss} {s : State} {lanes : List Nat} {addr : Nat → Word} {n : Nat} {acc : Acc} {l : Nat}
    (h1 : l ∈ i.act.lanes) (h2 : (addr l).toNat % n ≠ 0) (h3 : ∀ m ∈ i.act.lanes, m < l → (addr m).toNat % n = 0) :
    lanesAt i s lanes addr n acc = .stop (.trap .memAlign l) := by
  unfold lanesAt
  rw [find_lowest (p := fun l => (addr l).toNat % n != 0) h1 (by simpa using h2) (fun k hk hl => by simp [h3 k hk hl])]

end Sys2Proof.Laws
end

