-- ==== Sys2Proof/Tests/Witness.lean ====
section
/-! SUPPORT. States and operands that meet the hypotheses of the statements about Irlek instructions. -/
set_option Elab.async false
namespace Sys2Proof.Tests
open Sys2Proof.Machine Sys2Proof.Safety

/-! ### A machine with a bundle at an instruction -/

/-- An operand of the first class its position admits, with number `k`, or the least immediate it admits. -/
def sampleOp (p : Pos) (k : Nat) : Operand :=
  match p.cls.head? with
  | some .v => .v (BitVec.ofNat 8 k) false .ident
  | some .w => .w (BitVec.ofNat 8 k)
  | some .p => .p (BitVec.ofNat 4 k)
  | some .t => .t (BitVec.ofNat 5 k)
  | some .a => .a (BitVec.ofNat 4 k)
  | some .q => .q (BitVec.ofNat 4 k)
  | some .imm => .imm (match p.imm with
    | .range lo _ => BitVec.ofNat 18 lo
    | _ => 0)
  | some .special => .special 14
  | _ => .absent

/-- Fields that an entry admits: its first variant and type, and sample operands numbered 4, 8, 12, 16, 20. -/
def sample (e : Enc) : Fields :=
  let o (i : Nat) : Operand := sampleOp ((e.ops[i]?).getD Enc.none_) (4 * i + 4)
  { plainFields with
    variant := BitVec.ofNat 6 (e.variants.head?.getD 0), ty := e.types.head?.getD .noType, op0 := o 0, op1 := o 1
    op2 := o 2, op3 := o 3, op4 := o 4 }

/-- The bundle of all lanes of the warp in slot 0. -/
def demoCur : Cur := ⟨0, 0xFFFF#64, placeHeader, placedHeaderWord, placeHeader + 8, placeHeader + 30⟩

/-- A running machine with a bundle of a warp at an instruction. -/
def demo : State := { (State.reset.placeIrlek 0) with cur := some demoCur, agenda := [] }

/-- Whether every row of a family runs to its end for the bundle, with its sample fields. -/
def allRun (rows : List Row) (s : State) : Bool := rows.all fun r => r.meets (sample r.enc) s

/-- The machine with its warp changed. -/
def demoWith (f : Warp → Warp) : State := demo.modWarp 0 f

/-- Uniform registers written. -/
def regs (ws : List (Nat × Word)) (w : Warp) : Warp := ws.foldl (fun w x => w.setW x.1 x.2) w

/-- A vector register that holds a value in every lane. -/
def vreg (n : Nat) (x : Word) (w : Warp) : Warp := { w with v := AMap.set w.v n ⟨List.replicate 16 x, false⟩ }

/-- Memory written. -/
def withBytes (s : State) (a : Nat) (bs : List Byte) : State := { s with mem := Memory.writeN s.mem a bs }

/-- What `meets` says: the hypotheses of a statement about the row hold together. -/
theorem meets_runs {r : Row} {f : Fields} {s : State} (h : r.meets f s = true) : ∃ s1 c push i, r.Runs f s s1 c push i :=
  Laws.runs_of_meets h

/-! ### Families that run on plain registers -/

theorem witness_moves_and_votes : allRun (moveRows ++ predicateRows ++ voteRows ++ matchRows) demo = true := by decide +kernel
theorem witness_cross_lane : allRun (reduceRows ++ scanRows ++ permuteRows ++ specialRows) demo = true := by decide +kernel
theorem witness_floating : allRun (floatRows) demo = true := by decide +kernel
theorem witness_conversions_and_mode : allRun (classRows ++ complexRows ++ modeRows) demo = true := by decide +kernel
theorem witness_functions : allRun (functionRows) demo = true := by decide +kernel
theorem witness_integer : allRun (arithmeticRows ++ shiftRows ++ logicRows ++ compareRows) demo = true := by decide +kernel
theorem witness_loads_and_stores : allRun (loadStoreRows ++ prefetchRows) demo = true := by decide +kernel
theorem witness_sync : allRun (syncRows) demo = true := by decide +kernel
theorem witness_builders : allRun (builderRows) demo = true := by decide +kernel
theorem witness_launches : allRun (launchRows) demo = true := by decide +kernel

/-! ### Families that need something of the machine -/

/-- Targets of indirect transfers: the block's own header in v4 and v8. -/
def demoTargets : State := demoWith fun w => vreg 4 placeHeader (vreg 8 placeHeader w)
theorem witness_branches : allRun branchRows demoTargets = true := by decide +kernel

/-- A block whose header names the one 32 bytes on for its lanes to meet again. -/
def demoJoin : State :=
  { withBytes demo 0x20020 (bytesOf 8 placedHeaderWord.toNat) with
    cur := some { demoCur with hword := placedHeaderWord ||| BitVec.ofNat 64 (16 * 2 ^ 15) } }
theorem witness_flow : allRun flowRows demoJoin = true := by decide +kernel

/-- A warp at handler level that came from the block's header. -/
def demoHandler : State := demoWith fun w =>
  { w with handler := true, tepc := placeHeader, lanes := w.lanes.map fun x => { x with hlane := true } }
theorem witness_handler : allRun handlerRows demoHandler = true := by decide +kernel

theorem witness_raises : (raiseRows.all fun r => r.row.meets (sample r.enc) demo) = true := by decide +kernel

/-- An allotment with a mapped granule, and operands of engine commands in w8, w12, w16. -/
def demoScratch : State :=
  (demoWith (regs [(8, 8192), (12, 4096), (16, 1)])).modAllot 0 fun a => { a with maps := [(0, ⟨0, 0, 1, [], []⟩)] }
theorem witness_scratchpad : allRun scratchpadRows demoScratch = true := by decide +kernel

/-- A queue of 16 places, bound for pushing to q4 and for popping to q8. -/
def demoQueue : State :=
  (demoWith fun w => { w with q := [(4, ⟨true, 0, 0⟩), (8, ⟨false, 0, 0⟩)] }).modAllot 0 fun a => a.initQueue 0 4
theorem witness_queues : allRun queueRows demoQueue = true := by decide +kernel

/-- A root at 0x60000 of a phase under way, and a warp with a task of it. -/
def demoTask : State :=
  withBytes (demoWith fun w => { regs [(16, 256)] w with task := ⟨true, 2 ^ 62, 0x60000⟩ }) 0x60000
    (bytesOf 8 (2 ^ 62) ++ bytesOf 24 0 ++ bytesOf 8 1)

/-- A root of a finished phase, at the address in w8. -/
def demoPhase : State := withBytes (demoWith (regs [(8, 0x60000)])) 0x60020 (bytesOf 8 2)
theorem witness_tasks : allRun (taskRows.take 3 ++ (taskRows.drop 6).take 1) demoTask = true
    ∧ allRun ((taskRows.drop 3).take 3 ++ (taskRows.drop 7).take 1) demo = true
    ∧ allRun (taskRows.drop 8) demoPhase = true := by decide +kernel

/-- Counts and tokens of 1. -/
def demoBarrier : State := demoWith (regs [(8, 1), (12, 1)])
theorem witness_barriers : allRun barrierRows demoBarrier = true := by decide +kernel

/-- A one-row operand tile of E4M3 at address 0 of memory, and its scales. -/
def tileDesc : BitVec 128 := BitVec.ofNat 128 (2 * 2 ^ 126 + Ty.e4m3.code.toNat * 2 ^ 120 + 128 * 2 ^ 64)
def scaleDesc : BitVec 128 := BitVec.ofNat 128 (2 * 2 ^ 126 + 2 ^ 125 + 4 * 2 ^ 64)

/-- A gang of one warp that holds sixteen tiles. -/
def demoGang : State :=
  { demoWith fun w =>
      { regs [(4, 16), (8, 16), (12, 16)] w with
        gang := some 0, t := [(8, tileDesc), (12, tileDesc), (16, scaleDesc), (20, scaleDesc)] } with
    gangs := [(0, {
      ctx := 0, launch := 0, team := 0, role := 0, number := 0, cluster := 0, members := [0], saveIdx := 0, latch := none
      arrived := [], relArrived := [], waiters := [], waiting := false, age := 0, turn := 0
      tiles := some (List.replicate 16 []), released := false, restore := false })] }
theorem witness_matrix : allRun matrixRows demoGang = true := by decide +kernel

/-- A bundle of one lane, and a trace slot of two records whose first ray awaits an answer. -/
def demoTrace : State :=
  let s := demo.modAllot 0 fun a => ((a.initQueue 0 4).initQueue 0x400 4).poke 0x1070 [3#8]
  ({ s with cur := some { demoCur with lanes := 1 } } : State).modCore 0 fun c =>
    { c with slots := [(0, ⟨0, 0x70000, 1, 0x1000, 2, 0, 8, false, [0, 0, 0, 1]⟩)] }
theorem witness_tracing : allRun traceRows demoTrace = true := by decide +kernel

/-- Eight bytes in w12. -/
def demoBytes : State := demoWith (regs [(8, 8), (12, 8)])
theorem witness_atomics : allRun (atomicRows.drop 1) demoBytes = true
    ∧ atomAccessor.row.meets { sample Enc.atom with op3 := .absent } demoBytes = true := by decide +kernel
theorem witness_bulk : allRun bulkRows demoBytes = true := by decide +kernel

end Sys2Proof.Tests
end

