-- ==== Sys2Proof/Tests/Examples.lean ====
section
/-! SUPPORT. The worked examples of the spec, one step each: results from its own tables. -/
set_option Elab.async false
namespace Sys2Proof.Tests
open Sys2Proof.Machine Sys2Proof.Safety

/-- The state after an instruction of the demonstration bundle, which has its reservation; the state itself where there is
none. -/
def doing (i : Instr) (s : State) : State :=
  match exec i { s.modWarp 0 fun w => { w with res := [(1, 255)] } with cur := some demoCur } with
  | .next t => t
  | _ => s

/-- What lane `l` of `v n`, and `w n`, hold in the demonstration warp. -/
def lane (s : State) (n l : Nat) : Word := ((s.warp? 0).map fun w => w.vreg n l).getD 0
def unif (s : State) (n : Nat) : Word := ((s.warp? 0).map fun w => w.wreg n).getD 0
def bits (s : State) (n : Nat) : Mask := ((s.warp? 0).map fun w => w.preg n).getD 0

/-- An instruction of vector sources v1, v2 and so on to v9. -/
def from_ (ty : Ty) (n : Nat) : Fields :=
  let o (k : Nat) : Operand := if k ≤ n then .v (BitVec.ofNat 8 k) false .ident else .absent
  { plainFields with ty := ty, op0 := .v 9 false .ident, op1 := o 1, op2 := o 2, op3 := o 3, op4 := o 4 }

/-- The warp with values in v1, v2 and so on, in every lane. -/
def given (xs : List Word) : State := demoWith fun w => xs.zipIdx.foldl (fun w x => vreg (x.2 + 1) x.1 w) w

/-- 02 R24. -/
theorem test_iadd_saturates : lane (doing (.iadd { from_ .i8x8 2 with sat := true }) (given [0x70, 0x20])) 9 3 = 0x7F
    ∧ lane (doing (.iadd (from_ .i8x8 2)) (given [0x70, 0x20])) 9 3 = 0x90 := by decide +kernel

/-- 05 R121. -/
theorem test_mov_fills : lane (doing (.mov { from_ .i32 0 with op1 := .imm 0x3FFFB }) demo) 9 0 = 0xFFFFFFFFFFFFFFFB
    ∧ lane (doing (.mov { from_ .n32 0 with op1 := .imm 0x3FFFB }) demo) 9 0 = 0xFFFFFFFB := by decide +kernel

/-- 05 R129: 300, −4, 17, 255 narrow to 255, 0, 17, 255. -/
theorem test_pack : lane (doing (.pack { from_ .n8x8 2 with sat := true })
    (given [0x00FF0011FFFC012C, 0])) 9 5 = 0xFF1100FF := by decide +kernel

/-- 06 R136: 100 × 2 − 90. -/
theorem test_imad_clamps_last : lane (doing (.imad { from_ .i8 3 with sat := true })
    (given [100, 2, 0xFFFFFFFFFFFFFFA6])) 9 0 = 110 := by decide +kernel

/-- 06 R148. -/
theorem test_lea : lane (doing (.lea { from_ .i32 2 with op3 := .imm 3, op4 := .imm 64 })
      (given [0x00007F0000001000, 0xFFFFFFFE])) 9 0 = 0x00007F0000001030
    ∧ lane (doing (.lea { from_ .n32 2 with op3 := .imm 3, op4 := .imm 64 })
      (given [0x00007F0000001000, 0xFFFFFFFE])) 9 0 = 0x00007F0800001030 := by decide +kernel

/-- 06 Table 6.5: A, B and M of the example. -/
def acsGiven : State := given [0x7FF800070028000A, 0x000500090023000C, 0x000A0002FFFC0003]
def acsFields (sat : Bool) : Fields :=
  { plainFields with
    ty := .i16x4, op0 := .v 9 false .ident, op1 := .p 4, op2 := .v 1 false .ident, op3 := .v 2 false .ident
    op4 := .v 3 false .ident, sat := sat }
theorem test_acs_wraps : (lane (doing (.acsPm (acsFields false)) acsGiven) 9 0 = 0x8002000700240009)
    ∧ ((List.range 4).map fun k => (bits (doing (.acsPm (acsFields false)) acsGiven) (4 + k)).has 0)
      = [true, false, true, false] := by decide +kernel
theorem test_acs_saturates : (lane (doing (.acsPm (acsFields true)) acsGiven) 9 0 = 0xFFFB000700240009)
    ∧ ((List.range 4).map fun k => (bits (doing (.acsPm (acsFields true)) acsGiven) (4 + k)).has 0)
      = [true, false, true, true] := by decide +kernel

/-- 07 R169: 3 × 2^−150 rounds to 2^−148. -/
theorem test_fscale : lane (doing (.fscale { from_ .f32 1 with op2 := .imm 0x3FF6A }) (given [0x40400000])) 9 0 = 2 := by
  decide +kernel

/-- 07 R172: one rounding of each part. -/
theorem test_cmul : lane (doing (.cmul (from_ .c32 2)) (given [0x3F8000003F800400, 0x3F8000003F7FF800])) 9 0
    = 0x40000000B2800000 := by decide +kernel

/-- 07 R165, R166: eight FP8 values from two conversions. -/
def packed8 : State :=
  doing (.fcvt { plainFields with
    ty := .e4m3x8, op0 := .v 5 false .ident, op1 := .v 2 false .ident, op2 := .imm 1, op3 := .v 5 false .ident
    mods := 0x16, sat := true })
    (doing (.fcvt { plainFields with
      ty := .e4m3x8, op0 := .v 5 false .ident, op1 := .v 1 false .ident, op2 := .imm 0, mods := 0x16, sat := true })
      (given [0xC3FA000043960000, 0x7FC000003A83126F]))
theorem test_fcvt_packs : lane packed8 5 0 = 0x7F01FE79 := by decide +kernel
theorem test_fcvt_flags : ((packed8.warp? 0).map fun w => modeFlags w.mode) = some 0b11100 := by decide +kernel

/-- 07 R177: the parts of CISPI at 1.5 are exact. -/
theorem test_cispi : lane (doing (.cispi (from_ .c32 1)) (given [0x3FC00000])) 9 0 = 0xBF80000000000000 := by decide +kernel

/-- 04 R99: a NOP with no active lane sets ZLANE, which MOVS.clr reads and clears. -/
def quietNop : State := doing (.nop { plainFields with guardA := ⟨true, 15⟩ }) demo
def readStatus : State → State := doing (.movsClr { plainFields with variant := 1, op0 := .w 6, op1 := .special 14 })
theorem test_zlane : unif (readStatus quietNop) 6 = 1 ∧ unif (readStatus (readStatus quietNop)) 6 = 0 := by decide +kernel

/-- 05 Table 5.6: lanes 14 and 15 have exited. -/
def edges (p : Perm) : List Nat :=
  let s := demoWith fun w =>
    { w with
      v := [(2, ⟨(List.range 16).map fun j => BitVec.ofNat 64 (100 + j), false⟩)]
      lanes := w.lanes.zipIdx.map fun x => if 14 ≤ x.2 then { x.1 with live := false } else x.1 }
  let t := doing (.mov { from_ .b64 0 with op1 := .v 2 false p, guardA := ⟨true, 3⟩ })
    { s.modWarp 0 fun w => w.setP 3 0xFFFF 8 with cur := some { demoCur with lanes := 0x3FFF } }
  [0, 4, 13].map fun l => (lane t 9 l).toNat
theorem test_neighbours : edges (.lt 0 .z) = [0, 103, 112] ∧ edges (.lt 0 .c) = [100, 103, 112]
    ∧ edges (.rt 0 .w) = [101, 105, 0] ∧ edges (.rt 1 .c) = [102, 106, 0] ∧ edges (.bc 3) = [103, 103, 103] := by
  decide +kernel

/-- 03 Table 3.2. -/
theorem test_header : headerOf 0xA070100100160800 = ⟨0xA, 14, 2, 2, 44, 1, 0⟩
    ∧ nextHeader 0x12340 (headerOf 0xA070100100160800)
      = 0x12368 ∧ reconvTarget 0x12340 (headerOf 0xA070100100160800) = some 0x12398 := by decide +kernel

/-- 12 R268. -/
theorem test_home : homeDie 0x3100 = 1 := by decide +kernel

/-- 12 Table 12.7: a slot keeps three contributions of 2^−24 to 1.0 exactly. -/
def added (ins : Fields → Instr) (s : State) : State :=
  doing (ins { plainFields with ty := .f32, op0 := .w 4, op1 := .w 5, guardA := ⟨false, 1⟩ }) s
def slotStart : State :=
  withBytes ((demoWith (regs [(4, 0x60000), (5, 0x33800000)])).modWarp 0 fun w => w.setP 1 1 1) 0x60000
    (bytesOf 4 0x3F800000)
def addedTwice : State := added .redfAdd (added .redfAdd slotStart)
theorem test_slot_read : ofBytes (addedTwice.peek 0x60000 4) = 0x3F800001 := by decide +kernel
theorem test_slot_flush : ofBytes ((doing (.redfFlush { plainFields with variant := 1, op0 := .w 4, op1 := .imm 4 })
    (added .redfAdd addedTwice)).peek 0x60000 4) = 0x3F800002 := by decide +kernel
theorem test_red_rounds : ofBytes ((added .red (added .red (added .red slotStart))).peek 0x60000 4) = 0x3F800000 := by
  decide +kernel

/-- 08 R183, 12 R291: what a lane stores it loads again, sign-extended. -/
def storeLoad : State :=
  doing (.ld { plainFields with ty := .i16, op0 := .v 9 false .ident, op1 := .w 4, op2 := .imm 2 })
    (doing (.st { plainFields with ty := .i16, op0 := .w 4, op1 := .imm 2, op2 := .imm 0x3FFFF })
      (demoWith (regs [(4, 0x60000)])))


end Sys2Proof.Tests
end

