-- ==== Sys2Proof/Tests/Happenings.lean ====
section
/-! SUPPORT. States in which each event happens as its statement describes it. -/
set_option Elab.async false
namespace Sys2Proof.Tests
open Sys2Proof.Machine Sys2Proof.Safety

/-- An event's arguments. -/
def on (s : State) (unit : Nat := 0) (item : Nat := 0) (third : Nat := 0) : State :=
  { s with ev := { unit := unit, item := item, third := third } }

/-- Every event of a family is described in the state beside it. -/
def allHappen (rows : List EventRow) (states : List State) : Bool :=
  rows.length == states.length && (rows.zip states).all fun x => (x.1.run x.2).isSome

/-! ### Groups and blocks -/

/-- The demonstration gang changed. -/
def gangWith (f : Gang → Gang) : State := demoGang.modGang 0 f
/-- A gang's ACLR in the matrix engine. -/
def demoEntry : State := doing (.aclr (sample Enc.aclr)) demoGang
def demoDone : State := demoEntry.modCluster 0 fun c =>
  { c with entries := c.entries.map fun x => (x.1, { x.2 with running := true, unit := 1000 }) }
/-- A few cycles on. -/
def later (s : State) : State := { s with dies := s.dies.map fun d => { d with cycles := 100 } }
theorem happen_groups : allHappen groupEvents
    [on demo, on (later (gangWith fun g => { g with tiles := none, waiting := true, latch := some 4 })),
     on (gangWith fun g => { g with released := true }), on (later demoEntry), on demoDone] = true := by decide +kernel

/-- A request at the sluice of core 0. -/
def atSluice (r : SluiceReq) (f : Warp → Warp) : State :=
  on ((demoWith f).modCore 0 fun c => { c with sluice := [(0, r)] })
theorem happen_blocks : allHappen blockEvents
    [{ demo with ev := { word := placeHeader } }, atSluice (.bundle 0 placeHeader 1) fun w => { w with res := [] },
     atSluice (.refill 0) fun w => { w with res := [], spilled := [5] },
     { demoWith fun w => { w with lanes := w.lanes.map fun x => { x with held := true } } with
       ev := { word := placeHeader + 8 } }] = true := by decide +kernel

/-! ### Dispatch and queues -/

/-- A second launch of the demonstration context. -/
def another : Launch := { placedLaunch with serial := 1, next := 0, owner := .nibex 0 1 }
def waitingLaunch (l : Launch) (s : State) : State := { s with launches := s.launches ++ [(1, l)] }
/-- A part whose context can hold saved warps. -/
def roomy (s : State) : State :=
  s.modCtx 0 fun c => { c with wsn := 64, asn := 400, gsn := 8, wsb := 0x100000, asb := 0x1000000 }
/-- An empty dictionary in a bank of core 1. -/
def banked (s : State) : State :=
  s.modCore 1 fun c => { c with banks := c.banks.set 0 (some ⟨0, 0, 0, [], true, false, 1, 1⟩) }
theorem happen_dispatch : allHappen dispatchEvents
    [on (waitingLaunch { another with dictN := 1, dictBase := 0x20000 } demo) 1 0 1,
     on { waitingLaunch another demo with ns := 2000000 },
     on { waitingLaunch { another with deadline := 5 } demo with ns := 10 } 1,
     { banked (roomy (waitingLaunch another demo)) with ev := { unit := 1, nums := [1] } },
     on (demo.modAllot 0 fun a => { a with cleared := false }),
     on (demoWith fun w => { w with draining := true }), on { demo with warps := [] }] = true := by decide +kernel

def queueWith (f : Queue → Queue) : State := on (demoNibexQueue f)
where demoNibexQueue (f : Queue → Queue) : State := (State.reset.placeNibex 0).modQueue 0 f
theorem happen_queues : allHappen queueEvents
    [queueWith id, queueWith fun k => { k with stopped := true }, queueWith id, queueWith id,
     queueWith fun k => { k with dones := [(0, ⟨1, 0x60000, 5, false⟩)] },
     queueWith fun k => { k with running := k.running.map fun r => { r with steps := 2 ^ 30 } }] = true := by decide +kernel

/-! ### Engines -/

/-- A COPY of one row under way, and one that has no unit left. -/
def copying : State := doing (.copy (sample Enc.copy)) { demoScratch with allots := demo.allots }
def copied : State := copying.modCluster 0 fun c => { c with cpe := c.cpe.map fun x => (x.1, { x.2 with todo := [] }) }
/-- A ray of the demonstration slot at a place of its walk. -/
def rayAt (a : RayAt) : State :=
  on (demoTrace.modTvu 0 fun u => { u with rays := [(0, ⟨0, 0, a, 0x70000, 0x72000, 0x74000, [], false, 0, true, false⟩)] })
/-- A BUILD sent, checked with one write left, and done. -/
def building : State := doing (.build (sample Enc.build)) demo
def builderWith (plan : List BWrite) : State := building.modBuilder 0 fun b =>
  { b with queue := b.queue.map fun c => { c with started := true, plan := plan } }
theorem happen_engines : allHappen engineEvents
    [on copying, on copied, on demoTrace, rayAt (.fetch []), rayAt (.fence false 0 1 0),
     rayAt (.leaf 0x72000 0 (List.replicate 128 0)), on building, on (builderWith [{ addr := 0x60000, data := [1] }]), on (builderWith [])]
    = true := by decide +kernel

/-! ### Memory and translation -/

def demoCopied : State := demo.modCore 0 fun c => { c with copies := [(0x600, ⟨0, 3, some (List.replicate 128 5), none⟩)] }
theorem happen_memory : allHappen memoryEvents
    [on { demo with slotWaits := [⟨0, 0, 0, 0, 0, 0, 0x60000, 0, 0x3F800000, 0, none⟩] }, on demo 0x600, on demo 0x600,
     on demo 0x600, on demoCopied 0 0x600 5, on (later demo),
     on demo, on demo, on demo]
    = true := by decide +kernel

/-- A fault of lanes of the demonstration warp in the queue of die 0. -/
def demoFault : State := demo.modDie 0 fun d => { d with faults := [(0, ⟨0, .lanes 0 placeHeader, none⟩)] }
theorem happen_translation : allHappen translationEvents
    [{ demo with ev := { word := 0x60000 } },
     on (demo.modDie 0 fun d => { d with walks := [⟨[tlbBuilder 0], 0, 0x60000, true⟩] }),
     on demoFault, on demoFault] = true := by decide +kernel

/-! ### Contexts -/

/-- A saved warp of the demonstration. -/
def demoSaved (f : Warp → Warp) : State :=
  let w := f (Warp.start 0 0 0 16 16 ((List.range 16).map (placedLane placeHeader 0)))
  { demo with warps := [], saved := [(0, .warp w 0 0 w)] }
/-- A launch of a better class waits while every core's scratchpad is allotted. -/
def crowded : State :=
  let s := roomy { waitingLaunch { another with units := 96 } demo with
    ns := 2000000, allots := (List.range 320).map fun c => (c, { placedAllot with core := c, team := c }) }
  ({ s with launches := AMap.modify s.launches 0 fun l => { l with dc := 1 } } : State).modDie 0
    fun d => { d with starving := some 1 }
/-- A warp asked to stop for an eviction, another warp of its team beside it. -/
def victim (f : Warp → Warp) : State :=
  let s := roomy (demoWith fun w => f { w with asked := .evict, askedAt := 0 })
  on { s with
    warps := AMap.set s.warps 1 (Warp.start 0 0 0 16 16 ((List.range 16).map (placedLane placeHeader 0)))
    evicts := [{ team := 1, cores := [0], victims := [0], released := [], since := 0 }], ns := 200000 }
theorem happen_contexts : allHappen contextEvents
    [on ((demoSaved fun w => { w with stop := true }).modDie 0 fun d =>
       { d with traps := [⟨0, savedWid, 0, 1, 0⟩] }) 0 savedWid,
     on ((demoWith fun w => { w with stop := true, tcause := 1 }).modDie 0 fun d => { d with traps := [⟨0, 0, 0, 1, 0⟩] }),
     on (demo.modCtx 0 fun c => { c with state := .halting, haltStep := 1 }),
     { crowded with ev := { unit := 1, nums := [0] } },
     victim id, victim fun w => { w with counters := [(3, 1)] }, on (demoSaved id)] = true := by decide +kernel

/-! ### Peers and the mailbox -/

/-- A mailbox of UALink peer 7 with a token. -/
def mailboxWith (s : State) (st : MbxState) (answer : List Byte) : State :=
  { s with sup := { s.sup with mailbox := ⟨st, 9, 2 ^ 62 + 7, 0, [], answer, 0, 0⟩ } }
theorem happen_peers : allHappen peerEvents
    [on demo 7 0x60000 8, { demo with ev := { unit := 7, item := 0x60000, bytes := [1, 2] } }, on demo 7 0x3FFFE00008 3,
     on demo 7, on (mailboxWith demo .claimed []) 7 9, on (mailboxWith demo .answered (List.replicate 4000 1)) 7 9,
     on (mailboxWith demo .claimed []) 7 9, on { mailboxWith demo .claimed [] with elapsed := 20000000 } 7 9] = true := by
  decide +kernel

/-! ### The board and the sideband -/

/-- Complexes that have booted. -/
def booted (s : State) : State :=
  { s with sup := { s.sup with complexes := s.sup.complexes.map fun c => { c with booted := true } } }
theorem happen_board : allHappen boardEvents
    [on demo, on (booted demo), on demo 4, on { booted demo with elapsed := 20000 }, on demo,
     on { demo with sup := { demo.sup with locked := true } } 5, on demo 5, on demo 3,
     on { demo with links := { demo.links with unreachable := [2] } } 2, on demo] = true := by decide +kernel
/-- A second complex, a fatal error that stands, and a failed standby, too. -/
theorem happen_board_more :
    (complexFails (on { booted demo with sup := { (booted demo).sup with standby := true } })).isSome = true
    ∧ (complexFails (on (booted demo) 1)).isSome = true
    ∧ (dumped (on { demo with sup := { demo.sup with fatal := 1, tripped := true } })).isSome = true := by decide +kernel

def slowed : State := { demo with dies := demo.dies.map fun d => { d with clockMHz := 1500 }, elapsed := 1000000 }
theorem happen_sideband : allHappen sidebandEvents
    [on demo, { demo with ev := { bytes := [0x24, 1] } }, on demo 4, on demo 8, on demo 2000, on demo 1, on demo 0x52455345,
     on slowed 22000, on slowed 1000 800 800, on slowed 1700 800, on slowed 1950 800] = true := by decide +kernel

end Sys2Proof.Tests
end

