-- ==== Sys2Proof/Tests/Requests.lean ====
section
/-! SUPPORT. Requests of a peer in the mailbox, each with a tag that its key gives, which their statements describe. -/
set_option Elab.async false
namespace Sys2Proof.Tests
open Sys2Proof.Machine Sys2Proof.Safety

/-- The value of the low bytes of a number. -/
theorem ofBytes_bytesOf (n x : Nat) : ofBytes (bytesOf n x) = x % 256 ^ n := by
  induction n generalizing x with
  | zero => simp [bytesOf, ofBytes, Nat.mod_one]
  | succ n ih =>
    rw [bytesOf, ofBytes, ih, BitVec.toNat_ofNat, show 256 ^ (n + 1) = 256 * 256 ^ n by rw [Nat.pow_succ, Nat.mul_comm],
      Nat.mod_mul]

theorem ofBytes_lt (bs : List Byte) : ofBytes bs < 256 ^ bs.length := by
  induction bs with
  | nil => simp [ofBytes]
  | cons b bs ih => rw [ofBytes, List.length_cons, Nat.pow_succ]; have := b.isLt; omega
/-- A tag has 16 bytes. -/
theorem tag_lt (key : Nat) (name : String) (msg : List Byte) : kmac256 key name msg < 256 ^ 16 := by
  unfold kmac256
  refine Nat.lt_of_lt_of_le (ofBytes_lt _) (Nat.pow_le_pow_right (by decide) ?_)
  unfold kmacFirst
  rw [List.length_take]
  exact Nat.min_le_left _ _

/-- Request bytes: a head of 16, a tag, and a body. -/
def requestHead (code ctx : Nat) (body : List Byte) : List Byte :=
  bytesOf 8 1 ++ bytesOf 2 code ++ bytesOf 2 body.length ++ bytesOf 4 ctx
/-- The tag that key 3 gives a request. -/
def tagOf (code ctx : Nat) (body : List Byte) : Nat :=
  requestTag 3 ⟨1, code, body.length, ctx, 0, requestHead code ctx body, body⟩
/-- A running request of peer 7, about context 0 where it names one, whose owner and key are 7 and 3. -/
def asking (base : State) (code : Nat) (body : List Byte) (tag : Nat) : State :=
  let s := (booted base).modCtx 0 fun c => { c with owner := 7, key := 3 }
  let buffer := requestHead code 0 body ++ bytesOf 16 tag ++ body
  { s with sup := { s.sup with mailbox := ⟨.running, 9, 7, 0, buffer, [], 0, 0⟩ } }

/-- A request with the right tag of its context's key, not journalled and well formed, is left to be served. -/
theorem vet_kept (s : State) (k : Nat) (hr : (s.mbx.state != .running || !s.serves) = false)
    (hk : s.requestKey s.mbx.claimant s.mbx.request = some k)
    (ht : requestTag k s.mbx.request = s.mbx.request.tag)
    (hj : s.journalled s.mbx.claimant s.mbx.request.id = none)
    (hb : s.mbx.request.bare = false)
    (hc : (s.mbx.request.code = 0 ∨ 8 < s.mbx.request.code ∨ 3808 < s.mbx.request.len) → False) : s.vet = s := by
  simp only [State.vet, hr, hk, hj, hb]
  simp [ht]
  exact fun h => (hc (or_assoc.mp h)).elim

/-- The tag of the buffer that `asking` makes is the one of its head and body. -/
theorem tag_asked (m : Mailbox) (code : Nat) (body : List Byte)
    (hb : m.buffer = requestHead code 0 body ++ bytesOf 16 (tagOf code 0 body) ++ body)
    (hh : m.bytes 0 16 = requestHead code 0 body) (hy : m.bytes 0x20 (min (ofBytes (m.bytes 0xA 2)) 3808) = body) :
    requestTag 3 m.request = m.request.tag := by
  have h2 : m.bytes 0x10 16 = bytesOf 16 (tagOf code 0 body) := by
    simp [Mailbox.bytes, hb, requestHead, bytesOf, List.range, List.range.loop]
  show requestTag 3 m.request = ofBytes (m.bytes 0x10 16)
  rw [h2, ofBytes_bytesOf]
  simp only [tagOf, requestTag, Mailbox.request, hh, hy]
  exact (Nat.mod_eq_of_lt (tag_lt _ _ _)).symm

/-- The same as one test: the buffer as it is read, and the request waiting, known, unjournalled and well formed. -/
def askedWell (s : State) (code : Nat) (body : List Byte) : Bool :=
  s.mbx.bytes 0 16 == requestHead code 0 body && s.mbx.bytes 0x20 (min (ofBytes (s.mbx.bytes 0xA 2)) 3808) == body
  && s.mbx.state == .running && s.serves && s.requestKey s.mbx.claimant s.mbx.request == some 3
  && s.journalled s.mbx.claimant s.mbx.request.id == none && !s.mbx.request.bare
  && s.mbx.request.code != 0 && s.mbx.request.code ≤ 8 && s.mbx.request.len ≤ 3808
theorem asked_kept (s : State) (code : Nat) (body : List Byte)
    (hb : s.mbx.buffer = requestHead code 0 body ++ bytesOf 16 (tagOf code 0 body) ++ body)
    (h : askedWell s code body = true) : s.vet = s := by
  simp only [askedWell, Bool.and_eq_true, beq_iff_eq, decide_eq_true_eq, Bool.not_eq_true', bne_iff_ne] at h
  obtain ⟨⟨⟨⟨⟨⟨⟨⟨⟨h1, h2⟩, h3⟩, h4⟩, h5⟩, h6⟩, h7⟩, h8⟩, h9⟩, h10⟩ := h
  exact vet_kept s 3 (by simp [h3, h4]) h5 (tag_asked _ code body hb h1 h2) h6 h7 (by omega)

def bodyOf (l : List (Nat × Nat)) : List Byte := l.flatMap fun x => bytesOf x.1 x.2
/-- Fresh memory of one page at an address that nothing maps. -/
def mapBody : List Byte := bodyOf [(8, 2 ^ 40), (8, 4096), (8, 3), (8, 2 ^ 64 - 1)]
def askMap : State :=
  { asking demo 2 mapBody (tagOf 2 0 mapBody) with ev := { unit := 0x200000, nums := [0x100000, 0x101000, 0x102000] } }
theorem happen_map : (mapped askMap).isSome = true := by
  unfold mapped servingCtx serving
  rw [asked_kept askMap 2 mapBody rfl (by decide +kernel)]
  decide +kernel

/-- A context whose low half is mapped by one page of 512 GiB, and one small one. -/
def withPages (s : State) : State := s.modCtx 0 fun c => { c with pages := [(0, 2 ^ 39, 0, 4), (2 ^ 40, 4096, 0x200000, 0)] }
def unmapBody : List Byte := bodyOf [(8, 2 ^ 40), (8, 4096)]
def askUnmap : State := asking (withPages demo) 3 unmapBody (tagOf 3 0 unmapBody)
theorem happen_unmap : (unmapped askUnmap).isSome = true := by
  unfold unmapped servingCtx serving
  rw [asked_kept askUnmap 3 unmapBody rfl (by decide +kernel)]
  decide +kernel

/-- A class L queue numbered 5 whose program is one HALT. -/
def queueBody : List Byte :=
  bodyOf [(8, 0), (8, 5), (1, 1), (1, 4), (1, 0), (1, 0), (4, 1), (8, 0), (8, 0x40000), (8, 0x50000), (64, 0),
    (8, 0x51000), (64, 0)]
def askQueue : State := asking (withPages demo) 4 queueBody (tagOf 4 0 queueBody)
theorem happen_queue_create : (queueCreated askQueue).isSome = true := by
  unfold queueCreated servingCtx serving
  rw [asked_kept askQueue 4 queueBody rfl (by decide +kernel)]
  decide +kernel

def endBody : List Byte := bodyOf [(8, 1), (8, 0)]
def askEnd : State := asking (State.reset.placeNibex 0) 4 endBody (tagOf 4 0 endBody)
theorem happen_queue_destroy : (queueDestroyed askEnd).isSome = true := by
  unfold queueDestroyed servingCtx serving
  rw [asked_kept askEnd 4 endBody rfl (by decide +kernel)]
  decide +kernel

def askHalt : State := asking demo 5 [] (tagOf 5 0 [])
theorem happen_halt : (haltAsked askHalt).isSome = true := by
  unfold haltAsked servingCtx serving
  rw [asked_kept askHalt 5 [] rfl (by decide +kernel)]
  decide +kernel

def askResume : State := asking (demo.modCtx 0 fun c => { c with state := .halted }) 6 [] (tagOf 6 0 [])
theorem happen_resume : (resumeAsked askResume).isSome = true := by
  unfold resumeAsked servingCtx serving
  rw [asked_kept askResume 6 [] rfl (by decide +kernel)]
  decide +kernel

def askDestroy : State := asking demo 8 [] (tagOf 8 0 [])
theorem happen_destroy : (destroyed askDestroy).isSome = true := by
  unfold destroyed servingCtx serving
  rw [asked_kept askDestroy 8 [] rfl (by decide +kernel)]
  decide +kernel

/-- Requests that carry no tag: the features of the part itself with one warp's save area, and a challenge of zeros. -/
def createBody : List Byte := bodyOf [(32, featureVector), (16, 0), (8, 1), (24, 0), (1568, 0)]
theorem happen_create : (created { asking demo 1 createBody 0 with
    ev := { unit := 1, nums := [0x100000, 0x200000, 0x10000000, 0, 0, 0, 0x300000, 0x301000, 0x302000, 0x303000] } }).isSome
    = true := by decide +kernel
theorem happen_attest : (attested (asking demo 7 (bodyOf [(64, 0)]) 0)).isSome = true := by decide +kernel

end Sys2Proof.Tests
end

