-- ==== Sys2Proof/Tests/Slice0.lean ====
section
/-! SUPPORT. The model's own tests: ill-formed terms that each check refuses, and words written out from the spec's encoding tables with the instructions they stand for. -/
set_option Elab.async false
namespace Sys2Proof.Tests
open Sys2Proof.Machine

/-! ### Ill-formed terms: one for each check of step 5 of Table 3.7, in its order -/

/-- A word of no operand, unguarded. -/
def bare : Fields where
  variant := 0
  ty := .noType
  rounding := 0
  op0 := .absent
  op1 := .absent
  op2 := .absent
  op3 := .absent
  op4 := .absent
  guardA := ⟨false, 15⟩
  guardB := ⟨false, 15⟩
  combineOr := false
  hint := 0
  counter := 15
  yield := false
  sat := false
  mods := 0

/-- `IADD.i32 v1, v2, v3`, which is well formed. -/
def sumFields : Fields :=
  { bare with ty := .i32, op0 := .v 1 false .ident, op1 := .v 2 false .ident, op2 := .v 3 false .ident }
theorem test_wellFormed : (Instr.iadd sumFields).wf = true ∧ (Instr.nop bare).wf = true := by decide +kernel

theorem test_refuses_variant : (Instr.iadd { sumFields with variant := 1 }).wf = false := by decide +kernel
theorem test_refuses_type : (Instr.iadd { sumFields with ty := .b64 }).wf = false := by decide +kernel
theorem test_refuses_rounding : (Instr.iadd { sumFields with rounding := 1 }).wf = false
    ∧ (Instr.fadd { sumFields with ty := .f32, rounding := 5 }).wf = false := by decide +kernel
theorem test_refuses_class : (Instr.iadd { sumFields with op0 := .p 1 }).wf = false := by decide +kernel
theorem test_refuses_unused : (Instr.iadd { sumFields with op4 := .v 1 false .ident }).wf = false := by decide +kernel
theorem test_refuses_immediate_destination : (Instr.iadd { sumFields with op0 := .imm 1 }).wf = false := by decide +kernel
theorem test_refuses_marked_destination : (Instr.iadd { sumFields with op0 := .v 1 true .ident }).wf = false := by
  decide +kernel
theorem test_refuses_permute : (Instr.iadd { sumFields with op1 := .v 2 false (.bf 6) }).wf = false := by decide +kernel
theorem test_refuses_element_immediate :
    (Instr.iadd { sumFields with ty := .i8, op2 := .imm 128 }).wf = false := by decide +kernel
theorem test_refuses_range_immediate : (Instr.yield { bare with op0 := .imm 1024 }).wf = false := by decide +kernel
theorem test_refuses_uniform_number : (Instr.iadd { sumFields with op1 := .w 16 }).wfAt 16 1 = false := by decide +kernel
theorem test_refuses_uniform_group : (Instr.poptask { bare with
    op0 := .w 9, op1 := .p 1, op2 := .imm 2 }).wfAt 16 1 = false := by decide +kernel
theorem test_refuses_two_pops : (Instr.iadd { sumFields with op1 := .q 1, op2 := .q 2 }).wf = false := by decide +kernel
theorem test_refuses_wide : (Instr.iadd { sumFields with op0 := .w 1 }).wf = false := by decide +kernel
theorem test_refuses_hint : (Instr.iadd { sumFields with hint := 1 }).wf = false
    ∧ (Instr.ld { bare with ty := .b64, op0 := .v 1 false .ident, op1 := .w 2, op2 := .imm 0, hint := 5 }).wf = false := by
  decide +kernel
theorem test_refuses_counter : (Instr.iadd { sumFields with counter := 0 }).wf = false
    ∧ (Instr.aclr { bare with op0 := .a 1, counter := 12 }).wf = false := by decide +kernel
theorem test_refuses_saturate : (Instr.imulh { sumFields with sat := true }).wf = false := by decide +kernel
theorem test_refuses_modifiers : (Instr.iadd { sumFields with mods := 1 }).wf = false := by decide +kernel
theorem test_refuses_row : (Instr.ared { bare with
    ty := .f32, op0 := .v 1 false .ident, op1 := .a 2, op2 := .imm 3 }).wf = false := by decide +kernel
theorem test_refuses_own_check : (Instr.amovTr { bare with variant := 1, op0 := .a 1, op1 := .a 1 }).wf = false := by
  decide +kernel
theorem test_refuses_nibex : (Instr.nxShr ⟨1, 0, 64⟩).wf = false ∧ (Instr.nxAdd ⟨1, 2, 1⟩).wf = false := by
  decide +kernel

/-- Words that are no instruction: opcodes 0 and 0x3FF, a data type 0x1D, a set reserved bit, and Nibex op 19. -/
theorem test_refuses_words : decodeWord 16 16 0 = none ∧ decodeWord 16 16 (0x3FF * 2 ^ 150) = none
    ∧ decodeWord 16 16 (0x2000 * 2 ^ 144 + 0x1D * 2 ^ 139) = none ∧ decodeNibex (19 * 2 ^ 27) = none := by decide +kernel
theorem test_refuses_reserved : decodeWord 16 16 (0x0040F8E000070000380001C0000E00003DE0F000 ||| 0x100) = none := by
  decide +kernel

/-! ### Words written out from the encoding tables, and what they stand for -/

/-- Every word of a list decodes to the instruction beside it. -/
def readsAs (l : List (Nat × Instr)) : Bool := l.all fun x => decodeWord 16 16 (BitVec.ofNat 160 x.1) == some x.2

/-- control (04 Table 4.3, 18 Table 18.8). -/
theorem test_words_control_1 : readsAs [
    (0x0040F8E000070000380001C0000E00007DE0F000, .nop { bare with guardA := ⟨true, 15⟩ }),
    (0x0080F8DFFFEF0000380001C0000E00003DE0F000, .bra { bare with op0 := .imm 262141 }),
    (0x00C0F84040060001B00015C0000E00003DE0F000, .brc { bare with op0 := .p 2, op1 := .imm 6, op2 := .imm 10 }),
    (0x0100F840A0060001380001C0000E00003DE0F000, .brwAny { bare with op0 := .p 5, op1 := .imm 4 }),
    (0x0101F840A0060001380001C0000E00003DE0F000, .brwAll { bare with variant := 1, op0 := .p 5, op1 := .imm 4 }),
    (0x0102F840A0060001380001C0000E00003DE0F000, .brwNone { bare with variant := 2, op0 := .p 5, op1 := .imm 4 }),
    (0x0103F82120060001380001C0000E00003DE0F000, .brwWz { bare with variant := 3, op0 := .w 9, op1 := .imm 4 }),
    (0x0104F82120060001380001C0000E00003DE0F000, .brwWnz { bare with variant := 4, op0 := .w 9, op1 := .imm 4 }),
    (0x0140F80080070000380001C0000E00003DE0F000, .jmpi { bare with op0 := .v 4 false .ident }),
    (0x0180F803C0060001F80001C0000E00003DE0F000, .call { bare with op0 := .v 30 false .ident, op1 := .imm 7 }),
    (0x01C0F803C0000480380001C0000E00003DE0F000, .calli { bare with op0 := .v 30 false .ident, op1 := .v 4 true .ident }),
    (0x0200F803D0070000380001C0000E00003DE0F000, .ret { bare with op0 := .v 30 true .ident })
  ] = true := by decide +kernel

/-- control (04 Table 4.3, 18 Table 18.8). -/
theorem test_words_control_2 : readsAs [
    (0x0240F8E000070000380001C0000E00003DE0F000, .join bare),
    (0x0280F8E000070000380001C0000E00000650F000, .exit { bare with
      guardA := ⟨false, 1⟩, guardB := ⟨true, 2⟩, combineOr := true }),
    (0x02C0F8C01FFF0000380001C0000E00003DE0F000, .yield { bare with op0 := .imm 1023 }),
    (0x0300F8C7FFFF0000380001C0000E00003DE0F000, .brk { bare with op0 := .imm 65535 }),
    (0x0340F8C0002F0000380001C0000E00003DE0F000, .trap { bare with op0 := .imm 5 }),
    (0xF800F8E000070000380001C0000E00003DE0F000, .hret bare),
    (0xF840F82060060001B80001C0000E00003DE0F000, .srd { bare with op0 := .w 3, op1 := .imm 6 }),
    (0xF880F8C000090700380001C0000E00003DE0F000, .swr { bare with op0 := .imm 1, op1 := .w 7 }),
    (0xF881F8C00026FFFFB80001C0000E00003DE0F000, .swrT { bare with variant := 1, op0 := .imm 4, op1 := .imm 262142 }),
    (0xF8C0F80060070000380001C0000E00003DE0F000, .clockCyc { bare with op0 := .v 3 false .ident }),
    (0xF8C1F82060070000380001C0000E00003DE0F000, .clockNs { bare with variant := 1, op0 := .w 3 })
  ] = true := by decide +kernel

/-- moves (05 Table 5.7, 04 R97). -/
theorem test_words_moves_1 : readsAs [
    (0x1000480280000360380001C0000E00003DE0F000, .mov { bare with
      ty := .b64, op0 := .v 20 false .ident, op1 := .v 3 false (.rt 0 .z) }),
    (0x1040482080000A11F80001C0000E00003DE0F000, .movw { bare with ty := .b64, op0 := .w 4, op1 := .v 10 false (.bc 7) }),
    (0x10804800C0010400380001C0000E00003DE0F000, .bcastw { bare with ty := .b64, op0 := .v 6 false .ident, op1 := .w 4 }),
    (0x1081F84040010B00380001C0000E00003DE0F000, .bcastwP { bare with variant := 1, op0 := .p 2, op1 := .w 11 }),
    (0x10C0100020020300081001BFFFBE00003DE0F000, .sel { bare with
      ty := .i32, op0 := .v 1 false .ident, op1 := .p 3, op2 := .w 2, op3 := .imm 262139 }),
    (0x1100F84020020200101801C0000E00003DE0F000, .pand { bare with op0 := .p 1, op1 := .p 2, op2 := .p 3 }),
    (0x1101F84020020200101801C0000E00003DE0F000, .pandAn { bare with
      variant := 1, op0 := .p 1, op1 := .p 2, op2 := .p 3 }),
    (0x1140F84080020200101001C0000E00003DE0F000, .por { bare with op0 := .p 4, op1 := .p 2, op2 := .p 2 }),
    (0x1141F84080020200101801C0000E00003DE0F000, .porOn { bare with variant := 1, op0 := .p 4, op1 := .p 2, op2 := .p 3 }),
    (0x1180F840A0020100102001C0000E00003DE0F000, .pxor { bare with op0 := .p 5, op1 := .p 1, op2 := .p 4 }),
    (0x11C0F840C0020600380001C0000E00003DE0F000, .pnot { bare with op0 := .p 6, op1 := .p 6 }),
    (0x1200F82040020100380001C0000E00003DE0F000, .voteBallot { bare with op0 := .w 2, op1 := .p 1 }),
    (0x1201F84040020100380001C0000E00003DE0F000, .voteAny { bare with variant := 1, op0 := .p 2, op1 := .p 1 }),
    (0x1202F84040020100380001C0000E00003DE0F000, .voteAll { bare with variant := 2, op0 := .p 2, op1 := .p 1 })
  ] = true := by decide +kernel

/-- moves (05 Table 5.7, 04 R97). -/
theorem test_words_moves_2 : readsAs [
    (0x1203F84040020100380001C0000E00003DE0F000, .voteUni { bare with variant := 3, op0 := .p 2, op1 := .p 1 }),
    (0x1240400040000100380001C0000E00003DE0F000, .matchAny { bare with
      ty := .b32, op0 := .v 2 false .ident, op1 := .v 1 false .ident }),
    (0x1241484040000100380001C0000E00003DE0F000, .matchAll { bare with
      variant := 1, ty := .b64, op0 := .p 2, op1 := .v 1 false .ident }),
    (0x1281A82060000400380001C0000E00003DE0F000, .reduce { bare with
      variant := 1, ty := .n16x4, op0 := .w 3, op1 := .v 4 false .ident }),
    (0x12C5480060000400380001C0000E00003DE0F000, .scan { bare with
      variant := 5, ty := .b64, op0 := .v 3 false .ident, op1 := .v 4 false .ident }),
    (0x12C8530060000400380001C0000E00003DE0F000, .scanExclusive { bare with
      variant := 8, ty := .f32, rounding := 3, op0 := .v 3 false .ident, op1 := .v 4 false .ident }),
    (0x1300F80060000440802801C0000E00003DE0F002, .perm { bare with
      op0 := .v 3 false .ident, op1 := .v 4 false (.mir 2), op2 := .v 5 false .ident, mods := 0x02 }),
    (0x1340A00080000100081001C0000E00003DE0F400, .pack { bare with
      ty := .n8x8, op0 := .v 4 false .ident, op1 := .v 1 false .ident, op2 := .w 2, sat := true }),
    (0x1380A000A0000900300003C0000E00003DE0F000, .unpk { bare with
      ty := .n8x8, op0 := .v 5 false .ident, op1 := .v 9 false .ident, op2 := .imm 1 }),
    (0x13C0C00060000380300037C0000E00003DE0F000, .subx { bare with
      ty := .bf16x4, op0 := .v 3 false .ident, op1 := .v 3 true .ident, op2 := .imm 27 }),
    (0x13C1C800E000010000100043000E00003DE0F000, .subxTwo { bare with
      variant := 1, ty := .e4m3x8, op0 := .v 7 false .ident, op1 := .v 1 false .ident, op2 := .v 2 false .ident
      op3 := .w 12 }),
    (0x1400F82060070E00380001C0000E00003DE0F000, .movs { bare with op0 := .w 3, op1 := .special 14 }),
    (0x1401F820C0070E00380001C0000E00003DE0F000, .movsClr { bare with variant := 1, op0 := .w 6, op1 := .special 14 })
  ] = true := by decide +kernel

/-- arithmetic and shifts (06 Table 6.1). -/
theorem test_words_arithmetic_and_shifts : readsAs [
    (0x2000900020000220F7FFFFC0000E00003DE0F400, .iadd { bare with
      ty := .i16x4, op0 := .v 1 false .ident, op1 := .v 2 false (.rot 3), op2 := .imm 262143, sat := true }),
    (0x2040302020010200081801C0000E00003DE0F000, .isub { bare with ty := .n32, op0 := .w 1, op1 := .w 2, op2 := .w 3 }),
    (0x2080180020000200081801C0000E00003DE0F000, .imul { bare with
      ty := .i64, op0 := .v 1 false .ident, op1 := .v 2 false .ident, op2 := .w 3 }),
    (0x20C0A0002000020008180001000E00003DE0F400, .imad { bare with
      ty := .n8x8, op0 := .v 1 false .ident, op1 := .v 2 false .ident, op2 := .w 3, op3 := .v 4 false .ident
      sat := true }),
    (0x2100380020000200001801C0000E00003DE0F000, .imulh { bare with
      ty := .n64, op0 := .v 1 false .ident, op1 := .v 2 false .ident, op2 := .v 3 false .ident }),
    (0x2101100020000200001801C0000E00003DE0F000, .imulhSu { bare with
      variant := 1, ty := .i32, op0 := .v 1 false .ident, op1 := .v 2 false .ident, op2 := .v 3 false .ident }),
    (0x2140A0002000020000180001000E00003DE0F000, .imadwLo { bare with
      ty := .n8x8, op0 := .v 1 false .ident, op1 := .v 2 false .ident, op2 := .v 3 false .ident
      op3 := .v 4 false .ident }),
    (0x214190002000020000180001000E00003DE0F400, .imadwHi { bare with
      variant := 1, ty := .i16x4, op0 := .v 1 false .ident, op1 := .v 2 false .ident, op2 := .v 3 false .ident
      op3 := .v 4 false .ident, sat := true }),
    (0x2180100020000200001801C0000E00003DE0F400, .idiv { bare with
      ty := .i32, op0 := .v 1 false .ident, op1 := .v 2 false .ident, op2 := .v 3 false .ident, sat := true }),
    (0x21C0000020000200001801C0000E00003DE0F000, .irem { bare with
      ty := .i8, op0 := .v 1 false .ident, op1 := .v 2 false .ident, op2 := .v 3 false .ident }),
    (0x2200280020000200001801C0000E00003DE0F000, .imin { bare with
      ty := .n16, op0 := .v 1 false .ident, op1 := .v 2 false .ident, op2 := .v 3 false .ident }),
    (0x2240980020000200001801C0000E00003DE0F000, .imax { bare with
      ty := .i32x2, op0 := .v 1 false .ident, op1 := .v 2 false .ident, op2 := .v 3 false .ident }),
    (0x2280080020000200380001C0000E00003DE0F400, .iabs { bare with
      ty := .i16, op0 := .v 1 false .ident, op1 := .v 2 false .ident, sat := true }),
    (0x22C0E0002000020037FFFFC0000E00003DE0F400, .shl { bare with
      ty := .n32x2, op0 := .v 1 false .ident, op1 := .v 2 false .ident, op2 := .imm 262143, sat := true }),
    (0x230040002000020030000FC0000E00003DE0F000, .shr { bare with
      ty := .b32, op0 := .v 1 false .ident, op1 := .v 2 false .ident, op2 := .imm 7 }),
    (0x2340180020000200001985C0000E00003DE0F000, .sar { bare with
      ty := .i64, op0 := .v 1 false .ident, op1 := .v 2 false .ident, op2 := .v 3 false (.bf 2) }),
    (0x2380480020000200300003C0000E00003DE0F000, .rotL { bare with
      ty := .b64, op0 := .v 1 false .ident, op1 := .v 2 false .ident, op2 := .imm 1 }),
    (0x2381480020000200300003C0000E00003DE0F000, .rotR { bare with
      variant := 1, ty := .b64, op0 := .v 1 false .ident, op1 := .v 2 false .ident, op2 := .imm 1 }),
    (0x23C040002000020000180180009E00003DE0F000, .fshlL { bare with
      ty := .b32, op0 := .v 1 false .ident, op1 := .v 2 false .ident, op2 := .v 3 false .ident, op3 := .imm 9 }),
    (0x23C140002000020000180180009E00003DE0F000, .fshlR { bare with
      variant := 1, ty := .b32, op0 := .v 1 false .ident, op1 := .v 2 false .ident, op2 := .v 3 false .ident
      op3 := .imm 9 })
  ] = true := by decide +kernel

/-- logic, compares, addresses (06 Table 6.1). -/
theorem test_words_logic_compares_addresses : readsAs [
    (0x2400480020000200001801C0000E00003DE0F000, .andB { bare with
      ty := .b64, op0 := .v 1 false .ident, op1 := .v 2 false .ident, op2 := .v 3 false .ident }),
    (0x2440400020000200001801C0000E00003DE0F000, .orB { bare with
      ty := .b32, op0 := .v 1 false .ident, op1 := .v 2 false .ident, op2 := .v 3 false .ident }),
    (0x2480380020000200001801C0000E00003DE0F000, .xor { bare with
      ty := .n64, op0 := .v 1 false .ident, op1 := .v 2 false .ident, op2 := .v 3 false .ident }),
    (0x24C0880020000200001801C0000E00003DE0F000, .andn { bare with
      ty := .i8x8, op0 := .v 1 false .ident, op1 := .v 2 false .ident, op2 := .v 3 false .ident }),
    (0x250048006000010000140041400E00003DE0F0CA, .lop3 { bare with
      ty := .b64, op0 := .v 3 false .ident, op1 := .v 1 false .ident, op2 := .v 2 true .ident, op3 := .w 5
      mods := 0xCA }),
    (0x2540A80020000200380001C0000E00003DE0F000, .popc { bare with
      ty := .n16x4, op0 := .v 1 false .ident, op1 := .v 2 false .ident }),
    (0x2580480020000200380001C0000E00003DE0F000, .clz { bare with
      ty := .b64, op0 := .v 1 false .ident, op1 := .v 2 false .ident }),
    (0x25C0480020000200380001C0000E00003DE0F000, .ctz { bare with
      ty := .b64, op0 := .v 1 false .ident, op1 := .v 2 false .ident }),
    (0x2600480020000200380001C0000E00003DE0F000, .brev { bare with
      ty := .b64, op0 := .v 1 false .ident, op1 := .v 2 false .ident }),
    (0x264010002000020030000980008E00003DE0F000, .bfx { bare with
      ty := .i32, op0 := .v 1 false .ident, op1 := .v 2 false .ident, op2 := .imm 4, op3 := .imm 8 }),
    (0x268030002000020000180180004C00043DE0F000, .bfi { bare with
      ty := .n32, op0 := .v 1 false .ident, op1 := .v 2 false .ident, op2 := .v 3 false .ident, op3 := .imm 4
      op4 := .imm 8 }),
    (0x26C4384060000100081001C0000E00003DE0F000, .icmp { bare with
      variant := 4, ty := .n64, op0 := .p 3, op1 := .v 1 false .ident, op2 := .w 2 }),
    (0x270038002002010000100000C00404003DE0F000, .iaddcC { bare with
      ty := .n64, op0 := .v 1 false .ident, op1 := .p 1, op2 := .v 2 false .ident, op3 := .v 3 false .ident
      op4 := .p 2 }),
    (0x270130002007000000100000C00E00003DE0F000, .iaddcB { bare with
      variant := 1, ty := .n32, op0 := .v 1 false .ident, op2 := .v 2 false .ident, op3 := .v 3 false .ident }),
    (0x274030202001020008180180007C00203DE0F000, .lea { bare with
      ty := .n32, op0 := .w 1, op1 := .w 2, op2 := .w 3, op3 := .imm 7, op4 := .imm 64 }),
    (0x2780A0002000020000180001000E00003DE0F400, .sad { bare with
      ty := .n8x8, op0 := .v 1 false .ident, op1 := .v 2 false .ident, op2 := .v 3 false .ident
      op3 := .v 4 false .ident, sat := true }),
    (0x27C0900020020B0000100000C00008003DE0F003, .acsPm { bare with
      ty := .i16x4, op0 := .v 1 false .ident, op1 := .p 11, op2 := .v 2 false .ident, op3 := .v 3 false .ident
      op4 := .v 4 false .ident, mods := 0x03 }),
    (0x27C190002002000000100000C00008003DE0F400, .acsMp { bare with
      variant := 1, ty := .i16x4, op0 := .v 1 false .ident, op1 := .p 0, op2 := .v 2 false .ident
      op3 := .v 3 false .ident, op4 := .v 4 false .ident, sat := true })
  ] = true := by decide +kernel

/-- floating point (07 Table 7.1). -/
theorem test_words_floating_point_1 : readsAs [
    (0x4000510020000200001801C0000E00003DE0F000, .fadd { bare with
      ty := .f32, rounding := 1, op0 := .v 1 false .ident, op1 := .v 2 false .ident, op2 := .v 3 false .ident }),
    (0x4040B80020000200001801C0000E00003DE0F400, .fsub { bare with
      ty := .f16x4, op0 := .v 1 false .ident, op1 := .v 2 false .ident, op2 := .v 3 false .ident, sat := true }),
    (0x4080602020010200081801C0000E00003DE0F000, .fmul { bare with ty := .bf16, op0 := .w 1, op1 := .w 2, op2 := .w 3 }),
    (0x40C0B0018000078000480003200E00000E80F000, .ffma { bare with
      ty := .f32x2, op0 := .v 12 false .ident, op1 := .v 7 true .ident, op2 := .v 9 false .ident
      op3 := .v 12 true .ident, guardA := ⟨false, 3⟩, guardB := ⟨true, 4⟩ }),
    (0x4100580020000200001801C0000E00003DE0F000, .fmin { bare with
      ty := .f16, op0 := .v 1 false .ident, op1 := .v 2 false .ident, op2 := .v 3 false .ident }),
    (0x4140C00020000200001801C0000E00003DE0F000, .fmax { bare with
      ty := .bf16x4, op0 := .v 1 false .ident, op1 := .v 2 false .ident, op2 := .v 3 false .ident }),
    (0x4186504020000200001801C0000E00003DE0F000, .fcmp { bare with
      variant := 6, ty := .f32, op0 := .p 1, op1 := .v 2 false .ident, op2 := .v 3 false .ident }),
    (0x41C0B00020000200380001C0000E00003DE0F000, .fclass { bare with
      ty := .f32x2, op0 := .v 1 false .ident, op1 := .v 2 false .ident }),
    (0x41C15040200002003007FFC0000E00003DE0F000, .fclassTest { bare with
      variant := 1, ty := .f32, op0 := .p 1, op1 := .v 2 false .ident, op2 := .imm 1023 }),
    (0x4200520020000200380001C0000E00003DE0F000, .frnd { bare with
      ty := .f32, rounding := 2, op0 := .v 1 false .ident, op1 := .v 2 false .ident }),
    (0x4201500020000200380001C0000E00003DE0F000, .frndX { bare with
      variant := 1, ty := .f32, op0 := .v 1 false .ident, op1 := .v 2 false .ident }),
    (0x4240C800A000020030000201400E00003DE0F416, .fcvt { bare with
      ty := .e4m3x8, op0 := .v 5 false .ident, op1 := .v 2 false .ident, op2 := .imm 1, op3 := .v 5 false .ident
      sat := true, mods := 0x16 }),
    (0x428056002000020037FFF7C0000E00003DE0F000, .fscale { bare with
      ty := .f32, rounding := 6, op0 := .v 1 false .ident, op1 := .v 2 false .ident, op2 := .imm 262139 }),
    (0x42C0B8002000020000180001000E00003DE0F000, .fdot2 { bare with
      ty := .f16x4, op0 := .v 1 false .ident, op1 := .v 2 false .ident, op2 := .v 3 false .ident
      op3 := .v 4 false .ident }),
    (0x4300500020000200001801C0000E00003DE0F000, .fdiv { bare with
      ty := .f32, op0 := .v 1 false .ident, op1 := .v 2 false .ident, op2 := .v 3 false .ident }),
    (0x4340500020000200380001C0000E00003DE0F000, .fsqrt { bare with
      ty := .f32, op0 := .v 1 false .ident, op1 := .v 2 false .ident }),
    (0x4380F8C000470000380001C0000E00003DE0F000, .modesetAll { bare with op0 := .imm 8 }),
    (0x4381F82040070000380001C0000E00003DE0F000, .modesetRm { bare with variant := 1, op0 := .w 2 }),
    (0x4382F8C0000F0000380001C0000E00003DE0F000, .modesetFtz { bare with variant := 2, op0 := .imm 1 }),
    (0x4383F8C0F8070000380001C0000E00003DE0F000, .modesetFclr { bare with variant := 3, op0 := .imm 7936 })
  ] = true := by decide +kernel

/-- floating point (07 Table 7.1). -/
theorem test_words_floating_point_2 : readsAs [
    (0x43C0F82020070000380001C0000E00003DE0F000, .modeget { bare with op0 := .w 1 }),
    (0x43C1F82020070000380001C0000E00003DE0F000, .modegetClr { bare with variant := 1, op0 := .w 1 }),
    (0x4400F80020070000380001C0000E00003DE0F000, .seed { bare with op0 := .v 1 false .ident }),
    (0x4401F8C0026F0000380001C0000E00003DE0F000, .seedLane { bare with variant := 1, op0 := .imm 77 }),
    (0x4800800020000200001801C0000E00003DE0F000, .cmul { bare with
      ty := .c32, op0 := .v 1 false .ident, op1 := .v 2 false .ident, op2 := .v 3 false .ident }),
    (0x484084002000020000180001000E00003DE0F000, .cfma { bare with
      ty := .c32, rounding := 4, op0 := .v 1 false .ident, op1 := .v 2 false .ident, op2 := .v 3 false .ident
      op3 := .v 4 false .ident }),
    (0x4880800020000200001801C0000E00003DE0F000, .cmulj { bare with
      ty := .c32, op0 := .v 1 false .ident, op1 := .v 2 false .ident, op2 := .v 3 false .ident }),
    (0x48C0800020000200380001C0000E00003DE0F000, .cconj { bare with
      ty := .c32, op0 := .v 1 false .ident, op1 := .v 2 false .ident }),
    (0x4900800020000200380001C0000E00003DE0F000, .cabs2 { bare with
      ty := .c32, op0 := .v 1 false .ident, op1 := .v 2 false .ident }),
    (0x7000500020000200380001C0000E00003DE0F000, .rcp { bare with
      ty := .f32, op0 := .v 1 false .ident, op1 := .v 2 false .ident }),
    (0x7040500020000200380001C0000E00003DE0F000, .rsq { bare with
      ty := .f32, op0 := .v 1 false .ident, op1 := .v 2 false .ident }),
    (0x7080580020000200380001C0000E00003DE0F000, .sqrta { bare with
      ty := .f16, op0 := .v 1 false .ident, op1 := .v 2 false .ident }),
    (0x70C0500020000200380001C0000E00003DE0F000, .ex2 { bare with
      ty := .f32, op0 := .v 1 false .ident, op1 := .v 2 false .ident }),
    (0x7100500020000200380001C0000E00003DE0F000, .lg2 { bare with
      ty := .f32, op0 := .v 1 false .ident, op1 := .v 2 false .ident }),
    (0x7140500020000200380001C0000E00003DE0F000, .sinpi { bare with
      ty := .f32, op0 := .v 1 false .ident, op1 := .v 2 false .ident }),
    (0x7180500020000200380001C0000E00003DE0F000, .cospi { bare with
      ty := .f32, op0 := .v 1 false .ident, op1 := .v 2 false .ident }),
    (0x71C0800020000200380001C0000E00003DE0F000, .cispi { bare with
      ty := .c32, op0 := .v 1 false .ident, op1 := .v 2 false .ident }),
    (0x7200500020000200380001C0000E00003DE0F000, .tanh { bare with
      ty := .f32, op0 := .v 1 false .ident, op1 := .v 2 false .ident }),
    (0x7240500020000200380001C0000E00003DE0F000, .sigm { bare with
      ty := .f32, op0 := .v 1 false .ident, op1 := .v 2 false .ident }),
    (0x7280C00020000200380001C0000E00003DE0F000, .erf { bare with
      ty := .bf16x4, op0 := .v 1 false .ident, op1 := .v 2 false .ident })
  ] = true := by decide +kernel

/-- scratchpad, queues, tasks (08 Table 8.1, 09 Table 9.8). -/
theorem test_words_scratchpad_queues_tasks_1 : readsAs [
    (0x800048002001020037FFF1C0000E00003DE0F000, .lds { bare with
      ty := .b64, op0 := .v 1 false .ident, op1 := .w 2, op2 := .imm 262136 }),
    (0x8040200020060000F7FFFFC0000E00003DE0F000, .sts { bare with
      ty := .n8, op0 := .v 1 false .ident, op1 := .imm 3, op2 := .imm 262143 }),
    (0x8080F8C20001040030010180040C08003DE02005, .copy { bare with
      op0 := .imm 16384, op1 := .w 4, op2 := .imm 128, op3 := .imm 64, op4 := .imm 4096, counter := 2, mods := 0x05 }),
    (0x80C0F8208006000008280180001DFFFC3DE0B000, .copyout { bare with
      op0 := .w 4, op1 := .imm 0, op2 := .w 5, op3 := .imm 1, op4 := .imm 262136, counter := 11 }),
    (0x8100F82020060020380001C0000E00003DE0F000, .spclr { bare with op0 := .w 1, op1 := .imm 128 }),
    (0x8140F8202006040008100180060E00003DE03000, .spmap { bare with
      op0 := .w 1, op1 := .imm 4096, op2 := .w 2, op3 := .imm 96, counter := 3 }),
    (0x8180F8C080070000380001C0000E00003DE03000, .spunmap { bare with op0 := .imm 4096, counter := 3 }),
    (0x81C0F82020070000380001C0000E00003DE03000, .spwb { bare with op0 := .w 1, counter := 3 }),
    (0x9000F8A040060400100801C0000E00003DE0F000, .qbindPop { bare with op0 := .q 2, op1 := .imm 4096, op2 := .p 1 }),
    (0x9001F8A1E0010300380001C0000E00003DE0F000, .qbindPush { bare with variant := 1, op0 := .q 15, op1 := .w 3 }),
    (0x9040F8A040070000380001C0000E00003DE0F000, .qunbind { bare with op0 := .q 2 }),
    (0x9080F82020060020300019C0000E00003DE0F000, .qinit { bare with op0 := .w 1, op1 := .imm 128, op2 := .imm 12 }),
    (0x9081F82020060020380001C0000E00003DE0F000, .qinitDrop { bare with variant := 1, op0 := .w 1, op1 := .imm 128 }),
    (0x90C0F80020050200101801C0000E00003DE0F000, .qtry { bare with op0 := .v 1 false .ident, op1 := .q 2, op2 := .p 3 })
  ] = true := by decide +kernel

/-- scratchpad, queues, tasks (08 Table 8.1, 09 Table 9.8). -/
theorem test_words_scratchpad_queues_tasks_2 : readsAs [
    (0x9100F82020050200101801C0000E00003DE0F000, .qpeek { bare with op0 := .w 1, op1 := .q 2, op2 := .p 3 }),
    (0x9140F8A040070000380001C0000E00003DE0F000, .qclose { bare with op0 := .q 2 }),
    (0x9180F82020050200380001C0000E00003DE0F000, .qlen { bare with op0 := .w 1, op1 := .q 2 }),
    (0x91C0F82020060001F0010180200E00003DE0F000, .dqset { bare with
      op0 := .w 1, op1 := .imm 7, op2 := .imm 128, op3 := .imm 512 }),
    (0x91C1F82020010200380001C0000E00003DE0F000, .dqsetClr { bare with variant := 1, op0 := .w 1, op1 := .w 2 }),
    (0x9200F84020010800300005C0000E00003DE0F000, .spawn { bare with op0 := .p 1, op1 := .w 8, op2 := .imm 2 }),
    (0x9240F82100020100300005C0000E00003DE0F000, .poptask { bare with op0 := .w 8, op1 := .p 1, op2 := .imm 2 }),
    (0x9280F82100020100300005C0000E00003DE0F000, .stealAny { bare with op0 := .w 8, op1 := .p 1, op2 := .imm 2 }),
    (0x9281F8210002010030000780002E00003DE0F000, .stealAt { bare with
      variant := 1, op0 := .w 8, op1 := .p 1, op2 := .imm 3, op3 := .imm 2 }),
    (0x92C0F8E000070000380001C0000E00003DE0F000, .taskdone bare),
    (0x9300F84020010200380001C0000E00003DE0F000, .phasebegin { bare with op0 := .p 1, op1 := .w 2 }),
    (0x9340F84020010200380001C0000E00003DE0F000, .phasewait { bare with op0 := .p 1, op1 := .w 2 }),
    (0x9341F84020010200380001C0000E00003DE0F000, .phasewaitTry { bare with variant := 1, op0 := .p 1, op1 := .w 2 })
  ] = true := by decide +kernel

/-- barriers and the matrix engine (10 Table 10.1, 11 Table 11.7). -/
theorem test_words_barriers_and_the_matrix_engine_1 : readsAs [
    (0xA000F8C0005E000FF80001C0000E00003DE0F000, .waitle { bare with op0 := .imm 11, op1 := .imm 63 }),
    (0xA040F8202006003FF80001C0000E00003DE0F000, .barinit { bare with op0 := .w 1, op1 := .imm 255 }),
    (0xA080F82020060000300081C0000E00003DE0F000, .bararr { bare with op0 := .w 1, op1 := .imm 0, op2 := .imm 64 }),
    (0xA0C0F8C000190200380001C0000E00003DE0F000, .barwait { bare with op0 := .imm 3, op1 := .w 2 }),
    (0xA100F82020060000780001C0000E00003DE0F000, .barsync { bare with op0 := .w 1, op1 := .imm 1 }),
    (0xA140F8C0001E4000380001C0000E00003DE0F000, .tbarSync { bare with op0 := .imm 3, op1 := .imm 65536 }),
    (0xA141F82020060000081001C0000E00003DE0F000, .tbarArr { bare with
      variant := 1, op0 := .w 1, op1 := .imm 0, op2 := .w 2 }),
    (0xA142F8C000110100380001C0000E00003DE0F000, .tbarWait { bare with variant := 2, op0 := .imm 2, op1 := .w 1 }),
    (0xA800F82020060004380001C0000E00003DE0F000, .gang { bare with op0 := .w 1, op1 := .imm 16 }),
    (0xA840F863E0010100081001C0000E00003DE0F000, .tdesc { bare with op0 := .t 31, op1 := .w 1, op2 := .w 2 }),
    (0xA880508020030400182801C0000E00003DE03010, .mma { bare with
      ty := .f32, op0 := .a 1, op1 := .t 4, op2 := .t 5, counter := 3, mods := 0x10 })
  ] = true := by decide +kernel

/-- barriers and the matrix engine (10 Table 10.1, 11 Table 11.7). -/
theorem test_words_barriers_and_the_matrix_engine_2 : readsAs [
    (0xA8C0508020030400182800C180060E003DE00000, .mmas { bare with
      ty := .f32, op0 := .a 1, op1 := .t 4, op2 := .t 5, op3 := .t 6, op4 := .t 7, counter := 0 }),
    (0xA900F881E0070000380001C0000E00003DE0F000, .aclr { bare with op0 := .a 15 }),
    (0xA94060802001020037FFE1C0000E00003DE11000, .ald { bare with
      ty := .bf16, op0 := .a 1, op1 := .w 2, op2 := .imm 262128, hint := 1, counter := 1 }),
    (0xA980592040060004200801C0000E00003DE01400, .ast { bare with
      ty := .f16, rounding := 1, op0 := .w 2, op1 := .imm 16, op2 := .a 1, counter := 1, sat := true }),
    (0xA9C0F88020040100380001C0000E00003DE0F000, .amovCopy { bare with op0 := .a 1, op1 := .a 1 }),
    (0xA9C1F88020040200380001C0000E00003DE0F000, .amovTr { bare with variant := 1, op0 := .a 1, op1 := .a 2 }),
    (0xA9C2F800200402003000FF80040E00003DE0F000, .amovGet { bare with
      variant := 2, op0 := .v 1 false .ident, op1 := .a 2, op2 := .imm 127, op3 := .imm 64 }),
    (0xA9C3F8804000010030000180060E00003DE0F000, .amovPut { bare with
      variant := 3, op0 := .a 2, op1 := .v 1 false .ident, op2 := .imm 0, op3 := .imm 96 }),
    (0xAA02100020040200300005C0000E00003DE0F400, .ared { bare with
      variant := 2, ty := .i32, op0 := .v 1 false .ident, op1 := .a 2, op2 := .imm 2, sat := true }),
    (0xAA40568020040200001801C0000C00023DE0F002, .aepi { bare with
      ty := .f32, rounding := 6, op0 := .a 1, op1 := .a 2, op2 := .v 3 false .ident, op4 := .imm 4, mods := 0x02 }),
    (0xAA80F8E000070000380001C0000E00003DE0F000, .arel bare)
  ] = true := by decide +kernel

/-- memory (12 Tables 12.3, 12.4, 13 R312, 14 R328). -/
theorem test_words_memory_1 : readsAs [
    (0xC00048002001020037FFF1C0000E00003DE2F000, .ld { bare with
      ty := .b64, op0 := .v 1 false .ident, op1 := .w 2, op2 := .imm 262136, hint := 2 }),
    (0xC04028002006000237FFFFC0000E00003DE0F000, .st { bare with
      ty := .n16, op0 := .v 1 false .ident, op1 := .imm 8, op2 := .imm 262143 }),
    (0xC0804800C001040000100180003E00003DE0F000, .ldx { bare with
      ty := .b64, op0 := .v 6 false .ident, op1 := .w 4, op2 := .v 2 false .ident, op3 := .imm 3 }),
    (0xC0C000208000020030000E40C00E00003DE3F000, .stx { bare with
      ty := .i8, op0 := .w 4, op1 := .v 2 false .ident, op2 := .imm 7, op3 := .w 3, hint := 3 }),
    (0xC100F80020060000380001C0000E00003DE0F000, .prefL2 { bare with op0 := .v 1 false .ident, op1 := .imm 0 }),
    (0xC101F80020060000380001C0000E00003DE0F000, .prefMsc { bare with
      variant := 1, op0 := .v 1 false .ident, op1 := .imm 0 }),
    (0xC102F80020060000380001C0000E00003DE0F000, .prefCore { bare with
      variant := 2, op0 := .v 1 false .ident, op1 := .imm 0 }),
    (0xC14748002000020000180041000E00003DE0F000, .atom { bare with
      variant := 7, ty := .b64, op0 := .v 1 false .ident, op1 := .v 2 false .ident, op2 := .v 3 false .ident
      op3 := .w 4 }),
    (0xC18048004000050000300002000E00003DE0F000, .atomrCas { bare with
      ty := .b64, op0 := .v 2 false .ident, op1 := .v 5 false .ident, op2 := .v 6 false .ident
      op3 := .v 8 false .ident }),
    (0xC181480040000500003001C0000E00003DE0F000, .atomrSwap { bare with
      variant := 1, ty := .b64, op0 := .v 2 false .ident, op1 := .v 5 false .ident, op2 := .v 6 false .ident }),
    (0xC1C0100020000200380001C0000E00003DE04400, .red { bare with
      ty := .i32, op0 := .v 1 false .ident, op1 := .v 2 false .ident, counter := 4, sat := true })
  ] = true := by decide +kernel

/-- memory (12 Tables 12.3, 12.4, 13 R312, 14 R328). -/
theorem test_words_memory_2 : readsAs [
    (0xC200B00020000200380001C0000E00003DE05000, .redfAdd { bare with
      ty := .f32x2, op0 := .v 1 false .ident, op1 := .v 2 false .ident, counter := 5 }),
    (0xC201F82020060100380001C0000E00003DE0F000, .redfFlush { bare with variant := 1, op0 := .w 1, op1 := .imm 1024 }),
    (0xC240F82020010200302001C0000E00003DE06003, .bulkCopy { bare with
      op0 := .w 1, op1 := .w 2, op2 := .imm 4096, counter := 6, mods := 0x03 }),
    (0xC241F8202006FFFFC81801C0000E00003DE06000, .bulkFill { bare with
      variant := 1, op0 := .w 1, op1 := .imm 262143, op2 := .w 3, counter := 6 }),
    (0xE000F8E000070000380001C0000E00003DE0F008, .esyncBoth { bare with mods := 0x08 }),
    (0xE001F8E000070000380001C0000E00003DE0F004, .esyncIn { bare with variant := 1, mods := 0x04 }),
    (0xE002F8E000070000380001C0000E00003DE0F000, .esyncOut { bare with variant := 2 }),
    (0xE040F80020000200380001C0000E00003DE0F000, .probeR { bare with op0 := .v 1 false .ident, op1 := .v 2 false .ident }),
    (0xE041F82020010200380001C0000E00003DE0F000, .probeW { bare with variant := 1, op0 := .w 1, op1 := .w 2 }),
    (0xE042F80020010200380001C0000E00003DE0F000, .probeX { bare with
      variant := 2, op0 := .v 1 false .ident, op1 := .w 2 })
  ] = true := by decide +kernel

/-- tracing, builders, launches (15 Table 15.7, 16 Table 16.4, 17 R389). -/
theorem test_words_tracing_builders_launches_1 : readsAs [
    (0xE800F82020060001C84001C0000E00003DE0F000, .asbind { bare with op0 := .w 1, op1 := .imm 7, op2 := .w 8 }),
    (0xE801F82020060000380001C0000E00003DE0F000, .asbindClose { bare with variant := 1, op0 := .w 1, op1 := .imm 0 }),
    (0xE802F82020010200380001C0000E00003DE0F000, .asbindClr { bare with variant := 2, op0 := .w 1, op1 := .w 2 }),
    (0xE840F8C00000040008100002000E00003DE07000, .trace { bare with
      op0 := .imm 0, op1 := .v 4 false .ident, op2 := .w 2, op3 := .v 8 false .ident, counter := 7 }),
    (0xE880F8004001010000200002400E00003DE07000, .tracew { bare with
      op0 := .v 2 false .ident, op1 := .w 1, op2 := .v 4 false .ident, op3 := .v 9 false .ident, counter := 7 }),
    (0xE8C0F80020070000380001C0000E00003DE0F000, .hitacc { bare with op0 := .v 1 false .ident }),
    (0xE8C1F82020070000380001C0000E00003DE0F000, .hitaccEnd { bare with variant := 1, op0 := .w 1 }),
    (0xE900F80020070000380001C0000E00003DE0F000, .hitign { bare with op0 := .v 1 false .ident }),
    (0xE940F8402000010000200002400E00003DE0F000, .rayspawn { bare with
      op0 := .p 1, op1 := .v 1 false .ident, op2 := .v 4 false .ident, op3 := .v 9 false .ident }),
    (0xE980F80020070000380001C0000E00003DE0F000, .rayterm { bare with op0 := .v 1 false .ident }),
    (0xE9C0F8002000020030003FC0000E00003DE0F000, .rload { bare with
      op0 := .v 1 false .ident, op1 := .v 2 false .ident, op2 := .imm 31 })
  ] = true := by decide +kernel

/-- tracing, builders, launches (15 Table 15.7, 16 Table 16.4, 17 R389). -/
theorem test_words_tracing_builders_launches_2 : readsAs [
    (0xE9C1F82020060001F00007C0000E00003DE0F000, .rloadSlot { bare with
      variant := 1, op0 := .w 1, op1 := .imm 7, op2 := .imm 3 }),
    (0xF000F8402001020000180041000E00003DE0F000, .clemit { bare with
      op0 := .p 1, op1 := .w 2, op2 := .v 3 false .ident, op3 := .w 4 }),
    (0xF040F82040011000380001C0000E00003DE03006, .build { bare with
      op0 := .w 2, op1 := .w 16, counter := 3, mods := 0x06 }),
    (0xF080F82040010800380001C0000E00003DE03000, .refit { bare with op0 := .w 2, op1 := .w 8, counter := 3 }),
    (0xF081F82040010800380001C0000E00003DE03000, .refitInplace { bare with
      variant := 1, op0 := .w 2, op1 := .w 8, counter := 3 }),
    (0xF0C0F8402001020031FFFFBFFFFE00003DE0F000, .sfwait { bare with
      op0 := .p 1, op1 := .w 2, op2 := .imm 65535, op3 := .imm 262143 }),
    (0xF0C1F8402001020008180041000E00003DE0F000, .sfwaitTry { bare with
      variant := 1, op0 := .p 1, op1 := .w 2, op2 := .w 3, op3 := .w 4 }),
    (0xF100F82020060001C81001C0000E00003DE0F000, .genadv { bare with op0 := .w 1, op1 := .imm 7, op2 := .w 2 }),
    (0xF140F82040010800380001C0000E00003DE03000, .compact { bare with op0 := .w 2, op1 := .w 8, counter := 3 }),
    (0xF400F82020010200084001C0000E00003DE09000, .launch { bare with
      op0 := .w 1, op1 := .w 2, op2 := .w 8, counter := 9 }),
    (0xF440F82080060004780001C0000E00003DE0F000, .notify { bare with op0 := .w 4, op1 := .imm 17 })
  ] = true := by decide +kernel

/-- 17 Table 17.4. -/
theorem test_words_nibex : ([
    (0x00000000, .nxHalt ⟨0, 0, 0x0⟩),
    (0x0A000007, .nxLdc ⟨2, 0, 0x7⟩),
    (0x131FFFFF, .nxLdi ⟨3, 0, 0x1FFFFF⟩),
    (0x195FFFFB, .nxAddi ⟨1, 2, 0x1FFFFB⟩),
    (0x21400000, .nxAdd ⟨1, 2, 0x0⟩),
    (0x2EE00000, .nxAnd ⟨6, 7, 0x0⟩),
    (0x3100003F, .nxShr ⟨1, 0, 0x3F⟩),
    (0x39000003, .nxShl ⟨1, 0, 0x3⟩),
    (0x41400010, .nxLdm ⟨1, 2, 0x10⟩),
    (0x495FFFF8, .nxStm ⟨1, 2, 0x1FFFF8⟩),
    (0x51400001, .nxBeq ⟨1, 2, 0x1⟩),
    (0x59400002, .nxBne ⟨1, 2, 0x2⟩),
    (0x61400003, .nxBltu ⟨1, 2, 0x3⟩),
    (0x69000001, .nxDjnz ⟨1, 0, 0x1⟩),
    (0x71400000, .nxNlaunch ⟨1, 2, 0x0⟩),
    (0x79400005, .nxNcopy ⟨1, 2, 0x5⟩),
    (0x81400003, .nxNbuild ⟨1, 2, 0x3⟩),
    (0x88000000, .nxNwait ⟨0, 0, 0x0⟩),
    (0x91400000, .nxNdone ⟨1, 2, 0x0⟩)] : List (Nat × Instr)).all
    (fun x => decodeNibex (BitVec.ofNat 32 x.1) == some x.2) = true := by decide +kernel

end Sys2Proof.Tests
end

