-- ==== Sys2Proof/Tests/Whole.lean ====
section
/-! SUPPORT. States and operands that meet the hypotheses of the rules, the frames, and the statements about the whole machine. -/
set_option Elab.async false
namespace Sys2Proof.Tests
open Sys2Proof.Machine Sys2Proof.Safety

/-! ### What a bundle runs an instruction on -/

/-- The state and operands an instruction works on, where the bundle that State names runs it. -/
def runsOn (r : Row) (f : Fields) (s : State) : Option (State × Cur × Option (Nat × Nat) × Iss) :=
  match s.cur with
  | none => none
  | some c =>
    match s.warp? c.wid with
    | none => none
    | some w =>
      match s.ringReady c.wid w c.pc r.enc f (activeLanes w f c.lanes).count with
      | .ready pop push bs =>
        let t := s.deliver c.wid r.enc f (activeLanes w f c.lanes) pop bs
        let i := c.iss (t.1.popped c.wid w) r.enc f (activeLanes w f c.lanes) t.2
        if Ready r.enc f (r.level f) s c w ∧ r.eff.cond i t.1 = true
            ∧ Covered (r.eff.st i t.1) r.enc f c (r.eff.ws i t.1) then some (t.1, c, push, i) else none
      | _ => none

theorem runsOn_runs {r : Row} {f : Fields} {s : State} {x : State × Cur × Option (Nat × Nat) × Iss}
    (h : runsOn r f s = some x) : r.Runs f s x.1 x.2.1 x.2.2.1 x.2.2.2 := by
  unfold runsOn at h
  split at h
  · cases h
  · next c hc =>
    split at h
    · cases h
    · next w hw =>
      split at h
      · next pop push bs hq =>
        dsimp only at h
        split at h
        · next hr =>
          cases h
          exact ⟨⟨w, hr.1, pop, bs, _, hq, rfl, rfl⟩, hr.2.1, hr.2.2⟩
        · cases h
      · cases h

/-- The bundle runs the instruction, on operands for which `p` holds. -/
def runsWith (r : Row) (f : Fields) (s : State) (p : State → Cur → Iss → Bool) : Bool :=
  (runsOn r f s).any fun x => p x.1 x.2.1 x.2.2.2

/-- What `runsWith` says. -/
theorem runsWith_runs {r : Row} {f : Fields} {s : State} {p : State → Cur → Iss → Bool} (h : runsWith r f s p = true) :
    ∃ s1 c push i, r.Runs f s s1 c push i ∧ p s1 c i = true := by
  unfold runsWith at h
  cases hx : runsOn r f s with
  | none => rw [hx] at h; cases h
  | some x => rw [hx] at h; exact ⟨_, _, _, _, runsOn_runs hx, h⟩

/-- An instruction's next state, of a bundle in a slot. -/
def goesOn (r : Row) (f : Fields) (s : State) : Bool :=
  runsWith r f s (fun _ c _ => decide (c.wid < 320 * 64)) && match exec (r.ins f) s with
    | .next _ => true
    | _ => false
def allGoOn (rows : List Row) (s : State) : Bool := rows.all fun r => goesOn r (sample r.enc) s

/-! ### Rules (06, 07 R158) -/

def shaped (encs : List Enc) (ws : Iss → List Wr) : Bool :=
  encs.all fun e => (row .nop e (writes ws)).meets (sample e) demo

theorem witness_arithmetic_rules : shaped [Enc.iadd, Enc.isub, Enc.imul, Enc.imad, Enc.imulh, Enc.imulhSu, Enc.imadwLo,
    Enc.imadwHi, Enc.idiv, Enc.irem, Enc.imin, Enc.imax, Enc.iabs] (fun i => i.dest fun _ => 0) = true := by decide +kernel
theorem witness_signed_upper : Enc.legal 16 16 Enc.imulhSu (sample Enc.imulhSu) = true := by decide +kernel
theorem witness_shift_rules : shaped [Enc.shl, Enc.shr, Enc.sar, Enc.rotL, Enc.rotR, Enc.fshlL, Enc.fshlR]
    (fun i => i.dest fun _ => 0) = true := by decide +kernel
theorem witness_logic_rules : shaped [Enc.andB, Enc.orB, Enc.xor, Enc.andn, Enc.lop3, Enc.popc, Enc.clz, Enc.ctz, Enc.brev,
    Enc.bfx, Enc.bfi] (fun i => i.dest fun _ => 0) = true := by decide +kernel
theorem witness_compare_rules : shaped [Enc.icmp] (fun i => predTo i i.f.op0 fun _ => false) = true
    ∧ shaped [Enc.iaddcC, Enc.iaddcB] (fun i => i.dest (fun _ => 0) ++ decisions i 1 fun _ _ => false) = true
    ∧ shaped [Enc.lea, Enc.sad] (fun i => i.dest fun _ => 0) = true
    ∧ shaped [Enc.acsPm, Enc.acsMp] (fun i => i.dest (fun _ => 0) ++ decisions i 4 fun _ _ => false) = true := by
  decide +kernel
theorem witness_float_rules : shaped [Enc.fadd, Enc.fsub, Enc.fmul, Enc.ffma, Enc.fdot2, Enc.fscale, Enc.fdiv, Enc.fsqrt, Enc.cmul,
    Enc.cfma, Enc.cmulj, Enc.cabs2] (fun i => i.dest fun _ => 0) = true := by decide +kernel
theorem witness_conversion_rules : shaped [Enc.fmin, Enc.fmax, Enc.frnd, Enc.frndX, Enc.fcvt] (fun i => i.dest fun _ => 0) = true
    ∧ shaped [Enc.fcmp] (fun i => predTo i i.f.op0 fun _ => false) = true := by decide +kernel
theorem witness_mode_rules : ([Enc.modesetAll, Enc.modesetRm, Enc.modesetFtz, Enc.modesetFclr].all fun e =>
    runsWith (row .nop e (writes fun _ => [])) (sample e) demo fun _ c _ => decide (c.wid < 320 * 64)) = true := by
  decide +kernel

/-- Something holds of the warp in a slot. -/
theorem ofWarp {s : State} {n : Nat} {p : Warp → Prop} [DecidablePred p]
    (h : (s.warp? n).any (fun w => decide (p w)) = true) : ∃ w, s.warp? n = some w ∧ p w := by
  cases hw : s.warp? n with
  | none => rw [hw] at h; cases h
  | some w => rw [hw] at h; exact ⟨w, rfl, of_decide_eq_true h⟩

/-- `?!p15 MODESET` of each variant. -/
def never (e : Enc) : Fields := { sample e with guardA := ⟨true, 15⟩ }
theorem witness_mode_left : ∀ e ∈ [Enc.modesetAll, Enc.modesetRm, Enc.modesetFtz, Enc.modesetFclr],
    ∃ w, demo.warp? 0 = some w ∧ Enc.legal w.width w.nw e (never e) = true ∧ w.interlocked e (never e) = false
      ∧ w.faultPcs.contains demoCur.pc = false ∧ demo.ringBinding 0 w e (never e) = none
      ∧ (w.strict = true → (vectorSources e (never e)).all w.mapped = true)
      ∧ activeLanes w (never e) demoCur.lanes = 0 := by
  intro e he
  simp only [List.mem_cons, List.not_mem_nil, or_false] at he
  rcases he with rfl | rfl | rfl | rfl <;> exact ofWarp (by decide +kernel)

/-! ### Writes (05 R104, R105) -/

/-- The demonstration warp has sixteen lanes and one mapped register, and its bundle all lanes. -/
def demoMapped : State := demoWith (vreg 4 7)
theorem has_lt {l : Nat} (h : (0xFFFF#64).getLsbD l = true) : l < 16 := by
  by_cases h1 : l < 64
  · revert h; revert l; decide
  · rw [BitVec.getLsbD_of_ge _ _ (by omega)] at h; cases h
theorem witness_vector_write : ∃ w, demoMapped.warp? 0 = some w ∧ (sample Enc.mov).op0 = .v 4 false .ident
    ∧ (∀ k r, AMap.get w.v k = some r → r.lanes.length = w.width)
    ∧ ∀ l, (activeLanes w (sample Enc.mov) demoCur.lanes).has l = true → l < w.width := by
  obtain ⟨w, h, h1, h2, h3⟩ := ofWarp (s := demoMapped) (n := 0)
    (p := fun w => w.v = [(4, ⟨List.replicate 16 7, false⟩)] ∧ w.width = 16
      ∧ activeLanes w (sample Enc.mov) demoCur.lanes = 0xFFFF) (by decide +kernel)
  refine ⟨w, h, by decide, fun k r hr => ?_, fun l hl => ?_⟩
  · rw [h1] at hr
    unfold AMap.get at hr
    rw [h2]
    split at hr
    · cases hr; rfl
    · cases hr
  · rw [h3] at hl; rw [h2]; exact has_lt hl
theorem witness_other_writes : (∃ w, demo.warp? demoCur.wid = some w) ∧ isSlot demoCur.wid ∧ 63 < 64 :=
  ⟨(ofWarp (p := fun _ => True) (by decide +kernel)).imp fun _ h => h.1, show 0 < 320 * 64 by decide, by decide⟩

/-! ### Before an instruction's own effect -/

/-- An instruction of a guard that no lane meets. -/
theorem witness_no_active : ∃ w, Named (.iadd (never Enc.iadd)) demo Enc.iadd (never Enc.iadd) demoCur w
    ∧ Unheld (.iadd (never Enc.iadd)) demo Enc.iadd (never Enc.iadd) demoCur w
    ∧ (w.strict = true → (vectorSources Enc.iadd (never Enc.iadd)).all w.mapped = true)
    ∧ activeLanes w (never Enc.iadd) demoCur.lanes = 0 := by
  obtain ⟨w, h, h1⟩ := ofWarp (s := demo) (n := 0) (p := fun w =>
    w.sending = none ∧ Unheld (.iadd (never Enc.iadd)) demo Enc.iadd (never Enc.iadd) demoCur w
    ∧ (w.strict = true → (vectorSources Enc.iadd (never Enc.iadd)).all w.mapped = true)
    ∧ activeLanes w (never Enc.iadd) demoCur.lanes = 0) (by decide +kernel)
  exact ⟨w, ⟨rfl, rfl, h, h1.1⟩, h1.2⟩

/-- A strict kernel that reads v8 and v12, which nothing has mapped. -/
def demoStrict : State := demoWith fun w => { w with strict := true }
theorem witness_strict : ∃ w, Named (.iadd (sample Enc.iadd)) demoStrict Enc.iadd (sample Enc.iadd) demoCur w
    ∧ Unheld (.iadd (sample Enc.iadd)) demoStrict Enc.iadd (sample Enc.iadd) demoCur w ∧ isSlot demoCur.wid
    ∧ w.strict = true ∧ (vectorSources Enc.iadd (sample Enc.iadd)).all w.mapped = false ∧ w.mapped 8 = false := by
  obtain ⟨w, h, h1⟩ := ofWarp (s := demoStrict) (n := 0) (p := fun w =>
    w.sending = none ∧ Unheld (.iadd (sample Enc.iadd)) demoStrict Enc.iadd (sample Enc.iadd) demoCur w
    ∧ (demoCur.wid < 320 * 64) ∧ w.strict = true ∧ (vectorSources Enc.iadd (sample Enc.iadd)).all w.mapped = false ∧ w.mapped 8 = false)
    (by decide +kernel)
  exact ⟨w, ⟨rfl, rfl, h, h1.1⟩, h1.2⟩

/-- RED with set-counter c3, which reads 63. -/
def counted : Fields := { sample Enc.red with counter := 3 }
def demoFull : State := demoWith fun w => { w with counters := [(3, 63)] }
theorem witness_full_counter : ∃ w, Named (.red counted) demoFull Enc.red counted demoCur w
    ∧ Unheld (.red counted) demoFull Enc.red counted demoCur w
    ∧ (w.strict = true → (vectorSources Enc.red counted).all w.mapped = true)
    ∧ activeLanes w counted demoCur.lanes ≠ 0
    ∧ counterOf counted = some 3 ∧ w.counter 3 = 63 := by
  obtain ⟨w, h, h1⟩ := ofWarp (s := demoFull) (n := 0) (p := fun w =>
    w.sending = none ∧ Unheld (.red counted) demoFull Enc.red counted demoCur w
    ∧ (w.strict = true → (vectorSources Enc.red counted).all w.mapped = true)
    ∧ activeLanes w counted demoCur.lanes ≠ 0
    ∧ counterOf counted = some 3 ∧ w.counter 3 = 63) (by decide +kernel)
  exact ⟨w, ⟨rfl, rfl, h, h1.1⟩, h1.2⟩

/-- IADD of no type. -/
theorem witness_illegal : ∃ w, Named (.iadd plainFields) demo Enc.iadd plainFields demoCur w
    ∧ Enc.legal w.width w.nw Enc.iadd plainFields = false := by
  obtain ⟨w, h, h1⟩ := ofWarp (s := demo) (n := 0) (p := fun w =>
    w.sending = none ∧ Enc.legal w.width w.nw Enc.iadd plainFields = false) (by decide +kernel)
  exact ⟨w, ⟨rfl, rfl, h, h1.1⟩, h1.2⟩

/-- HRET at user level, and SRD of TCAUSE and SWR of TEPC. -/
def ofTcause : Fields := { sample Enc.srd with op1 := .imm 2 }
def toTepc : Fields := { sample Enc.swr with op0 := .imm 4 }
theorem witness_user_level : (∃ w, Named (.hret plainFields) demo Enc.hret plainFields demoCur w
      ∧ Enc.legal w.width w.nw Enc.hret plainFields = true ∧ needsHandler (.hret plainFields) = true
      ∧ w.handler = false)
    ∧ (∃ w, Named (.srd ofTcause) demo Enc.srd ofTcause demoCur w
      ∧ Enc.legal w.width w.nw Enc.srd ofTcause = true ∧ needsHandler (.srd ofTcause) = true ∧ w.handler = false)
    ∧ ∃ w, Named (.swr toTepc) demo Enc.swr toTepc demoCur w
      ∧ Enc.legal w.width w.nw Enc.swr toTepc = true ∧ needsHandler (.swr toTepc) = true ∧ w.handler = false := by
  refine ⟨?_, ?_, ?_⟩
  · obtain ⟨w, h, h1⟩ := ofWarp (s := demo) (n := 0) (p := fun w => w.sending = none
      ∧ Enc.legal w.width w.nw Enc.hret plainFields = true ∧ needsHandler (.hret plainFields) = true ∧ w.handler = false)
      (by decide +kernel)
    exact ⟨w, ⟨rfl, rfl, h, h1.1⟩, h1.2⟩
  · obtain ⟨w, h, h1⟩ := ofWarp (s := demo) (n := 0) (p := fun w => w.sending = none
      ∧ Enc.legal w.width w.nw Enc.srd ofTcause = true ∧ needsHandler (.srd ofTcause) = true ∧ w.handler = false)
      (by decide +kernel)
    exact ⟨w, ⟨rfl, rfl, h, h1.1⟩, h1.2⟩
  · obtain ⟨w, h, h1⟩ := ofWarp (s := demo) (n := 0) (p := fun w => w.sending = none
      ∧ Enc.legal w.width w.nw Enc.swr toTepc = true ∧ needsHandler (.swr toTepc) = true ∧ w.handler = false)
      (by decide +kernel)
    exact ⟨w, ⟨rfl, rfl, h, h1.1⟩, h1.2⟩

/-! ### Traps: a warp and its context, for each way a trap goes -/

/-- The demonstration context delegates, or leaves to the supervisor, every cause of a mask. -/
def routing (deleg supv : Word) (s : State) : State := s.modCtx 0 fun k => { k with deleg := deleg, supv := supv }
theorem witness_traps : ∀ s ∈ [demoHandler, routing (~~~0) 0 (demoWith fun w => { w with hvec := placeHeader }),
      routing 0 (~~~0) demo, routing (~~~0) 0 demo, demo],
    ∃ w k, s.warp? 0 = some w ∧ isSlot 0 ∧ AMap.get s.ctxs w.ctx = some k := by
  intro s hs
  have h : ∃ w, s.warp? 0 = some w ∧ (AMap.get s.ctxs w.ctx).isSome = true := by
    simp only [List.mem_cons, List.not_mem_nil, or_false] at hs
    rcases hs with rfl | rfl | rfl | rfl | rfl <;> exact ofWarp (by decide +kernel)
  obtain ⟨w, h1, h2⟩ := h
  obtain ⟨k, h3⟩ := Option.isSome_iff_exists.1 h2
  exact ⟨w, k, h1, show 0 < 320 * 64 by decide, h3⟩

/-- Address 1 in v4, v8, w4 and w8, and an access of more than a byte. -/
def demoSkewed : State := demoWith fun w => regs [(4, 1), (8, 1)] (vreg 4 1 (vreg 8 1 w))
def wider (e : Enc) : Fields :=
  { sample e with
    ty := if e.types.contains .b64 then .b64 else .f32
    variant := if e.opcode = 0x305 ∨ e.opcode = 0x307 then 3 else (sample e).variant
    op3 := if e.opcode = 0x305 then .absent else (sample e).op3 }
theorem witness_misaligned : (accessors.all fun x => runsWith (row x.ins x.enc {}) (wider x.enc) demoSkewed fun _ _ i =>
    i.act.lanes.contains 0 && (x.addr i 0).toNat % x.bytes i != 0) = true := by decide +kernel

/-! ### Barriers: a count out of range, and one that differs from the count latched -/

/-- An arrival with its barrier and its count, which stands in a w register where it is `none`. -/
def arrFields (r : Arriver) (b : Nat) (m : Option Nat) : Fields :=
  let bar : Operand := .imm (BitVec.ofNat 18 b)
  let count : Operand := m.elim (.w 20) fun m => .imm (BitVec.ofNat 18 m)
  let f := sample r.enc
  if r.waits then { f with op0 := bar, op1 := count } else { f with op1 := bar, op2 := count }
/-- Two warps of the team, with barrier 0 and team barrier 0 latched at 1. -/
def demoLatched : State :=
  let x : Barrier := { Barrier.fresh with latched := some 1 }
  (demo.modAllot 0 fun a => { a with warps := 2, nBarriers := 4, barriers := [(0, x)] }).modTeam 0 fun t =>
    { t with warps := 2, tbars := [(0, x)] }
/-- An arriver arrives, with `p` of its count, the most that may arrive, and the barrier. -/
def arrivesNamed (b : Nat) (m : Option Nat) (p : Nat → Allot → Barrier → Bool) : Bool := namedArrivers.all fun r =>
  runsWith (row r.ins r.enc {}) (arrFields r b m) demoLatched fun s1 c i =>
    decide (r.waits = true → i.act &&& i.newcomers ≠ 0) && (s1.allotOf c.wid i.w).any fun x =>
      (i.uni r.barrier).toNat == b && p (i.uni r.count).toNat x.2 (AMap.getD x.2.barriers b Barrier.fresh)
def arrivesTeam (m : Option Nat) (p : Nat → Nat → Barrier → Bool) : Bool := teamArrivers.all fun r =>
  runsWith (row r.ins r.enc {}) (arrFields r 0 m) demoLatched fun s1 _ i =>
    decide (r.waits = true → i.act &&& i.newcomers ≠ 0) && decide (i.teamWarps s1 ≤ 65536)
      && p (i.uni r.count).toNat (i.teamWarps s1) (s1.tbar i.w (immNum (i.op r.barrier)))
/-- The team has no barrier of that number; counts of 0 and of one more than the warps; a count that is not the latched one. -/
theorem witness_barrier_range : arrivesNamed 4 (some 2) (fun _ a _ => decide (a.nBarriers = 4)) = true
    ∧ arrivesNamed 0 none (fun m a _ => decide (0 < a.nBarriers ∧ m = 0)) = true
    ∧ arrivesNamed 0 (some 3) (fun m a _ => decide (0 < a.nBarriers ∧ m = min a.warps 64 + 1)) = true := by decide +kernel
theorem witness_barrier_latched : arrivesNamed 0 (some 2) (fun m a x =>
      decide (0 < a.nBarriers ∧ 1 ≤ m ∧ m ≤ min a.warps 64 ∧ x.latched = some 1 ∧ 1 ≠ m)) = true := by decide +kernel
theorem witness_team_barriers : arrivesTeam none (fun m _ _ => m == 0) = true
    ∧ arrivesTeam (some 3) (fun m most _ => decide (m = most + 1)) = true
    ∧ arrivesTeam (some 2) (fun m most x => decide (1 ≤ m ∧ m ≤ most ∧ x.latched = some 1 ∧ 1 ≠ m)) = true := by
  decide +kernel
def atBarrier (e : Enc) (k b : Nat) : Fields :=
  let f := sample e
  if k = 0 then { f with op0 := .imm (BitVec.ofNat 18 b) } else { f with op1 := .imm (BitVec.ofNat 18 b) }
theorem witness_no_barrier : ([(Instr.barinit, Enc.barinit, 1), (Instr.barwait, Enc.barwait, 0)].all fun r =>
    runsWith (row r.1 r.2.1 {}) (atBarrier r.2.1 r.2.2 4) demoLatched fun s1 c i =>
      (s1.allotOf c.wid i.w).any fun x => x.2.nBarriers == (i.uni r.2.2).toNat) = true := by decide +kernel

/-! ### Homes (13 R302) -/

/-- A registered granule of an allotment that exists with no slot open there, a copy within its lease, and no copy at all. -/
def demoRegistered : State := { demo with ranges := [(0, (0, 0))] }
theorem witness_homes_mapped : demoRegistered.mappedAt 0 = some (0, 0)
    ∧ (AMap.get demoRegistered.allots 0).isSome = true
    ∧ 0 % 128 + (bytesOf 8 7).length ≤ 128 ∧ demoRegistered.slotsOver 0 8 = [] := by decide +kernel
def aCopy : Copy := ⟨3, 9, some (List.replicate 128 5), none⟩
def demoCopy : State := demo.modCore 0 fun c => { c with copies := [(lineOf 0x60000, aCopy)] }
theorem witness_homes_copy : servedBy demoCopy 0 4 0x60000 0 aCopy (List.replicate 128 5) :=
  ⟨by decide +kernel, by decide +kernel, by decide, by decide +kernel, by decide, by decide⟩
theorem witness_homes_no_copy : ¬ ∃ c bs, servedBy demo 0 4 0x60000 0 c bs := by
  rintro ⟨c, bs, h, -⟩
  have : AMap.get (demo.core 0).copies (lineOf 0x60000) = none := by decide +kernel
  rw [this] at h; cases h

/-! ### Accesses made in part (12 R275) -/

/-- Lanes that name sixteen addresses 16 bytes apart in v4, v8 and v12, one access a step. -/
def demoSpread : State :=
  let far : VReg := ⟨(List.range 16).map fun l => BitVec.ofNat 64 (16 * l), false⟩
  { demoWith fun w => { w with v := [(4, far), (8, far), (12, far)] } with burst := 1 }
/-- A bundle starts with one of its accesses, goes on with one, and with none held back makes the rest. -/
def inParts (r : Accessor) (f : Fields) (s : State) : Bool :=
  (runsOn (row r.ins r.enc {}) f s).any fun (s1, c, _, i) => (r.starts i s1).any fun (s2, xs) =>
    decide (0 < s2.burst ∧ s2.burst < xs.length ∧ Covered s r.enc f c (r.writes i []))
    && (eachMade (r.one i (s1.stamp + 1)) (r.size i) (xs.take s2.burst) s2 []).any fun (t, got) =>
      let t := r.stays i s2.stamp (xs.drop s2.burst) got t
      (t.warp? c.wid).any fun w => w.sending.any fun x =>
        let j := r.again f c w x
        decide (AtAccesses t c w x ∧ 0 < t.burst ∧ t.burst < x.left.length ∧ Covered t r.enc f c (r.writes j []))
        && (eachMade (r.one j x.stamp) (r.size j) (x.left.take t.burst) t x.got).isSome
        && (eachMade (r.one j x.stamp) (r.size j) x.left { t with burst := 0 } x.got).any fun (u, got) =>
          decide (Covered (r.ends j x.stamp u) r.enc f c (r.writes j got))
theorem witness_parts : (accessors.all fun r =>
    inParts r { sample r.enc with op3 := if r.enc.opcode = 0x305 then .absent else (sample r.enc).op3 } demoSpread)
      = true := by decide +kernel

/-- Sixteen accesses, no line absent and no package removed, are made in sixteen steps. -/
theorem witness_whole : ((loadAccessors.take 1).all fun r =>
    (runsOn (row r.ins r.enc {}) (sample r.enc) demoSpread).any fun (s1, _, _, i) => (r.starts i s1).any fun (s2, xs) =>
      decide (xs.length = 16) && (eachMade (r.one i (s1.stamp + 1)) (r.size i) xs s2 []).isSome) = true := by decide +kernel

/-! ### Frames -/

theorem witness_computing_frames : (computing.all fun k => allGoOn (k.rows.filter fun r => r.enc.opcode < 0x3E1
    || 0x3E2 < r.enc.opcode) demo) = true := by decide +kernel
theorem witness_system_frames : (computing.all fun k => allGoOn (k.rows.filter fun r => 0x3E1 ≤ r.enc.opcode
    && r.enc.opcode ≤ 0x3E2) demoHandler) = true := by decide +kernel
theorem witness_transfer_frames : allGoOn branchRows demoTargets = true ∧ allGoOn (flowRows.take 2) demoJoin = true := by
  decide +kernel
theorem witness_reading_frames : allGoOn readingRows demo = true := by decide +kernel
theorem witness_sending_frames : allGoOn (scratchpadRows.drop 2) demoScratch = true
    ∧ allGoOn (queueRows.take 3 ++ (queueRows.drop 6).take 2) demoQueue = true ∧ allGoOn barrierRows demoBarrier = true
    ∧ allGoOn bulkRows demoBytes = true ∧ allGoOn matrixRows demoGang = true
    ∧ allGoOn (builderRows.take 4) demo = true := by
  decide +kernel
/-- The lanes' addresses translate. -/
theorem witness_storing_frames : (storingAccessors.all fun x =>
    let f := { sample x.enc with op3 := if x.enc.opcode = 0x305 then .absent else (sample x.enc).op3 }
    goesOn x.row f demo && runsWith x.row f demo fun s1 _ i =>
      (reached i s1 i.act.lanes (x.addr i) (x.bytes i) .readWrite).isSome) = true := by decide +kernel
theorem witness_scratchpad_frame : goesOn (row .sts Enc.sts (when sts)) (sample Enc.sts) demo = true
    ∧ (runsWith (row .sts Enc.sts (when sts)) (sample Enc.sts) demo fun s1 _ i =>
      (s1.allotOf i.wid i.w).any fun x => AMap.get s1.allots x.1 == some x.2) = true := by decide +kernel

/-! ### Steps -/

/-- What a picked warp's head bundle decodes to, and all that stands between. -/
def headAt (s : State) (wid : Nat) (rest : List Action) : Option (State × State × Warp × Group × Word × Fetched) :=
  match s.warp? wid with
  | none => none
  | some w =>
    if w.sending.isNone && ({ s with agenda := rest } : State).mayIssue wid w then
      match readyGroups exec wid w.groups { s with agenda := rest } [] with
      | .next (s1, ready) =>
        match s1.warp? wid with
        | none => none
        | some w1 =>
          match w1.head ready with
          | none => none
          | some g =>
            let w2 := { w1.countBypass g ready with yieldNext := false }
            match ({ (s1.picked wid).setWarp wid w2 with waited := false } : State).fetchHeader wid w2 g.hdr with
            | (s3, .ok hw) =>
              let r := s3.decodeAt wid w2 g.hdr hw g.pc
              some (s1, r.1, w1, g, hw, r.2)
            | _ => none
      | _ => none
    else none

/-- What `headAt` says. -/
theorem headAt_decodes {s : State} {wid : Nat} {rest : List Action} {x : State × State × Warp × Group × Word × Fetched}
    (h : headAt s wid rest = some x) (ha : s.agenda = .issue wid :: rest) (hg : s.gated = false) :
    HeadDecodes s x.1 x.2.1 wid rest x.2.2.1 x.2.2.2.1 x.2.2.2.2.1 x.2.2.2.2.2 := by
  unfold headAt at h
  split at h
  · cases h
  · next w hw =>
    split at h
    · next hi =>
      simp only [Bool.and_eq_true, Option.isNone_iff_eq_none] at hi
      split at h
      · next s1 ready hr =>
        split at h
        · cases h
        · next w1 hw1 =>
          split at h
          · cases h
          · next g hh =>
            dsimp only at h
            split at h
            · next s3 hd hf =>
              cases h
              exact ⟨⟨ha, hg⟩, w, ready, s3, hw, hi.1, hi.2, hr, hw1, hh, hf, rfl⟩
            · cases h
      · cases h
    · cases h

/-- The machine with a word placed is about to issue its bundle, and the decode gives what `p` says. -/
def headGives (s : State) (p : State → Warp → Group → Word → Fetched → Bool) : Bool :=
  s.agenda == [.issue 0] && !s.gated && (headAt s 0 []).any fun (_, s4, w1, g, hw, r) => p s4 w1 g hw r

/-- A placed NOP is its warp's head bundle, and runs. -/
def nopWord : Nat := 0x0040F8E000070000380001C0000E00003DE0F000
theorem witness_head_bundle : headGives (State.reset.placeIrlek nopWord) (fun s4 _ g hw r => match r with
    | .instr i next => match exec i { s4 with cur := some ⟨0, g.lanes, g.hdr, hw, g.pc, next⟩ } with
      | .next _ => true
      | _ => false
    | _ => false) = true := by decide +kernel

/-- A head bundle that its decode refuses, with the cause. -/
def refusedBy (s : State) (c : Cause) : Bool := headGives s fun _ _ _ _ r => match r with
  | .trap x => x == c
  | _ => false

/-- Opcode 0x3FF, a NOP with a reserved bit set, and an escape of kind 1. -/
theorem witness_decode_traps : refusedBy (State.reset.placeIrlek (0x3FF * 2 ^ 150)) .illegalOpcode = true
    ∧ refusedBy (State.reset.placeIrlek (nopWord ||| 0x100)) .illegalField = true
    ∧ refusedBy (withBytes (State.reset.placeIrlek nopWord) 0x20008 (bytesOf 2 0x9000)) .illegalParcel = true := by
  decide +kernel

/-- A load with an access made is its warp's bundle, and its word decodes. -/
def goesOnWith (s : State) : Bool :=
  match exec (.ld (sample Enc.ld)) s with
  | .next t => (t.warp? 0).any fun w => w.sending.any fun x =>
    match decodeIrlek w.width w.nw x.word with
    | .ok i => match exec i { t with agenda := [], cur := some x.cur } with
      | .next _ => !({ t with agenda := [.issue 0] } : State).gated
      | _ => false
    | _ => false
  | _ => false
theorem witness_going_on : goesOnWith demoSpread = true := by decide +kernel

/-- The parcel at an address of the placed block, with the warp that fetches it and the state after. -/
def parcelAt (s : State) (pc : Word) (p : State → Warp → BitVec 16 → Bool) : Bool :=
  match s.warp? 0 with
  | none => false
  | some w =>
    match s.fetchBytes (coreOf 0) w.ctx w.launch pc 2 with
    | (s1, .ok bs) => p s1 w (BitVec.ofNat 16 (ofBytes bs))
    | _ => false

/-- How far the end of the placed block's body and the end of an inline word at `pc` lie from the header. -/
def placedEnd : Nat := (bodyEnd placeHeader (headerOf placedHeaderWord) - placeHeader).toNat
def wordEnd (pc : Word) : Nat := (pc + 22 - placeHeader).toNat

/-- An escape of kind 1, one whose word would leave the body, and one whose word ends with it. -/
theorem witness_escapes : parcelAt (withBytes demo 0x20008 (bytesOf 2 0x9000)) (placeHeader + 8) (fun _ _ x =>
      x.getLsbD 15 && x.extractLsb' 12 3 != 0) = true
    ∧ parcelAt (withBytes demo 0x2000A (bytesOf 2 0x8000)) (placeHeader + 10) (fun _ _ x =>
      x.getLsbD 15 && x.extractLsb' 12 3 == 0 && decide (placedEnd < wordEnd (placeHeader + 10))) = true
    ∧ parcelAt demo (placeHeader + 8) (fun s1 w x =>
      x.getLsbD 15 && x.extractLsb' 12 3 == 0 && decide (wordEnd (placeHeader + 8) ≤ placedEnd) &&
      match s1.fetchBytes (coreOf 0) w.ctx w.launch (placeHeader + 10) 20 with
      | (_, .ok _) => true
      | _ => false) = true := by decide +kernel

/-- The machine with a parcel in its block, and a dictionary of one word that serves its warp. -/
def demoDict (parcel : Nat) : State :=
  (withBytes demo 0x20008 (bytesOf 2 parcel)).modCore 0 fun c =>
    { c with banks := [some ⟨0, placedLaunch.dictBase, placedLaunch.dictN, [BitVec.ofNat 160 nopWord], true, false, 0, 0⟩] }
/-- A reference to entry 0 as it stands, one that overrides guard A, one past the dictionary, and one with no dictionary. -/
theorem witness_references : parcelAt (demoDict 0) (placeHeader + 8) (fun s1 w x =>
      !x.getLsbD 15 && !x.getLsbD 14 && (s1.bankOf 0 w).any fun b => (b.words[(x.extractLsb' 0 10).toNat]?).isSome) = true
    ∧ parcelAt (demoDict 0x5400) (placeHeader + 8) (fun s1 w x =>
      !x.getLsbD 15 && x.getLsbD 14 && (s1.bankOf 0 w).any fun b => (b.words[(x.extractLsb' 0 10).toNat]?).isSome) = true
    ∧ parcelAt (demoDict 1) (placeHeader + 8) (fun s1 w x =>
      !x.getLsbD 15 && (s1.bankOf 0 w).any fun b => decide (b.words.length ≤ (x.extractLsb' 0 10).toNat)) = true
    ∧ parcelAt (withBytes demo 0x20008 (bytesOf 2 0)) (placeHeader + 8) (fun s1 w x =>
      !x.getLsbD 15 && (s1.bankOf 0 w).isNone) = true := by decide +kernel

/-- A queue's command at `LDI x3, −1`. -/
def nibexRuns (s : State) (q : Nat) (rest : List Action) : Bool :=
  match AMap.get s.queues q with
  | none => false
  | some k =>
    match k.running with
    | none => false
    | some r => !r.spent && ({ s with agenda := rest } : State).queueRuns k &&
      match k.program[r.pc]? with
      | none => false
      | some x =>
        match decodeNibex x with
        | none => false
        | some i =>
          match exec i { s with agenda := rest, nib := some q } with
          | .next _ => true
          | _ => false
theorem witness_nibex_step : (State.reset.placeNibex 0x131FFFFF).agenda = .nibex 0 :: []
    ∧ (State.reset.placeNibex 0x131FFFFF).gated = false ∧ nibexRuns (State.reset.placeNibex 0x131FFFFF) 0 [] = true := by
  decide +kernel
theorem witness_event_step : ({ State.reset with agenda := [.event .correctedError { unit := 1 }] } : State).agenda
      = .event .correctedError { unit := 1 } :: []
    ∧ ({ State.reset with agenda := [.event .correctedError { unit := 1 }] } : State).gated = false := by decide +kernel

/-! ### Nibex commands -/

/-- Whether a step of a Nibex instruction is described for a queue's running command. -/
def nibexMeets (r : NRow) (f : NibexFields) (s : State) (q : Nat) : Bool :=
  s.nib == some q && match AMap.get s.queues q with
    | none => false
    | some k => k.running.any fun x => r.cond ⟨q, k, x, f⟩ s

/-- Queue 0 with a running command whose registers hold 0x60000 in x1, 0x60040 in x2 and 8 in x3. -/
def demoNibex : State :=
  ({ State.reset.placeNibex 0 with nib := some 0 } : State).modQueue 0 fun k =>
    { k with running := k.running.map fun x => { x with x := [0, 0x60000, 0x60040, 8, 0, 0, 0, 0] } }
def demoNx : NibexFields := ⟨1, 2, 0⟩
theorem witness_nibex : (nibexRows.all fun r => nibexMeets r demoNx demoNibex 0) = true := by decide +kernel
theorem witness_nibex_work : ((nibexWorkRows.take 4 ++ nibexWorkRows.drop 5).all fun r =>
    nibexMeets r demoNx demoNibex 0) = true := by decide +kernel
/-- NCOPY of 8 bytes: some cluster of the die has room, whichever is chosen. -/
theorem chosen {α : Type} {s : State} {l : List α} (h : l ≠ []) : ∃ x, (s.chooseFrom l).1 = some x := by
  unfold State.chooseFrom State.choose
  have : 0 < l.length := List.length_pos_iff.2 h
  rw [if_neg (by omega)]
  exact ⟨_, List.getElem?_eq_getElem (Nat.mod_lt _ this)⟩
def copyBytes (n : Nx) : Nat := ((n.r.x[n.f.imm.toNat % 8]?).getD 0).toNat
def copyOk (n : Nx) : Bool :=
  n.xa.toNat % 8 == 0 && n.xb.toNat % 8 == 0 && copyBytes n % 8 == 0 && 8 ≤ copyBytes n && copyBytes n ≤ 2 ^ 30
    && n.k.inWindow n.xa (copyBytes n) && n.k.inWindow n.xb (copyBytes n)
def copyRoom (n : Nx) (s : State) : List Nat := (List.range 40).filter fun c => (s.cpePlace (n.die * 40 + c)).isSome
theorem ncopy_isSome {n : Nx} {s : State} (h1 : copyOk n = true) (h2 : copyRoom n s ≠ []) : (ncopy n s).isSome = true := by
  obtain ⟨c, hc⟩ := chosen (s := s) h2
  unfold copyRoom at hc
  unfold ncopy
  dsimp only
  rw [hc]
  simp only [guard]
  rw [if_pos (by exact h1)]
  rfl
theorem witness_nibex_copy : ∃ k r, AMap.get demoNibex.queues 0 = some k ∧ k.running = some r ∧ demoNibex.nib = some 0
    ∧ (ncopy ⟨0, k, r, ⟨1, 2, 3⟩⟩ demoNibex).isSome = true := by
  have h : (AMap.get demoNibex.queues 0).any (fun k => k.running.any fun r =>
      decide (copyOk ⟨0, k, r, ⟨1, 2, 3⟩⟩ = true ∧ copyRoom ⟨0, k, r, ⟨1, 2, 3⟩⟩ demoNibex ≠ [])) = true := by
    decide +kernel
  cases hk : AMap.get demoNibex.queues 0 with
  | none => rw [hk] at h; cases h
  | some k =>
    rw [hk, Option.any_some] at h
    cases hr : k.running with
    | none => rw [hr] at h; cases h
    | some r =>
      rw [hr, Option.any_some] at h
      have h' := of_decide_eq_true h
      exact ⟨k, r, rfl, hr, rfl, ncopy_isSome h'.1 h'.2⟩
theorem witness_nibex_halt : ((AMap.get demoNibex.queues 0).any fun k => k.running.any fun x =>
    (haltStored ⟨0, k, x, ⟨0, 0, 0⟩⟩ demoNibex).isSome) = true := by decide +kernel

/-! ### What every step keeps, and encodings -/

theorem witness_canonical : Canonical (State.reset.placeIrlek nopWord)
    ∧ (match step (State.reset.placeIrlek nopWord) with
      | .next _ => true
      | _ => false) = true := by
  refine ⟨⟨by decide +kernel, fun k a h => ?_⟩, by decide +kernel⟩
  have : (k, a) = (0, placedAllot) := by
    simpa [State.placeIrlek, State.reset, AMap.set] using h
  cases this; decide
theorem readsAs_ok {w nw : Nat} {x : BitVec 160} {i : Instr} (h : (decodeIrlek w nw x).toOption = some i) :
    decodeIrlek w nw x = .ok i := by
  cases hx : decodeIrlek w nw x with
  | ok j => rw [hx] at h; cases h; rfl
  | error e => rw [hx] at h; cases h
theorem witness_encodings : (Instr.iadd (sample Enc.iadd)).enc = some (Enc.iadd, sample Enc.iadd)
    ∧ (Instr.iadd (sample Enc.iadd)).wfAt 16 16 = true ∧ (Instr.nxLdi ⟨3, 0, 5⟩).nibex = some (2, ⟨3, 0, 5⟩)
    ∧ (Instr.nxLdi ⟨3, 0, 5⟩).wf = true ∧ decodeIrlek 16 16 (BitVec.ofNat 160 nopWord) = .ok (.nop plainFields)
    ∧ decodeNibex 0x131FFFFF = some (.nxLdi ⟨3, 0, 0x1FFFFF⟩) :=
  ⟨rfl, by decide +kernel, rfl, by decide +kernel, readsAs_ok (by decide +kernel), by decide +kernel⟩

end Sys2Proof.Tests
end

section
/-! Events of the units: what it takes for a row, and for a family of rows, to happen as described. -/
namespace Sys2Proof.Proofs
open Sys2Proof.Machine Sys2Proof.Safety Sys2Proof.Laws

/-- An event described by a condition and a change happens where the machine makes that change under the condition. -/
theorem whenever_does {ins : Instr} {cond : State → Bool} {st : State → State}
    (h : ∀ s, cond s = true → exec ins s = .next (st s)) : (whenever ins cond st).Does := by
  intro s t hrun
  obtain ⟨hcond, rfl⟩ : cond s = true ∧ st s = t := by simpa [whenever] using hrun
  exact h s hcond

/-- An event described in every state. -/
theorem always_does {ins : Instr} {st : State → State} (h : ∀ s, exec ins s = .next (st s)) :
    EventRow.Does ⟨ins, fun s => some (st s)⟩ := by
  rintro s _ ⟨⟩
  exact h s

/-- An event described past a guard. -/
theorem guarded_does {ins : Instr} {cond : State → Bool} {st : State → State}
    (h : ∀ s, cond s = true → exec ins s = .next (st s)) :
    EventRow.Does ⟨ins, fun s => do guard (cond s); some (st s)⟩ := by
  intro s t hrun
  obtain ⟨hcond, hst⟩ := guard_bind.1 hrun
  cases hst
  exact h s hcond

theorem eventsDo_append {xs ys : List EventRow} : EventsDo (xs ++ ys) ↔ EventsDo xs ∧ EventsDo ys :=
  List.forall_mem_append

end Sys2Proof.Proofs
end

section
/-! Fatal errors, boot, takeover, global time and links: each event of the board happens as described (13 R306, 17 R387,
19 R415-R433). -/
namespace Sys2Proof.Proofs
open Sys2Proof.Machine Sys2Proof.Safety Sys2Proof.Laws

/-! ### Fatal errors (19 R429) -/

theorem raiseFatal_of_noFatal {s : State} (cause : Nat) (h : s.sup.fatal = 0) :
    s.raiseFatal cause = fatalRaised cause s := by
  unfold State.raiseFatal
  rw [if_neg (by simp [h])]
  rfl

theorem timestampOverflow_does :
    (whenever .timestampOverflow (fun s => s.sup.fatal == 0) (fatalRaised 2)).Does :=
  whenever_does fun s h => congrArg _ (raiseFatal_of_noFatal (s := s) 2 (beq_iff_eq.1 h))

@[simp] theorem writeBackAll_links (s : State) : s.writeBackAll.links = s.links := rfl

theorem fatalDump_does : EventRow.Does ⟨.fatalDump, dumped⟩ := by
  intro s t hrun
  change execFatalDump s = _
  dsimp only [dumped] at hrun
  unfold execFatalDump
  by_cases hfatal : s.sup.fatal = 0
  · by_cases hunit : s.ev.unit = 4
    · rw [if_pos hfatal, if_pos hunit] at hrun ⊢
      cases hrun
      rw [raiseFatal_of_noFatal 4 hfatal]
    · simp [hfatal, hunit] at hrun
  · rw [if_neg hfatal] at hrun ⊢
    obtain ⟨hready, hdump⟩ := guard_bind.1 hrun
    have hwait : (s.sup.heldInReset || (!s.sup.tripped && !s.atStopPoints))
        = !(!s.sup.heldInReset && (s.sup.tripped || s.atStopPoints)) := by
      rw [Bool.not_and, Bool.not_not, Bool.not_or]
    rw [hwait, hready, if_neg (by decide)]
    cases hdump
    cases hpeer : s.links.dumpPeer <;> simp only [writeBackAll_links, State.post_links, hpeer] <;> rfl

/-! ### Failure and takeover (19 R416, R425-R428) -/

/-- A late heartbeat of a primary that is up is one that the machine takes as missed. -/
theorem heartbeatsMissed_of_up {s : State} {die : Nat} {c : Machine.Complex} (hc : s.sup.complexes[die]? = some c)
    (hup : (c.booted && !c.failed) = true) (hprim : die = s.sup.primary) (hlate : s.sup.heartbeat + 30000 < s.elapsed) :
    s.heartbeatsMissed = true := by
  subst hprim
  simp [State.heartbeatsMissed, State.primaryRuns, hc, hup, hlate]

theorem complexFailed_does : EventRow.Does ⟨.complexFailed, complexFails⟩ := by
  intro s t hrun
  change execComplexFailed s = _
  unfold complexFails at hrun
  obtain ⟨c, hc, hrun⟩ := Option.bind_eq_some_iff.1 hrun
  obtain ⟨hguard, hrun⟩ := guard_bind.1 hrun
  obtain ⟨hup, hwhy⟩ := Bool.and_eq_true_iff.1 hguard
  have hcause : ¬ (s.ev.item = 1 && !(s.ev.unit == s.sup.primary && s.heartbeatsMissed)) = true := by
    rcases Bool.or_eq_true_iff.1 hwhy with hitem | hlate
    · simpa using fun h => absurd h (by simpa using hitem)
    · rw [Bool.and_eq_true, beq_iff_eq, decide_eq_true_eq] at hlate
      simp [heartbeatsMissed_of_up hc hup hlate.1 hlate.2, hlate.1]
  have hdown : ¬ (!c.booted || c.failed) = true := by simpa using hup
  unfold execComplexFailed State.failComplex
  rw [if_neg hcause, hc]
  dsimp only
  rw [if_neg hdown]
  refine congrArg Host.Outcome.next ?_
  by_cases hprim : s.sup.primary = s.ev.unit
  · rw [if_neg fun hother => hother hprim] at hrun
    rw [if_neg (by simpa [State.modSup] using hprim)]
    by_cases hstand : s.sup.standby = true
    · rw [if_pos hstand] at hrun
      cases hrun
      exact if_pos hstand
    · rw [if_neg hstand] at hrun
      cases hrun
      exact if_neg hstand
  · rw [if_pos hprim] at hrun
    cases hrun
    rw [if_pos (by simpa [State.modSup] using hprim)]
    rfl

theorem heartbeat_does :
    (whenever .heartbeat State.heartbeatDue fun s => { s with sup := { s.sup with heartbeat := s.elapsed } }).Does :=
  whenever_does fun _ h => congrArg Host.Outcome.next (if_pos h)

/-! ### Boot and global time (17 R387, 19 R417, R428, R432) -/

theorem powerOnBoot_does : EventRow.Does ⟨.powerOnBoot, fun s => some (poweredOn s)⟩ :=
  always_does fun _ => rfl

theorem ptpSteer_does :
    (whenever .ptpSteer (fun s => s.sup.locked && s.ev.signed.natAbs ≤ 100) fun s =>
      s.passNs (((s.ev.unit : Int) + (s.ev.unit : Int) * s.ev.signed / 1000000).toNat)).Does :=
  whenever_does fun _ h => congrArg Host.Outcome.next (if_pos h)

theorem ptpFirstLock_does : (whenever .ptpFirstLock (fun s => !s.sup.firstLock) firstLocked).Does :=
  whenever_does fun s h => congrArg Host.Outcome.next (if_neg (by simpa using h))

/-! ### Links (19 R433) -/

/-- The machine counts the dead ports with the new one, the description those before it. -/
theorem linkPortFailure_does :
    (whenever .linkPortFailure (fun s => s.ev.unit < 16 && !s.links.deadPorts.contains s.ev.unit) portFails).Does := by
  refine whenever_does fun s h => ?_
  have hnew : ¬ (16 ≤ s.ev.unit || s.links.deadPorts.contains s.ev.unit) = true := by
    simpa using h
  change execLinkPortFailure s = _
  unfold execLinkPortFailure portFails
  dsimp only
  rw [if_neg hnew]
  simp only [List.length_cons, Nat.reduceEqDiff]

theorem packageRemoval_does :
    (whenever .packageRemoval (fun s => s.links.unreachable.contains s.ev.unit) packageRemoved).Does :=
  whenever_does fun s h => congrArg Host.Outcome.next (if_neg (by simpa using h))

theorem pathReturns_does : EventRow.Does ⟨.pathReturns, fun s => some (pathBack s)⟩ :=
  always_does fun _ => rfl

theorem boardEvents_do : EventsDo boardEvents := by
  simp only [EventsDo, boardEvents, List.forall_mem_cons]
  exact ⟨timestampOverflow_does, complexFailed_does, fatalDump_does, heartbeat_does, powerOnBoot_does, ptpSteer_does,
    ptpFirstLock_does, linkPortFailure_does, packageRemoval_does, pathReturns_does, List.forall_mem_nil _⟩

end Sys2Proof.Proofs
end

section
/-! The sideband, the power limit and the clock steps: each event happens as described (01 R17-R21). -/
namespace Sys2Proof.Proofs
open Sys2Proof.Machine Sys2Proof.Safety Sys2Proof.Laws

/-! ### Transfers (01 R21) -/

/-- What a transfer does is done where it names the target's address. -/
theorem ite_addressed (st : State → State) (s : State) : (if s.addressed then st s else s) = atTarget st s := by
  simp [State.addressed, atTarget]

/-- An event that is a transfer to the target. -/
theorem transfer_does {ins : Instr} {st : State → State}
    (h : ∀ s, exec ins s = .next (if s.addressed then st s else s)) :
    EventRow.Does ⟨ins, fun s => some (atTarget st s)⟩ :=
  always_does fun s => (h s).trans (congrArg Host.Outcome.next (ite_addressed st s))

theorem setPointer_does : EventRow.Does ⟨.setPointer, fun s => some (atTarget (pointedAt s.ev.unit) s)⟩ :=
  transfer_does fun _ => rfl

theorem registerWrite_does : EventRow.Does ⟨.registerWrite, registerWritten⟩ := by
  intro s t hrun
  change execRegisterWrite s = _
  change registerWritten s = some t at hrun
  unfold registerWritten at hrun
  unfold execRegisterWrite
  cases hbytes : s.ev.bytes with
  | nil => simp [hbytes] at hrun
  | cons p bs =>
    rw [hbytes] at hrun
    cases hrun
    exact congrArg Host.Outcome.next (ite_addressed (fun s => (pointedAt p.toNat s).writeSide bs) s)

theorem privateRead_does : EventRow.Does ⟨.privateRead, fun s => some (atTarget privatelyRead s)⟩ :=
  transfer_does fun _ => rfl

theorem entdaa_does : EventRow.Does ⟨.entdaa, fun s => some (addressGiven s)⟩ := by
  refine always_does fun s => congrArg Host.Outcome.next ?_
  simp [addressGiven, State.modSide]

theorem setPointer_writeLimit (s : State) :
    (s.setPointer 0x24).writeLimit (BitVec.ofNat 16 s.ev.unit) = limitWritten s := by
  simp only [State.writeLimit, limitWritten, Bool.and_eq_true, decide_eq_true_eq, beq_iff_eq, and_assoc]
  rfl

theorem powerLimitWrite_does : EventRow.Does ⟨.powerLimitWrite, fun s => some (atTarget limitWritten s)⟩ :=
  transfer_does fun s => by rw [← setPointer_writeLimit]; rfl

theorem eventFlagsClear_does : EventRow.Does ⟨.eventFlagsClear, fun s => some (atTarget flagsCleared s)⟩ :=
  transfer_does fun _ => rfl

theorem moduleReset_does :
    (whenever .moduleReset (fun s => s.ev.unit == 0x52455345) (atTarget fun s => (pointedAt 0x70 s).powerOn)).Does := by
  refine whenever_does fun s h => ?_
  rw [← ite_addressed]
  have hreset : (s.setPointer 0x70).resetModule s.ev.unit = (pointedAt 0x70 s).powerOn := if_pos (beq_iff_eq.1 h)
  rw [← hreset]
  rfl

/-! ### Clock steps (01 R18, R19) -/

theorem powerThrottleStep_does : EventRow.Does ⟨.powerThrottleStep, powerStep⟩ := by
  intro s t hrun
  change execPowerThrottleStep s = _
  unfold powerStep at hrun
  obtain ⟨hdue, hrun⟩ := guard_bind.1 hrun
  unfold execPowerThrottleStep
  dsimp only
  rw [if_neg (by simpa using hdue)]
  by_cases hfloor : (s.senseDraw s.ev.unit).aboveFloor = true
  · rw [if_pos hfloor] at hrun ⊢
    cases hrun
    rfl
  · rw [if_neg hfloor] at hrun ⊢
    cases hrun
    rfl

theorem clockRaiseStep_does : EventRow.Does ⟨.clockRaiseStep, raiseStep⟩ :=
  guarded_does fun _ h => congrArg Host.Outcome.next (if_pos h)

theorem thermalThrottleStep_does : EventRow.Does ⟨.thermalThrottleStep, thermalStep⟩ :=
  guarded_does fun _ h => congrArg Host.Outcome.next (if_pos h)

theorem thermalTrip_does : EventRow.Does ⟨.thermalTrip, tripped⟩ :=
  guarded_does fun _ h => congrArg Host.Outcome.next (if_pos h)

theorem sidebandEvents_do : EventsDo sidebandEvents := by
  simp only [EventsDo, sidebandEvents, List.forall_mem_cons]
  exact ⟨setPointer_does, registerWrite_does, privateRead_does, entdaa_does, powerLimitWrite_does, eventFlagsClear_does,
    moduleReset_does, powerThrottleStep_does, clockRaiseStep_does, thermalThrottleStep_does, thermalTrip_does,
    List.forall_mem_nil _⟩

/-- Settles O25: each of the board's and the sideband's events does what its description says. -/
theorem boardAndSidebandEvents : Obligations.BoardAndSidebandEvents :=
  eventsDo_append.2 ⟨boardEvents_do, sidebandEvents_do⟩

end Sys2Proof.Proofs
end

section
/-! Moves, predicate logic, votes, matches, reductions, scans, permutations and special-register reads run to their end (02 R35,
04 R97-R99, 05 R121-R130). -/
namespace Sys2Proof.Proofs
open Sys2Proof.Machine Sys2Proof.Safety Sys2Proof.Laws

/-! ### Families of rows -/

theorem allDo_append {xs ys : List Row} : AllDo (xs ++ ys) ↔ AllDo xs ∧ AllDo ys := List.forall_mem_append

/-- An instruction of one value a lane does what its row says where the values are those of the row. -/
theorem perLane_does {ins : Fields → Instr} {enc : Enc} {val : Iss → Nat → Word} {body : Fields → Iss → Nat → Word}
    (hx : ∀ f s, exec (ins f) s = lanewise enc f s (body f)) (hval : ∀ i l, body i.f i l = val i l) :
    (row ins enc (perLane val)).Does :=
  does_ok (body := fun f i s => .ok s (i.dest (body f i))) hx (fun _ _ _ => rfl) fun i _ _ _ =>
    congrArg (fun v => Res.ok _ (i.dest v)) (funext (hval i))

/-- An instruction of one bit a lane does what its row says where the bits are those of the row. -/
theorem perBit_does {ins : Fields → Instr} {enc : Enc} {bit : Iss → Nat → Bool} {body : Fields → Iss → Nat → Bool}
    (hx : ∀ f s, exec (ins f) s = irlek enc f s fun i s => .ok s (i.bits 0 (body f i)))
    (hbit : ∀ i l, body i.f i l = bit i l) : (row ins enc (perBit bit)).Does :=
  does_ok (body := fun f i s => .ok s (i.bits 0 (body f i))) hx (fun _ _ _ => rfl) fun i _ _ _ =>
    congrArg (fun b => Res.ok _ (i.bits 0 b)) (funext (hbit i))

/-! ### Moves, predicate logic, votes and matches (05 R121-R125) -/

theorem moveRows_do : AllDo moveRows := by
  simp only [AllDo, moveRows, List.forall_mem_cons]
  exact ⟨perLane_does (fun _ _ => rfl) fun _ _ => rfl, perLane_does (fun _ _ => rfl) fun _ _ => rfl,
    perLane_does (fun _ _ => rfl) fun _ _ => rfl, perBit_does (fun _ _ => rfl) fun _ _ => rfl,
    perLane_does (fun _ _ => rfl) fun _ _ => rfl, List.forall_mem_nil _⟩

/-- A predicate operation does what its row says where it makes the row's bits of operands 1 and 2 (05 R123). -/
theorem predicate_does {ins : Fields → Instr} {enc : Enc} {bit : Iss → Nat → Bool} (op : Bool → Bool → Bool)
    (hx : ∀ f s, exec (ins f) s = predicate enc f s op) (hbit : ∀ i l, op (i.pred 1 l) (i.pred 2 l) = bit i l) :
    (row ins enc (perBit bit)).Does :=
  perBit_does (body := fun _ i l => op (i.pred 1 l) (i.pred 2 l)) hx hbit

theorem predicateRows_do : AllDo predicateRows := by
  simp only [AllDo, predicateRows, List.forall_mem_cons]
  exact ⟨predicate_does (fun a b => a && b) (fun _ _ => rfl) fun _ _ => rfl,
    predicate_does (fun a b => a && !b) (fun _ _ => rfl) fun _ _ => rfl,
    predicate_does (fun a b => a || b) (fun _ _ => rfl) fun _ _ => rfl,
    predicate_does (fun a b => a || !b) (fun _ _ => rfl) fun _ _ => rfl,
    predicate_does (fun a b => a != b) (fun _ _ => rfl) fun _ _ => rfl,
    predicate_does (fun a _ => !a) (fun _ _ => rfl) fun _ _ => rfl, List.forall_mem_nil _⟩

theorem voteRows_do : AllDo voteRows := by
  simp only [AllDo, voteRows, List.forall_mem_cons]
  exact ⟨perLane_does (fun _ _ => rfl) fun _ _ => rfl, perBit_does (fun _ _ => rfl) fun _ _ => rfl,
    perBit_does (fun _ _ => rfl) fun _ _ => rfl, perBit_does (fun _ _ => rfl) fun _ _ => rfl, List.forall_mem_nil _⟩

theorem matchRows_do : AllDo matchRows := by
  simp only [AllDo, matchRows, List.forall_mem_cons]
  exact ⟨perLane_does (fun _ _ => rfl) fun _ _ => rfl, perBit_does (fun _ _ => rfl) fun _ _ => rfl, List.forall_mem_nil _⟩

/-! ### Reductions and scans (02 R35, 05 R126, R127) -/

theorem reduceRows_do : AllDo reduceRows := by
  simp only [AllDo, reduceRows, List.forall_mem_cons]
  refine ⟨does_ok (fun _ _ => rfl) (fun _ _ _ => rfl) fun i s _ _ => ?_, List.forall_mem_nil _⟩
  simp only [row, reduction]
  rw [← Iss.env]
  split <;> next h => simp [h, accrued]

/-- A body that accrues flags and writes one value a lane answers as a row of the same flags and values says. -/
theorem ok_accrued_dest {i : Iss} {s : State} {fl fl' : FFlags} {val val' : Nat → Word} (hfl : fl = fl')
    (hval : ∀ l, val l = val' l) :
    Res.ok (s.modWarp i.wid fun w => w.accrue fl) (i.dest val) = .ok (accrued i s fl') (i.dest val') := by
  rw [hfl, funext hval, accrued]

theorem scanRows_do : AllDo scanRows := by
  simp only [AllDo, scanRows, List.forall_mem_cons]
  refine ⟨does_ok (fun _ _ => rfl) (fun _ _ _ => rfl) fun i s _ _ => ?_,
    does_ok (fun _ _ => rfl) (fun _ _ _ => rfl) fun i s _ _ => ?_, List.forall_mem_nil _⟩
  · simp only [row, Bool.false_eq_true, if_false]
    rw [← Iss.env, ← scanned]
    refine ok_accrued_dest (by cases (scanned i).getLast? <;> rfl) fun l => ?_
    generalize (scanned i).find? _ = step
    rcases step with _ | ⟨_, _ | _, _⟩ <;> rfl
  · simp only [row, if_true]
    rw [← Iss.env, ← scanned]
    refine ok_accrued_dest (by cases (scanned i).dropLast.getLast? <;> rfl) fun l => ?_
    generalize (scanned i).find? _ = step
    rcases step with _ | ⟨_, _ | _, _⟩ <;> rfl

/-! ### Permutations and special registers (04 R97-R99, 05 R128-R130) -/

theorem permuteRows_do : AllDo permuteRows := by
  simp only [AllDo, permuteRows, List.forall_mem_cons]
  refine ⟨perLane_does (fun _ _ => rfl) fun i l => ?_, perLane_does (fun _ _ => rfl) fun _ _ => rfl,
    perLane_does (fun _ _ => rfl) fun _ _ => rfl, perLane_does (fun _ _ => rfl) fun _ _ => rfl,
    perLane_does (fun _ _ => rfl) fun _ _ => rfl, List.forall_mem_nil _⟩
  refine congrArg (ite _ _) ?_
  generalize natBits i.f.mods.toNat 1 0 = edge
  rcases edge with _ | _ | _ <;> rfl

theorem specialRows_do : AllDo specialRows := by
  simp only [AllDo, specialRows, List.forall_mem_cons]
  exact ⟨does_ok (fun _ _ => rfl) (fun _ _ _ => rfl) fun _ _ _ _ => rfl,
    does_ok (fun _ _ => rfl) (fun _ _ _ => rfl) fun _ _ _ _ => rfl, List.forall_mem_nil _⟩

/-- Settles O1, family by family: the body of each instruction answers with the state and the writes that its row describes. -/
theorem movesAndCrossLaneComplete : Obligations.MovesAndCrossLaneComplete := by
  simp only [Obligations.MovesAndCrossLaneComplete, allDo_append]
  exact ⟨⟨⟨⟨moveRows_do, predicateRows_do⟩, voteRows_do⟩, matchRows_do⟩,
    ⟨⟨reduceRows_do, scanRows_do⟩, permuteRows_do⟩, specialRows_do⟩

end Sys2Proof.Proofs
end

section
/-! BRK and TRAP move their lanes and raise their trap (04 R96, 18 R398, R403). -/
namespace Sys2Proof.Proofs
open Sys2Proof.Machine Sys2Proof.Safety Sys2Proof.Laws

/-- An instruction whose body raises as its row says, with operand 0 for the tag. -/
theorem raise_does {r : RaiseRow} (hx : ∀ f s, exec (r.ins f) s = irlek r.enc f s fun i _ =>
      .raise r.cause (i.uni 0).toNat (r.tepc i.c) (r.mv i.c i.act)) : r.Does := by
  rintro f s s1 c push i ⟨⟨w, hr, pop, bs, popped, hq, ht, rfl⟩, _, _⟩
  simp only [RaiseRow.row, row] at hr hq ht
  rw [hx, irlek_ready hr]
  simp only [effect, hq, ht, State.conclude, BitVec.ofNat_toNat, BitVec.setWidth_eq]
  rfl

/-- Settles O5: both bodies raise with operand 0 as the tag, and the shared issue moves the lanes and then takes the trap. -/
theorem raisesComplete : Obligations.RaisesComplete := by
  simp only [Obligations.RaisesComplete, raiseRows, List.forall_mem_cons]
  exact ⟨raise_does fun _ _ => rfl, raise_does fun _ _ => rfl, List.forall_mem_nil _⟩

end Sys2Proof.Proofs
end

section
/-! Transfers do not leave every other warp as it was: an address register that an ATOM fills shows, when a transfer reads it, that
every write which the home took before the ATOM's has its place, whichever warp made it (13 R303, R308). -/
namespace Sys2Proof.Proofs
open Sys2Proof.Machine Sys2Proof.Safety Sys2Proof.Laws

/-- RET through v4. -/
def retFields : Fields := { plainFields with op0 := .v 4 false .ident }

/-- RET as the branch rows describe it (04 R90). -/
def retRow : Row := row .ret Enc.ret <| goes (fun i l => i.src 0 l) fun _ => []

theorem retRow_moves : retRow ∈ movingRows := by simp [movingRows, branchRows, retRow]

/-- Warp 0 at a RET through v4, which holds the block's own header as the result of an ATOM still in flight. -/
def awaitsRead (w : Warp) : Warp :=
  { w with v := [(4, ⟨List.replicate 16 placeHeader, false⟩)], flight := [⟨0, 0, .read 4, 1⟩] }

/-- Warp 1, whose store to the quadword of that ATOM came to the home before it and may be in flight still. -/
def storedBefore : Warp :=
  { Warp.start 0 0 0 16 16 ((List.range 16).map (placedLane placeHeader 0)) with flight := [⟨0, 0, .later, 0⟩] }

/-- The machine with these two warps, the bundle of all lanes of warp 0 at its RET. -/
def sharedQuad : State :=
  { ((State.reset.placeIrlek 0).modWarp 0 awaitsRead).setWarp 1 storedBefore with
    cur := some ⟨0, 0xFFFF#64, placeHeader, placedHeaderWord, placeHeader + 8, placeHeader + 30⟩ }

theorem retRow_meets : retRow.meets retFields sharedQuad = true := by decide +kernel

/-- What warp 1 has in flight after the RET of warp 0. -/
def flightAfterRet : Option (List Flight) :=
  match exec (.ret retFields) sharedQuad with
  | .next t => (t.warp? 1).map fun w => w.flight
  | _ => none

theorem flightAfterRet_empty : flightAfterRet = some [] := by decide +kernel

theorem ret_lands_other_store :
    ∃ t, exec (.ret retFields) sharedQuad = .next t ∧ (t.warp? 1).map (fun w => w.flight) = some [] := by
  have h := flightAfterRet_empty
  unfold flightAfterRet at h
  split at h
  · next t ht => exact ⟨t, ht, h⟩
  · cases h

/-- Refutes O47: RET reads its address from v4, where the result of an ATOM was in flight, and so the store of warp 1 that came before
it to the same quadword is no longer in flight either: a warp other than that of the bundle has changed. -/
theorem not_transfersLeaveTheRest : ¬ Obligations.TransfersLeaveTheRest := by
  intro h
  obtain ⟨s1, c, push, i, hruns⟩ := runs_of_meets retRow_meets
  obtain ⟨t, ht, hflight⟩ := ret_lands_other_store
  obtain ⟨w, ⟨hcur, -⟩, -⟩ := hruns.ready
  have hwid : c.wid = 0 := by cases hcur; rfl
  have honly := h retRow retRow_moves retFields sharedQuad s1 t c push i hruns (by unfold isSlot; omega) ht
  rw [honly.others 1 (by omega)] at hflight
  have hbefore : (sharedQuad.warp? 1).map (fun w => w.flight) = some [⟨0, 0, .later, 0⟩] := rfl
  rw [hbefore] at hflight
  cases hflight

end Sys2Proof.Proofs
end

section
/-! What a warp starts with (05 R100, 07 R156, 09 R200, R212, 10 R223, 18 R401). -/
namespace Sys2Proof.Proofs
open Sys2Proof.Machine Sys2Proof.Safety Sys2Proof.Laws

/-- Settles O52: every map of a starting warp is empty, and an unlisted register reads its reset value; only p15 is read apart. -/
theorem warpsStartReset : Obligations.WarpsStartReset := by
  intro ctx launch team width nw lanes w
  have hpreg : ∀ n, n ≠ 15 → w.preg n = 0 := fun n hn => if_neg hn
  exact ⟨fun _ => rfl, fun _ _ => rfl, fun _ => rfl, fun _ => rfl, hpreg, rfl, fun _ => rfl, fun _ => rfl, rfl, rfl, rfl, rfl, rfl⟩

end Sys2Proof.Proofs
end

section
/-! A vector result stands in the active lanes of its register (05 R104-R106). -/
namespace Sys2Proof.Proofs
open Sys2Proof.Machine Sys2Proof.Safety Sys2Proof.Laws

/-- The same condition in other words. -/
theorem ite_of_iff {α : Sort _} {p q : Prop} [Decidable p] [Decidable q] (h : p ↔ q) {a b : α} :
    (if p then a else b) = if q then a else b := ite_congr (propext h) (fun _ => rfl) fun _ => rfl

/-- The lanes that a write to a vector register starts from: those it holds, or zeros where it is unmapped (05 R104). -/
def lanesBefore (w : Warp) (n : Nat) : List Word := ((AMap.get w.v n).map VReg.lanes).getD (List.replicate w.width 0)

theorem getD_lanesBefore (w : Warp) (n l : Nat) : ((lanesBefore w n)[l]?).getD 0 = w.vreg n l := by
  unfold lanesBefore Warp.vreg
  cases AMap.get w.v n with
  | some r => rfl
  | none =>
    simp only [Option.map_none, Option.getD_none, List.getElem?_replicate]
    split <;> rfl

theorem length_lanesBefore {w : Warp} {n : Nat} (h : ∀ r, AMap.get w.v n = some r → r.lanes.length = w.width) :
    (lanesBefore w n).length = w.width := by
  unfold lanesBefore
  cases hget : AMap.get w.v n with
  | some r => exact h r hget
  | none => exact List.length_replicate

/-- A vector write leaves its register mapped, with no release pending. -/
theorem get_writeV_self (w : Warp) (n : Nat) (xs : List (Nat × Word)) :
    AMap.get (w.writeV n xs).v n = some ⟨xs.foldl (fun ls (l, x) => ls.set l x) (lanesBefore w n), false⟩ := by
  unfold Warp.writeV lanesBefore
  rw [AMap.get_set_self]
  cases AMap.get w.v n <;> rfl

theorem get_writeV_ne (w : Warp) {n k : Nat} (xs : List (Nat × Word)) (h : k ≠ n) :
    AMap.get (w.writeV n xs).v k = AMap.get w.v k := AMap.get_set_ne _ _ h

/-- A lane of a vector register after a write of some lanes. -/
theorem vreg_writeV {w : Warp} {n : Nat} (h : ∀ r, AMap.get w.v n = some r → r.lanes.length = w.width) (p : List Nat)
    (v : Nat → Word) (l : Nat) :
    (w.writeV n (p.map fun l => (l, v l))).vreg n l = if l ∈ p ∧ l < w.width then v l else w.vreg n l := by
  rw [vregD (get_writeV_self ..), getElem?_foldl_set, length_lanesBefore h, ← getD_lanesBefore]
  split <;> rfl

/-- One vector write allocates exactly where its register is unmapped (05 R104, R105). -/
theorem allocations_vector (w : Warp) (n : Nat) (xs : List (Nat × Word)) :
    allocations w [.v n xs] = if w.mapped n then 0 else 1 := by
  have hregs : ([Wr.v n xs].filterMap Wr.vreg?).eraseDups = [n] := rfl
  unfold allocations
  rw [hregs]
  cases hn : w.mapped n
  · rw [List.filter_cons_of_pos (by rw [hn]; rfl)]; rfl
  · rw [List.filter_cons_of_neg (by rw [hn]; exact Bool.false_ne_true)]; rfl

@[simp] theorem advance_v (w : Warp) (c : Cur) (m : Mask) : (w.advance c m).v = w.v := by rw [advance_eq]

@[simp] theorem marked_width (w : Warp) (e : Enc) (f : Fields) (c : Cur) : (w.marked e f c).width = w.width := by rw [marked_eq]

/-- A lane depends on the vector registers alone. -/
theorem vreg_congr {w w' : Warp} (h : w'.v = w.v) (n l : Nat) : w'.vreg n l = w.vreg n l := by
  unfold Warp.vreg
  rw [h]

/-- What an instruction draws from its reservation changes no vector register. -/
theorem written_vector_v (w : Warp) (c : Cur) (n : Nat) (xs : List (Nat × Word)) :
    (w.written c [.v n xs]).v = (w.writeV n xs).v := rfl

/-- Settles O33: the marks come first; the write then starts from the lanes that they leave and sets the active ones. -/
theorem vectorWritesLand : Obligations.VectorWritesLand := by
  intro s e f c push v w n last perm hop hwarp _ hlen hact m ws
  have hws : ws = [.v n.toNat ((activeLanes w f c.lanes).lanes.map fun l => (l, v l))] := by simp only [ws, hop, toDest]
  have hv : ((m.written c ws).advance c c.lanes).v
      = (m.writeV n.toNat ((activeLanes w f c.lanes).lanes.map fun l => (l, v l))).v := by
    rw [advance_v, hws, written_vector_v]
  have hmarked : ∀ r, AMap.get m.v n.toNat = some r → r.lanes.length = m.width := fun r hr => by
    obtain ⟨r0, hr0, hlanes⟩ := marked_lanes hr
    rw [hlanes, hlen _ _ hr0, marked_width]
  have hlanes : ∀ l, l ∈ (activeLanes w f c.lanes).lanes ∧ l < m.width ↔ (activeLanes w f c.lanes).has l = true := fun l => by
    rw [mem_lanes, marked_width, and_iff_left_of_imp (hact l)]
  refine ⟨_, _, finish_warp hwarp, hv ▸ get_writeV_self .., rfl, fun l => ?_, hws ▸ allocations_vector .., fun k hk =>
    hv ▸ get_writeV_ne _ _ hk⟩
  rw [vreg_congr hv, vreg_writeV hmarked]
  exact ite_of_iff (hlanes l)

end Sys2Proof.Proofs
end

section
/-! What the shared steps leave unchanged: a save of a control part changes no warp in a slot, and a trap no register
(18 R392, R394, R398). -/
namespace Sys2Proof.Proofs
open Sys2Proof.Machine Sys2Proof.Safety Sys2Proof.Laws

/-! ### Folds -/

/-- What every step of a fold leaves unchanged, the fold does. -/
theorem foldl_read {σ ι β : Type} {step : σ → ι → σ} {read : σ → β} (h : ∀ x i, read (step x i) = read x) (l : List ι) (x : σ) :
    read (l.foldl step x) = read x := by
  induction l generalizing x with
  | nil => rfl
  | cons i l ih => rw [List.foldl_cons, ih, h]

/-- Where each step of a fold puts one value if it hits and leaves the rest, that value stands if any of them hits. -/
theorem foldl_overwrite {σ ι β : Type} {step : σ → ι → σ} {read : σ → β} {hit : ι → Prop} [DecidablePred hit] {v : β} (l : List ι)
    (h : ∀ i ∈ l, ∀ x, read (step x i) = if hit i then v else read x) (x : σ) :
    read (l.foldl step x) = if ∃ i ∈ l, hit i then v else read x := by
  induction l generalizing x with
  | nil => simp only [List.foldl_nil, List.not_mem_nil, false_and, exists_false, if_false]
  | cons i l ih =>
    rw [List.foldl_cons, ih (fun j hj => h j (List.mem_cons_of_mem _ hj)), h i List.mem_cons_self]
    have hcons : (∃ j ∈ i :: l, hit j) ↔ hit i ∨ ∃ j ∈ l, hit j := by simp only [List.mem_cons, exists_eq_or_imp]
    by_cases hrest : ∃ j ∈ l, hit j
    · rw [if_pos hrest, if_pos (hcons.2 (Or.inr hrest))]
    · rw [if_neg hrest]
      exact ite_of_iff (hcons.trans (or_iff_left hrest)).symm

/-! ### Translations change no warp (14 R321, R322) -/

@[simp] theorem fillTlb_warps (s : State) (e : TlbEntry) (t : Nat) : (s.fillTlb e t).warps = s.warps := by
  unfold State.fillTlb State.setTlb
  split
  · exact State.modCore_warps ..
  · split
    · exact State.modCluster_warps ..
    · split
      · exact State.modCluster_warps ..
      · split
        · exact State.modBuilder_warps ..
        · exact State.modDie_warps ..

@[simp] theorem leaf_warps (s : State) (chain : List Nat) (ctx : Nat) (va : Word) : (s.leaf chain ctx va).1.warps = s.warps := by
  have hfill : ∀ e, (chain.foldl (fun s t => s.fillTlb e t) s).warps = s.warps := fun e =>
    foldl_read (fun s t => fillTlb_warps s e t) chain s
  unfold State.leaf
  dsimp only
  split
  · rfl
  · split
    · exact hfill _
    · split
      · exact hfill _
      · rfl

@[simp] theorem translate_warps (s : State) (chain : List Nat) (ctx : Nat) (va : Word) (acc : Acc) :
    (s.translate chain ctx va acc).1.warps = s.warps := by
  have hleaf := leaf_warps s chain ctx va
  unfold State.translate
  split
  · next hs => rwa [hs] at hleaf
  · next hs =>
    rw [hs] at hleaf
    dsimp only
    split
    · exact hleaf
    · split <;> exact hleaf

@[simp] theorem reach_warps (s : State) (chain : List Nat) (ctx : Nat) (va : Word) (n : Nat) (acc : Acc) :
    (s.reach chain ctx va n acc).1.warps = s.warps := by
  have htranslate := translate_warps s chain ctx va acc
  unfold State.reach
  split
  · next hs => rwa [hs] at htranslate
  · next hs =>
    rw [hs] at htranslate
    split <;> exact htranslate

/-! ### Levels, lines and slots change no warp (12 R271-R285) -/

@[simp] theorem victim_warps (s : State) (ways : Nat) (set prefer : List Nat) :
    (s.victim ways set prefer).2.warps = s.warps := by
  unfold State.victim
  split <;> rfl

@[simp] theorem evictMsc_warps (s : State) (line : Nat) : (s.evictMsc line).warps = s.warps := by
  unfold State.evictMsc
  split <;> rfl

@[simp] theorem fillMsc_warps (s : State) (pa : Nat) (f : Sector → Sector) : (s.fillMsc pa f).warps = s.warps := by
  unfold State.fillMsc
  dsimp only
  split
  · rfl
  · have hvictim := victim_warps s 16 ((s.msc.filter fun (l, _) => mscSet l == mscSet (lineOf pa)).map (·.1)) []
    split
    · next hs => rw [hs] at hvictim; rwa [evictMsc_warps]
    · next hs => rwa [hs] at hvictim

@[simp] theorem dropL2Sector_warps (s : State) (base : Nat) (x : Sector) (bypass : Bool) :
    (s.dropL2Sector base x bypass).warps = s.warps := by
  unfold State.dropL2Sector
  split
  · split <;> rfl
  · split
    · rfl
    · dsimp only
      rw [fillMsc_warps, fillMsc_warps]

@[simp] theorem evictL2_warps (s : State) (line : Nat) : (s.evictL2 line).warps = s.warps := by
  unfold State.evictL2
  split
  · rfl
  · simp only [dropL2Sector_warps]

@[simp] theorem roomInL2_warps (s : State) (line : Nat) : (s.roomInL2 line).warps = s.warps := by
  unfold State.roomInL2
  dsimp only
  split
  · next hs => rw [evictL2_warps, ← victim_warps s, hs]
  · next hs => rw [← victim_warps s, hs]

@[simp] theorem demote_warps (s : State) (line : Nat) : (s.demote line).warps = s.warps := by
  unfold State.demote
  dsimp only
  split
  · split <;> rfl
  · rfl

@[simp] theorem fillLine_warps (s : State) (pa hint : Nat) : (s.fillLine pa hint).warps = s.warps := by
  unfold State.fillLine
  split
  · rfl
  · dsimp only
    simp only [apply_ite State.warps, demote_warps, fillMsc_warps, roomInL2_warps, ite_self]

@[simp] theorem setTimes_warps (s : State) (pa wts rts : Nat) : (s.setTimes pa wts rts).warps = s.warps := by
  unfold State.setTimes
  split <;> rfl

@[simp] theorem checkTime_warps (s : State) (t : Nat) : (s.checkTime t).warps = s.warps := by
  unfold State.checkTime
  split <;> rfl

@[simp] theorem noteCode_warps (s : State) (pa : Nat) : (s.noteCode pa).warps = s.warps := by
  unfold State.noteCode
  split <;> rfl

@[simp] theorem dirtySector_warps (s : State) (pa : Nat) : (s.dirtySector pa).warps = s.warps := by
  unfold State.dirtySector
  split
  · rfl
  · dsimp only
    split <;> rfl

@[simp] theorem pokeBytes_warps (s : State) (pa : Nat) (bs : List Byte) : (s.pokeBytes pa bs).warps = s.warps := by
  unfold State.pokeBytes
  dsimp only
  split
  · exact noteCode_warps ..
  · exact (dirtySector_warps ..).trans (noteCode_warps ..)

@[simp] theorem rawStore_warps (s : State) (p pa : Nat) (bs : List Byte) : (s.rawStore p pa bs).1.warps = s.warps := by
  simp only [State.rawStore, checkTime_warps, pokeBytes_warps, setTimes_warps]

theorem roomForSlot_warps {s t : State} {pa : Nat} {returning : Bool} (h : s.roomForSlot pa returning = some t) :
    t.warps = s.warps := by
  unfold State.roomForSlot at h
  dsimp only at h
  by_cases hopen : (s.residentSlots pa).length < 512
  · rw [if_pos hopen] at h; cases h; rfl
  · rw [if_neg hopen] at h
    by_cases hfull : 1048576 ≤ s.spilledSlots pa - (if returning then 1 else 0)
    · rw [if_pos hfull] at h; cases h
    · rw [if_neg hfull] at h; cases h
      split <;> rfl

@[simp] theorem recall_warps (s : State) (key : Nat) : (s.recall key).warps = s.warps := by
  unfold State.recall
  split
  · split
    · rfl
    · split
      · next hs => exact (roomForSlot_warps hs :)
      · rfl
  · rfl

@[simp] theorem tailrace_warps (s : State) (p key : Nat) (hint : Option Nat) : (s.tailrace p key hint).1.warps = s.warps := by
  unfold State.tailrace
  split
  · dsimp only
    rw [rawStore_warps]
    split
    · simp only [fillLine_warps, recall_warps]
    · split
      · exact recall_warps ..
      · simp only [fillLine_warps, recall_warps]
  · rfl

@[simp] theorem closeOver_warps (s : State) (p pa n : Nat) : (s.closeOver p pa n).warps = s.warps :=
  foldl_read (fun s k => tailrace_warps s p k none) _ s

@[simp] theorem untimedWrite_warps (s : State) (pa : Nat) (bs : List Byte) : (s.untimedWrite pa bs).warps = s.warps := by
  simp only [State.untimedWrite, rawStore_warps, closeOver_warps, fillLine_warps]

/-! ### Saves change no warp in a slot (18 R392, R394) -/

theorem writeSectors_warps (chain : List Nat) (ctx : Nat) (xs : List (Word × List Byte)) (s : State) :
    (writeSectors chain ctx xs s).1.warps = s.warps := by
  induction xs generalizing s with
  | nil => rfl
  | cons x xs ih =>
    obtain ⟨va, bs⟩ := x
    have hreach := reach_warps s chain ctx va bs.length .readWrite
    unfold writeSectors
    split
    · next hs => rwa [hs] at hreach
    · next hs =>
      rw [hs] at hreach
      rw [ih, untimedWrite_warps, hreach]

@[simp] theorem dropMove_warps (s : State) (what id : Nat) : (s.dropMove what id).warps = s.warps := by
  unfold State.dropMove
  split <;> rfl

@[simp] theorem sendOut_warps (s : State) (chain : List Nat) (ctx what id : Nat) (base : Word) (ps : List (Nat × List Byte))
    (regs : List Nat) : (s.sendOut chain ctx what id base ps regs).1.warps = s.warps := by
  unfold State.sendOut
  dsimp only
  split
  · next hs => rw [dropMove_warps, ← writeSectors_warps chain ctx _ s, hs]
  · next hs => exact (congrArg (fun r => r.1.warps) hs).symm.trans (writeSectors_warps chain ctx _ s)

theorem recordFault_warps {s t : State} {die ctx unit : Nat} {acc : Acc} {k : FaultKind} {va : Word} {held : Held}
    (h : s.recordFault die ctx unit acc k va held = some t) : t.warps = s.warps := by
  unfold State.recordFault at h
  split at h
  · cases h
  · split at h
    · cases h; rfl
    · split at h
      · cases h; rfl
      · cases h

/-- A warp that has stopped is written to its save area: it stays as it is, and so does every other. -/
@[simp] theorem saveControl_warps (s : State) (wid : Nat) : (s.saveControl wid).warps = s.warps := by
  unfold State.saveControl
  split
  · rfl
  · dsimp only
    split
    · next hs => rw [← sendOut_warps s, hs]
    · next t va k hs =>
      have hsend : t.warps = s.warps := by rw [← sendOut_warps s, hs]
      cases hfault : t.recordFault _ _ 7 .readWrite k va (.control wid) with
      | none => exact hsend
      | some u => exact (recordFault_warps hfault).trans hsend

/-! ### A trap changes no register (18 R398, R399) -/

/-- The registers and the reservation of a warp as they were. -/
structure SameRegisters (w w' : Warp) : Prop where
  vector : w'.v = w.v
  reserved : w'.res = w.res
  uniform : w'.w = w.w
  predicate : w'.p = w.p

/-- Wherever a trap goes, of the warps it changes its own alone, and of that no register. -/
theorem takeTrap_warps {s : State} {wid : Nat} {w : Warp} (h : s.warp? wid = some w) (c : Cause) (bundle mask : Mask)
    (info tepc : Word) :
    ∃ w', (s.takeTrap wid c bundle mask info tepc).warps = AMap.set s.warps wid w' ∧ SameRegisters w w' := by
  unfold State.takeTrap
  rw [h]
  dsimp only
  split
  · exact ⟨_, rfl, rfl, rfl, rfl, rfl⟩
  · split
    · exact ⟨_, rfl, rfl, rfl, rfl, rfl⟩
    · split
      · exact ⟨_, rfl, rfl, rfl, rfl, rfl⟩
      · split
        · exact ⟨_, saveControl_warps .., rfl, rfl, rfl, rfl⟩
        · exact ⟨_, rfl, rfl, rfl, rfl, rfl⟩

end Sys2Proof.Proofs
end

section
/-! Reads of vector registers that nothing maps (05 R109). -/
namespace Sys2Proof.Proofs
open Sys2Proof.Machine Sys2Proof.Safety Sys2Proof.Laws

theorem vreg_unmapped {w : Warp} {n : Nat} (h : w.mapped n = false) (l : Nat) : w.vreg n l = 0 := by
  have hget : AMap.get w.v n = none := Option.isNone_iff_eq_none.1 (Option.isSome_eq_false_iff.1 h)
  unfold Warp.vreg
  rw [hget]

theorem elemAt_zero (w k : Nat) : elemAt w 0 k = 0 := by
  simp only [elemAt, BitVec.ofNat_eq_ofNat, BitVec.toNat_ofNat, Nat.zero_mod, Nat.zero_shiftRight]

theorem splat_zero (w : Nat) : splat w 0 = 0 := by
  have hjoin : ∀ n, (List.replicate n 0).foldr (fun x acc => x % 2 ^ w + acc * 2 ^ w) 0 = 0 := fun n => by
    induction n with
    | zero => rfl
    | succ n ih => rw [List.replicate_succ, List.foldr_cons, ih, Nat.zero_mod, Nat.zero_mul]
  unfold splat joinElems
  rw [hjoin]
  rfl

/-- Whatever pattern brings it, an unmapped register gives zero. -/
theorem deliver_unmapped {w : Warp} {n : Nat} (h : w.mapped n = false) (e : Nat) (p : Perm) (l : Nat) : w.deliver n e p l = 0 := by
  unfold Warp.deliver
  split
  · rfl
  · split
    · rfl
    · dsimp only
      rw [vreg_unmapped h]
      split
      · rw [elemAt_zero, splat_zero]
      · rfl

/-- Settles O36: every pattern delivers zero from an unmapped register, and the strict read takes its trap before any mark, write or
allocation; a trap keeps the registers and the reservation wherever it goes. -/
theorem unmappedReadsZeroOrTrap : Obligations.UnmappedReadsZeroOrTrap := by
  refine ⟨fun w n e p l h => deliver_unmapped h e p l, ?_⟩
  rintro i s e f c w ⟨henc, hcur, hwarp, hsending⟩ ⟨hlegal, hlevel, hlock, hfault, hring⟩ _ hstrict hunmapped
  obtain ⟨body, hexec⟩ := exec_irlek henc
  have hany : (vectorSources e f).any (fun n => !w.mapped n) = true := by
    rw [← List.not_all_eq_any_not, hunmapped]; rfl
  obtain ⟨w', hwarps, hv, hres, hw, hp⟩ := takeTrap_warps hwarp .regReleased c.lanes (activeLanes w f c.lanes)
    (lowestOf (activeLanes w f c.lanes)) c.pc
  refine ⟨w', ?_, ?_, hv, hres, hw, hp⟩
  · rw [hexec]
    exact irlek_strict hcur hwarp hsending hlegal hlevel hlock hfault hring hstrict hany
  · exact (congrArg (AMap.get · c.wid) hwarps).trans (AMap.get_set_self ..)

end Sys2Proof.Proofs
end

section
/-! An instruction issued with no active lane has the effects of 05 R119, and changes nothing but its warp. -/
namespace Sys2Proof.Proofs
open Sys2Proof.Machine Sys2Proof.Safety Sys2Proof.Laws

/-! ### Destinations, operand by operand -/

/-- The uniform registers that operand `k` names as destinations. -/
def uniformDestsAt (e : Enc) (f : Fields) (k : Nat) : List Nat :=
  match opAt f k with
  | .w n => if (Enc.posAt e k).dst then (List.range (Enc.posAt e k).regs).map (n.toNat + ·) else []
  | _ => []

/-- The predicates that operand `k` names as destinations. -/
def predicateDestsAt (e : Enc) (f : Fields) (k : Nat) : List Nat :=
  match opAt f k with
  | .p n => if (Enc.posAt e k).dst then (List.range (Enc.posAt e k).regs).map (n.toNat + ·) else []
  | _ => []

theorem mem_uniformDests {e : Enc} {f : Fields} {n : Nat} :
    n ∈ uniformDests e f ↔ ∃ k ∈ List.range 5, n ∈ uniformDestsAt e f k := List.mem_flatMap

/-- Without queue bindings the predicate destinations are those that the operands name. -/
theorem mem_predicateDests_unbound {w : Warp} {e : Enc} {f : Fields} {n : Nat} :
    n ∈ predicateDests { w with q := [] } e f ↔ ∃ k ∈ List.range 5, n ∈ predicateDestsAt e f k := by
  have hoperands : predicateDests { w with q := [] } e f = (List.range 5).flatMap (predicateDestsAt e f) := by
    unfold predicateDests
    cases (ringOps e f).1 <;> exact List.append_nil _
  rw [hoperands, List.mem_flatMap]

/-! ### A uniform destination is one register -/

/-- No row of the table writes a group of uniform registers: POPTASK and STEAL read and write theirs as a source (assumption 32). -/
theorem regs_of_uniform_dest {i : Instr} {e : Enc} {f : Fields} (h : i.enc = some (e, f)) :
    ∀ p ∈ e.ops, p.dst = true → Cls.w ∈ p.cls → p.regs = 1 := by
  cases i <;> cases h <;> decide

theorem opsOf_getD (f : Fields) {k : Nat} (h : k < 5) : ((Enc.opsOf f)[k]?).getD .absent = opAt f k := by
  match k, h with
  | 0, _ | 1, _ | 2, _ | 3, _ | 4, _ => rfl

/-- Each operand of a legal word is of a class that its position admits (03 R59, 09 R201). -/
theorem clsOk_of_legal {width nw : Nat} {e : Enc} {f : Fields} (h : Enc.legal width nw e f = true) {k : Nat} (hk : k < 5) :
    Enc.clsOk e.opcode (Enc.posAt e k) (opAt f k) = true := by
  have hops : Enc.opsOk width nw e f = true := by simp only [Enc.legal, Bool.and_eq_true] at h; simp only [h]
  have hpos := List.all_eq_true.1 hops k (List.mem_range.2 hk)
  rw [opsOf_getD f hk] at hpos
  exact (Bool.and_eq_true_iff.1 hpos).1

/-- A uniform destination of a legal word is one register. -/
theorem regs_eq_one {i : Instr} {e : Enc} {f : Fields} {width nw : Nat} (henc : i.enc = some (e, f))
    (hlegal : Enc.legal width nw e f = true) {k : Nat} (hk : k < 5) {n : BitVec 8} (hop : opAt f k = .w n)
    (hdst : (Enc.posAt e k).dst = true) : (Enc.posAt e k).regs = 1 := by
  have hcls := clsOk_of_legal hlegal hk
  have hw : Cls.w ∈ (Enc.posAt e k).cls := by
    simpa only [Enc.clsOk, Operand.cls, hop, List.contains_eq_mem, Bool.or_eq_true, decide_eq_true_eq, Bool.and_eq_true,
      beq_iff_eq, reduceCtorEq, false_and, or_false] using hcls
  cases hget : e.ops[k]? with
  | none => simp only [Enc.posAt, hget, Enc.none_, Option.getD_none, Bool.false_eq_true] at hdst
  | some p =>
    simp only [Enc.posAt, hget, Option.getD_some] at hdst hw ⊢
    exact regs_of_uniform_dest henc p (List.mem_of_getElem? hget) hdst hw

/-! ### The writes of an instruction with no active lane -/

/-- What an instruction with no active lane writes to operand `k`: the identity to a uniform destination, false to predicates. -/
def writeIdentity (e : Enc) (f : Fields) (c : Cur) (ident : Word) (w : Warp) (k : Nat) : Warp :=
  if !(Enc.posAt e k).dst then w
  else match opAt f k with
    | .w n => w.setW n.toNat ident
    | .p n => (List.range (Enc.posAt e k).regs).foldl (fun w j => w.setP (n.toNat + j) c.lanes 0) w
    | _ => w

/-- What it writes to all its operands. -/
def writeIdentities (e : Enc) (f : Fields) (c : Cur) (ident : Word) (w : Warp) : Warp :=
  (List.range 5).foldl (writeIdentity e f c ident) w

/-- The steps of R119: the marks, ZLANE, the writes, and the bundle past the instruction. -/
theorem zeroActive_eq (s : State) (e : Enc) (f : Fields) (c : Cur) (w : Warp) (ident : Word) :
    zeroActive s e f c w ident
      = s.setWarp c.wid ((writeIdentities e f c ident (w.marked e f c).setZlane).advance c c.lanes) := rfl

@[simp] theorem preg_setW (w : Warp) (n : Nat) (x : Word) (k : Nat) : (w.setW n x).preg k = w.preg k := rfl

@[simp] theorem wreg_setP (w : Warp) (n : Nat) (m x : Mask) (k : Nat) : (w.setP n m x).wreg k = w.wreg k := by
  simp only [Warp.wreg, Warp.setP_w]

theorem wreg_writeIdentity {e : Enc} {f : Fields} {c : Cur} {ident : Word} {k : Nat}
    (hone : ∀ n, opAt f k = .w n → (Enc.posAt e k).dst = true → (Enc.posAt e k).regs = 1) (w : Warp) (n : Nat) :
    (writeIdentity e f c ident w k).wreg n = if n ∈ uniformDestsAt e f k then ident else w.wreg n := by
  unfold writeIdentity uniformDestsAt
  cases hdst : (Enc.posAt e k).dst with
  | false => cases opAt f k <;> rfl
  | true =>
    cases hop : opAt f k with
    | w r =>
      simp only [Bool.not_true, Bool.false_eq_true, if_false, if_true, wreg_setW, hone r hop hdst, List.range_one,
        List.map_cons, Nat.add_zero, List.map_nil, List.mem_cons, List.not_mem_nil, or_false]
    | p r =>
      simp only [Bool.not_true, Bool.false_eq_true, if_false, List.not_mem_nil]
      exact foldl_read (read := fun w : Warp => w.wreg n) (fun w j => wreg_setP w (r.toNat + j) c.lanes 0 n) _ w
    | _ => rfl

@[simp] theorem has_zero (l : Nat) : Mask.has 0 l = false := BitVec.getLsbD_zero

theorem preg_writeIdentity (e : Enc) (f : Fields) (c : Cur) (ident : Word) (w : Warp) (k n l : Nat) :
    ((writeIdentity e f c ident w k).preg n).has l
      = if n ≠ 15 ∧ n ∈ predicateDestsAt e f k ∧ c.lanes.has l = true then false else (w.preg n).has l := by
  unfold writeIdentity predicateDestsAt
  cases hdst : (Enc.posAt e k).dst with
  | false => cases opAt f k <;>
    simp only [Bool.not_false, if_true, Bool.false_eq_true, if_false, ite_self, List.not_mem_nil, false_and, and_false]
  | true =>
    cases hop : opAt f k with
    | p r =>
      have hset := foldl_overwrite (read := fun w : Warp => (w.preg n).has l) (v := false)
        (hit := fun j => n = r.toNat + j ∧ r.toNat + j ≠ 15 ∧ c.lanes.has l = true) (List.range (Enc.posAt e k).regs)
        (step := fun w j => w.setP (r.toNat + j) c.lanes 0)
        (fun j _ w => (preg_setP w (r.toNat + j) c.lanes 0 n l).trans (by rw [has_zero])) w
      refine hset.trans (ite_of_iff ?_)
      simp only [if_true, List.mem_map]
      constructor
      · rintro ⟨j, hj, rfl, h15, hl⟩; exact ⟨h15, ⟨j, hj, rfl⟩, hl⟩
      · rintro ⟨h15, ⟨j, hj, rfl⟩, hl⟩; exact ⟨j, hj, rfl, h15, hl⟩
    | _ =>
      simp only [Bool.not_true, Bool.false_eq_true, if_false, preg_setW, List.not_mem_nil, false_and, and_false]

theorem wreg_writeIdentities {i : Instr} {e : Enc} {f : Fields} {width nw : Nat} (henc : i.enc = some (e, f))
    (hlegal : Enc.legal width nw e f = true) (c : Cur) (ident : Word) (w : Warp) (n : Nat) :
    (writeIdentities e f c ident w).wreg n = if n ∈ uniformDests e f then ident else w.wreg n :=
  (foldl_overwrite (read := fun w : Warp => w.wreg n) _ (fun _ hk w => wreg_writeIdentity
    (fun _ => regs_eq_one henc hlegal (List.mem_range.1 hk)) w n) w).trans (ite_of_iff mem_uniformDests.symm)

theorem preg_writeIdentities (e : Enc) (f : Fields) (c : Cur) (ident : Word) (w w0 : Warp) (n l : Nat) :
    ((writeIdentities e f c ident w).preg n).has l
      = if n ≠ 15 ∧ n ∈ predicateDests { w0 with q := [] } e f ∧ c.lanes.has l = true then false else (w.preg n).has l := by
  refine (foldl_overwrite (read := fun w : Warp => (w.preg n).has l) _
    (fun k _ w => preg_writeIdentity e f c ident w k n l) w).trans (ite_of_iff ?_)
  rw [mem_predicateDests_unbound]
  constructor
  · rintro ⟨k, hk, h15, hn, hl⟩; exact ⟨h15, ⟨k, hk, hn⟩, hl⟩
  · rintro ⟨h15, ⟨k, hk, hn⟩, hl⟩; exact ⟨k, hk, h15, hn, hl⟩

/-! ### What stays -/

/-- All of a warp but its uniform registers and predicates. -/
def apartUniform (w : Warp) : Warp := { w with w := [], p := [] }

theorem apartUniform_setP (w : Warp) (n : Nat) (m x : Mask) : apartUniform (w.setP n m x) = apartUniform w := by
  unfold Warp.setP
  split <;> rfl

theorem apartUniform_writeIdentity (e : Enc) (f : Fields) (c : Cur) (ident : Word) (w : Warp) (k : Nat) :
    apartUniform (writeIdentity e f c ident w k) = apartUniform w := by
  unfold writeIdentity
  split
  · rfl
  · split
    · rfl
    · exact foldl_read (fun w j => apartUniform_setP w _ _ _) _ w
    · rfl

theorem apartUniform_writeIdentities (e : Enc) (f : Fields) (c : Cur) (ident : Word) (w : Warp) :
    apartUniform (writeIdentities e f c ident w) = apartUniform w :=
  foldl_read (apartUniform_writeIdentity e f c ident) _ w

/-- Where lanes go depends on the lanes alone. -/
theorem advance_lanes_congr {w w' : Warp} (h : w'.lanes = w.lanes) (c : Cur) (m : Mask) :
    (w'.advance c m).lanes = (w.advance c m).lanes := by
  unfold Warp.advance
  dsimp only
  split <;> simp only [Warp.goHeader, Warp.trimRes, Warp.modLanes, h]

/-- All of a warp that an instruction with no active lane has no effect on. -/
def apartPassed (w : Warp) : Warp := { w with v := [], w := [], p := [], zlane := false, lanes := [], res := [] }

theorem apartPassed_advance (w : Warp) (c : Cur) (m : Mask) : apartPassed (w.advance c m) = apartPassed w := by
  rw [advance_eq]; rfl

theorem apartPassed_marked (w : Warp) (e : Enc) (f : Fields) (c : Cur) : apartPassed (w.marked e f c) = apartPassed w := by
  rw [marked_eq]; rfl

@[simp] theorem wreg_advance (w : Warp) (c : Cur) (m : Mask) (n : Nat) : (w.advance c m).wreg n = w.wreg n := by
  rw [advance_eq]; rfl

@[simp] theorem preg_advance (w : Warp) (c : Cur) (m : Mask) (n : Nat) : (w.advance c m).preg n = w.preg n := by
  rw [advance_eq]; rfl

@[simp] theorem zlane_advance (w : Warp) (c : Cur) (m : Mask) : (w.advance c m).zlane = w.zlane := by rw [advance_eq]

/-- A warp with its last-use marks applied and ZLANE set reads its uniform registers and predicates as before. -/
theorem wreg_marked_setZlane (w : Warp) (e : Enc) (f : Fields) (c : Cur) (n : Nat) :
    (w.marked e f c).setZlane.wreg n = w.wreg n := by
  rw [marked_eq]; rfl

theorem preg_marked_setZlane (w : Warp) (e : Enc) (f : Fields) (c : Cur) (n : Nat) :
    (w.marked e f c).setZlane.preg n = w.preg n := by
  rw [marked_eq]; rfl

theorem lanes_marked (w : Warp) (e : Enc) (f : Fields) (c : Cur) : (w.marked e f c).lanes = w.lanes := by rw [marked_eq]

/-- A warp after an instruction with no active lane is as R119 says. -/
theorem passed_of_legal {i : Instr} {e : Enc} {f : Fields} {c : Cur} {w : Warp} (henc : i.enc = some (e, f))
    (hlegal : Enc.legal w.width w.nw e f = true) :
    Passed i e f c w ((writeIdentities e f c (identityOf i) (w.marked e f c).setZlane).advance c c.lanes) := by
  have happart := apartUniform_writeIdentities e f c (identityOf i) (w.marked e f c).setZlane
  constructor
  case vector => exact (advance_v ..).trans (congrArg Warp.v happart :)
  case uniform =>
    intro n
    rw [wreg_advance, wreg_writeIdentities henc hlegal, wreg_marked_setZlane]
  case predicate =>
    intro n l
    rw [preg_advance, preg_writeIdentities (w0 := w), preg_marked_setZlane]
  case status => exact (zlane_advance ..).trans (congrArg Warp.zlane happart :)
  case lanes =>
    have hlanes : (writeIdentities e f c (identityOf i) (w.marked e f c).setZlane).lanes = (w.marked e f c).lanes :=
      (congrArg Warp.lanes happart :)
    exact advance_lanes_congr (hlanes.trans (lanes_marked ..)) ..
  case rest =>
    generalize hz : writeIdentities e f c (identityOf i) (w.marked e f c).setZlane = z at happart
    have hkept : apartPassed (z.advance c c.lanes) = apartPassed w := calc
      _ = apartPassed z := apartPassed_advance ..
      _ = apartPassed (w.marked e f c).setZlane := (congrArg apartPassed happart :)
      _ = apartPassed w := apartPassed_marked ..
    generalize z.advance c c.lanes = w' at hkept ⊢
    exact (congrArg (fun x : Warp =>
      { x with v := w'.v, w := w'.w, p := w'.p, zlane := w'.zlane, lanes := w'.lanes, res := w'.res }) hkept :)

/-- Settles O35: the shared issue takes the steps of R119, each of which touches what it names alone. -/
theorem noActiveLanePasses : Obligations.NoActiveLanePasses := by
  rintro i s e f c w ⟨henc, hcur, hwarp, hsending⟩ ⟨hlegal, hlevel, hlock, hfault, hring⟩ hstrict hinactive
  obtain ⟨body, hexec⟩ := exec_irlek henc
  refine ⟨_, ?_, passed_of_legal henc hlegal⟩
  rw [hexec, irlek_inactive hcur hwarp hsending hlegal hlevel hlock hfault hring hstrict hinactive, zeroActive_eq]

end Sys2Proof.Proofs
end

section
/-! Floating compares, classes, conversions, complex and mode instructions run to their end (07 R158-R173). -/
namespace Sys2Proof.Proofs
open Sys2Proof.Machine Sys2Proof.Safety Sys2Proof.Laws

/-! ### Values and flags of the lanes computed (02 R33, 06 R132) -/

/-- Among lanes paired with their results, the one found for a lane is the lane's own, where it is one of them. -/
theorem find?_paired {α : Type} (g : Nat → α) (ls : List Nat) (l : Nat) :
    (ls.map fun k => (k, g k)).find? (fun r => r.1 == l) = if ls.contains l then some (l, g l) else none := by
  induction ls with
  | nil => rfl
  | cons k ls ih =>
    by_cases hk : k = l
    · simp [hk]
    · simpa [hk, Ne.symm hk] using ih

theorem flagsOf_map {α : Type} (flags : α → FFlags) (xs : List α) :
    flagsOf (xs.map flags) = xs.foldl (fun fl x => fl ||| flags x) 0#5 := List.foldl_map

/-- The flags folded over lanes paired with their results are those of the lanes. -/
theorem foldl_flags_paired {α : Type} (g : Nat → α) (flags : α → FFlags) (ls : List Nat) :
    (ls.map fun l => (l, g l)).foldl (fun fl r => fl ||| flags r.2) 0#5 = flagsOf (ls.map fun l => flags (g l)) :=
  List.foldl_map.trans (flagsOf_map _ _).symm

/-- A result is written from the lanes computed alone. -/
theorem dest_congr {i : Iss} {v v' : Nat → Word} (h : ∀ l ∈ computed i, v l = v' l) : i.dest v = i.dest v' := by
  unfold computed at h
  unfold Iss.dest toDest
  cases hop : i.f.op0 with
  | v n last perm =>
    rw [hop] at h
    exact congrArg (fun xs => [Wr.v n.toNat xs]) (List.map_congr_left fun l hl => congrArg (Prod.mk l) (h l hl))
  | w n =>
    rw [hop] at h
    exact congrArg (fun x => [Wr.w n.toNat x]) (h i.low List.mem_cons_self)
  | q n =>
    rw [hop] at h
    exact congrArg (fun xs => [Wr.push n.toNat xs]) (List.map_congr_left h)
  | _ => rfl

theorem ok_congr {s s' : State} {ws ws' : List Wr} (hs : s = s') (hws : ws = ws') : Res.ok s ws = .ok s' ws' := by
  rw [hs, hws]

theorem accrue_lanes_congr {w : Warp} {fl fl' : FFlags} {ls ls' : List Lane} (hfl : fl = fl') (hls : ls = ls') :
    ({ w.accrue fl with lanes := ls } : Warp) = { w.accrue fl' with lanes := ls' } := by
  rw [hfl, hls]

/-- An instruction of one value a lane with flags does what its row says where the values and flags are those of the row. -/
theorem perLaneFlags_does {ins : Fields → Instr} {enc : Enc} {val : Iss → Nat → Word × FFlags}
    {body : Fields → Iss → Nat → Word × FFlags} (hx : ∀ f s, exec (ins f) s = floatwise enc f s (body f))
    (hval : ∀ i l, body i.f i l = val i l) : (row ins enc (perLaneFlags val)).Does := by
  refine does_ok hx (fun _ _ _ => rfl) fun i s _ _ => ?_
  have hbody : body i.f i = val i := funext (hval i)
  dsimp only
  rw [hbody]
  refine ok_congr (congrArg (accrued i s) (foldl_flags_paired (val i) Prod.snd (computed i))) ?_
  refine dest_congr fun l hl => ?_
  generalize hfound : List.find? _ _ = found
  have := hfound.symm.trans (find?_paired (val i) (computed i) l)
  rw [this, if_pos (List.contains_iff_mem.2 hl)]

/-! ### Compares, classes and conversions (07 R162, R163, R166) -/

theorem classRows_do : AllDo classRows := by
  simp only [AllDo, classRows, List.forall_mem_cons]
  refine ⟨does_ok (fun _ _ => rfl) (fun _ _ _ => rfl) fun i s _ _ => ?_, perLane_does (fun _ _ => rfl) fun _ _ => rfl,
    does_ok (fun _ _ => rfl) (fun _ _ _ => rfl) fun i s _ _ => ?_,
    does_ok (fun _ _ => rfl) (fun _ _ _ => rfl) fun i s _ _ => ?_, List.forall_mem_nil _⟩
  · simp only [row, leaving, predTo, flagsOf_map]
    cases i.f.op0 <;> rfl
  · simp only [row, writes, predTo]
    cases i.f.op0 <;> rfl
  · have hfind (l : Nat) := find?_paired (converted i) (computed i) l
    have hflags := foldl_flags_paired (converted i) (fun r => r.2.1) (computed i)
    refine ok_congr (congrArg (s.modWarp i.wid) (funext fun w => ?_)) (dest_congr fun l hl => ?_)
    · refine accrue_lanes_congr hflags (List.map_congr_left fun y _ => ?_)
      obtain ⟨x, l⟩ := y
      dsimp only
      generalize hfound : List.find? _ _ = found
      rw [hfound.symm.trans (hfind l)]
      cases (computed i).contains l <;> rfl
    · dsimp only
      generalize hfound : List.find? _ _ = found
      rw [hfound.symm.trans (hfind l), if_pos (List.contains_iff_mem.2 hl)]
      rfl

theorem complexRows_do : AllDo complexRows := by
  simp only [AllDo, complexRows, List.forall_mem_cons]
  exact ⟨perLaneFlags_does (fun _ _ => rfl) fun _ _ => rfl, perLaneFlags_does (fun _ _ => rfl) fun _ _ => rfl,
    perLaneFlags_does (fun _ _ => rfl) fun _ _ => rfl, perLane_does (fun _ _ => rfl) fun _ _ => rfl,
    perLaneFlags_does (fun _ _ => rfl) fun _ _ => rfl, List.forall_mem_nil _⟩

/-! ### The mode register and the stochastic-rounding state (07 R158, R159, R168) -/

/-- RM is replaced where bits [2:0] of the value are at most 4 (07 R158). -/
theorem setRm_eq (m v : Word) : setRm m v = if v.toNat % 8 ≤ 4 then (m &&& ~~~7#64) ||| (v &&& 7#64) else m := rfl

theorem exec_modesetAll (f : Fields) (s : State) : exec (.modesetAll f) s = modeset Enc.modesetAll f s modeWrite := rfl

theorem exec_modesetRm (f : Fields) (s : State) : exec (.modesetRm f) s = modeset Enc.modesetRm f s setRm := rfl

theorem exec_modesetFtz (f : Fields) (s : State) :
    exec (.modesetFtz f) s = modeset Enc.modesetFtz f s fun m v => (m &&& ~~~8#64) ||| ((v &&& 1#64) <<< 3) := rfl

theorem exec_modesetFclr (f : Fields) (s : State) :
    exec (.modesetFclr f) s = modeset Enc.modesetFclr f s fun m v => m &&& ~~~(v &&& 0x1F00#64) := rfl

/-- A MODESET does what its row says where both make one value of the mode register. -/
theorem modeset_does {ins : Fields → Instr} {enc : Enc} {g : Word → Word → Word}
    (hx : ∀ f s, exec (ins f) s = modeset enc f s g) : (row ins enc (modeTo g)).Does :=
  does_ok hx (fun _ _ _ => rfl) fun _ _ _ _ => rfl

/-- A SEED does what its row says where both make one state a lane. -/
theorem seedLanes_does {ins : Fields → Instr} {enc : Enc} {x : Iss → Nat → Nat}
    (hx : ∀ f s, exec (ins f) s = seedLanes enc f s x) : (row ins enc (seeds x)).Does :=
  does_ok hx (fun _ _ _ => rfl) fun _ _ _ _ => rfl

theorem modeRows_do : AllDo modeRows := by
  simp only [AllDo, modeRows, List.forall_mem_cons, ← setRm_eq]
  exact ⟨modeset_does exec_modesetAll, modeset_does exec_modesetRm, modeset_does exec_modesetFtz, modeset_does exec_modesetFclr,
    perLane_does (fun _ _ => rfl) fun _ _ => rfl, does_ok (fun _ _ => rfl) (fun _ _ _ => rfl) fun _ _ _ _ => rfl,
    seedLanes_does fun _ _ => rfl, seedLanes_does fun _ _ => rfl, List.forall_mem_nil _⟩

/-- Settles O3, family by family: an instruction of one value a lane writes what it computed, found again lane by lane, and accrues
the flags of the lanes computed. -/
theorem conversionsAndModeComplete : Obligations.ConversionsAndModeComplete := by
  simp only [Obligations.ConversionsAndModeComplete, allDo_append]
  exact ⟨⟨classRows_do, complexRows_do⟩, modeRows_do⟩

end Sys2Proof.Proofs
end

section
/-! MODESET writes the fields of its variant to the mode register, and nothing with no active lane (07 R158). -/
namespace Sys2Proof.Proofs
open Sys2Proof.Machine Sys2Proof.Safety Sys2Proof.Laws

/-! ### The mode register while operands are read -/

/-- The mode register of a warp. -/
def modeOf (s : State) (wid : Nat) : Option Word := (s.warp? wid).map (·.mode)

theorem modeOf_congr {s t : State} (h : t.warps = s.warps) (wid : Nat) : modeOf t wid = modeOf s wid := by
  unfold modeOf State.warp?
  rw [h]

theorem modeOf_modWarp {g : Warp → Warp} (hg : ∀ w, (g w).mode = w.mode) (s : State) (k wid : Nat) :
    modeOf (s.modWarp k g) wid = modeOf s wid := by
  unfold State.modWarp
  split
  · simp only [modeOf, State.warp?, AMap.get_modify]
    split
    · next h => rw [h, Option.map_map]; exact congrArg (Option.map · _) (funext hg)
    · rfl
  · rfl

theorem modeOf_raisePts (s : State) (k t wid : Nat) : modeOf (s.raisePts k t) wid = modeOf s wid :=
  modeOf_modWarp (g := fun w => { w with pts := max w.pts t }) (fun _ => rfl) ..

/-- A change of every entry that leaves its key and what is read of it. -/
theorem get_map_read {α β : Type} {g : Nat × α → Nat × α} {read : α → β} (hkey : ∀ x, (g x).1 = x.1)
    (hread : ∀ x, read (g x).2 = read x.2) (m : AMap α) (n : Nat) :
    (AMap.get (m.map g) n).map read = (AMap.get m n).map read := by
  induction m with
  | nil => rfl
  | cons x m ih =>
    simp only [List.map_cons, AMap.get, hkey]
    split
    · exact congrArg some (hread x)
    · exact ih

theorem modeOf_landed (s : State) (k : Nat) (p : Flight → Bool) (wid : Nat) : modeOf (s.landed k p) wid = modeOf s wid := by
  unfold State.landed
  dsimp only
  split
  · rfl
  · refine get_map_read (read := Warp.mode) ?_ ?_ s.warps wid <;> exact fun _ => rfl

theorem modeOf_popLanes (k allot line ep wid : Nat) (ls : List Nat) (s : State) (xs : AMap Word) :
    modeOf (popLanes k allot line ep ls s xs).1 wid = modeOf s wid := by
  induction ls generalizing s xs with
  | nil => rfl
  | cons l ls ih =>
    unfold popLanes
    dsimp only
    split
    · rfl
    · next a _ =>
      have hclosed : modeOf (if (a.desc line).closed = true then s.raisePts k (AMap.getD a.edges (closeKey line) 0) else s) wid
          = modeOf s wid := by
        split
        · exact modeOf_raisePts ..
        · rfl
      split
      · rw [ih, modeOf_modWarp fun w => Warp.setP_mode ..]
        exact hclosed
      · rw [ih, modeOf_raisePts]
        exact hclosed

/-- An instruction's pops, and the updates that its reads show to have landed, leave every mode register. -/
theorem modeOf_deliver (s : State) (k : Nat) (e : Enc) (f : Fields) (act : Mask) (pop : Option (Nat × Nat × Nat))
    (bs : List Blocked) (wid : Nat) : modeOf (s.deliver k e f act pop bs).1 wid = modeOf s wid := by
  have htake : modeOf (s.takeRings k act pop bs).1 wid = modeOf s wid := by
    unfold State.takeRings
    refine (foldl_read (read := (modeOf · wid)) (fun s b => modeOf_congr (State.modCore_warps ..) wid) bs _).trans ?_
    split
    · exact modeOf_popLanes ..
    · rfl
  unfold State.deliver
  dsimp only
  split
  · rw [modeOf_landed, htake]
  · exact htake

/-! ### The fields that a variant writes (07 Table 7.2, R158) -/

/-- A value with the bits of a mask replaced. -/
def replaced (c m x : Word) : Word := (m &&& ~~~c) ||| (x &&& c)

theorem getLsbD_replaced (c m x : Word) (k : Nat) :
    (replaced c m x).getLsbD k = if c.getLsbD k then x.getLsbD k else m.getLsbD k := by
  by_cases hk : k < 64
  · simp only [replaced, BitVec.getLsbD_or, BitVec.getLsbD_and, BitVec.getLsbD_not, hk, decide_true, Bool.true_and]
    cases c.getLsbD k <;> simp
  · simp only [BitVec.getLsbD_of_ge _ _ (Nat.le_of_not_lt hk), Bool.false_eq_true, if_false]

/-- A field within the mask is the new one. -/
theorem extract_replaced_in {c : Word} {lo n : Nat} (hc : c.extractLsb' lo n = BitVec.allOnes n) (m x : Word) :
    (replaced c m x).extractLsb' lo n = x.extractLsb' lo n := by
  ext k hk
  have hbit := congrArg (·.getLsbD k) hc
  simp only [BitVec.getLsbD_extractLsb', BitVec.getLsbD_allOnes, hk, decide_true, Bool.true_and] at hbit
  simp only [BitVec.getElem_extractLsb', getLsbD_replaced, hbit, if_true]

/-- A field apart from the mask stays. -/
theorem extract_replaced_out {c : Word} {lo n : Nat} (hc : c.extractLsb' lo n = 0#n) (m x : Word) :
    (replaced c m x).extractLsb' lo n = m.extractLsb' lo n := by
  ext k hk
  have hbit := congrArg (·.getLsbD k) hc
  simp only [BitVec.getLsbD_extractLsb', BitVec.getLsbD_zero, hk, decide_true, Bool.true_and] at hbit
  simp only [BitVec.getElem_extractLsb', getLsbD_replaced, hbit, Bool.false_eq_true, if_false]

/-- Bits apart from the mask are zero where they were. -/
theorem and_replaced {c r : Word} (hc : c &&& r = 0) {m x : Word} (hm : m &&& r = 0) : replaced c m x &&& r = 0 := by
  refine BitVec.eq_of_getLsbD_eq fun k _ => ?_
  have hck := congrArg (·.getLsbD k) hc
  have hmk := congrArg (·.getLsbD k) hm
  simp only [BitVec.getLsbD_and] at hck hmk
  rw [BitVec.getLsbD_and, getLsbD_replaced]
  cases hbit : c.getLsbD k with
  | true => rw [hbit, Bool.true_and] at hck; simp [hck]
  | false => exact hmk

theorem modeAfter_setRm (v m : Word) : modeAfter 1 v m (setRm m v) := by
  have hset : setRm m v = if (v.extractLsb' 0 3).toNat ≤ 4 then replaced 7 m v else m := rfl
  rw [hset]
  split
  · next h =>
    exact ⟨(extract_replaced_in rfl m v).trans (if_pos ⟨Nat.le_refl _, h⟩).symm, getLsbD_replaced 7 m v 3,
      extract_replaced_out rfl m v, and_replaced rfl⟩
  · next h => exact ⟨(if_neg fun hfits => h hfits.2).symm, rfl, rfl, id⟩

theorem modeAfter_ftz (v m : Word) : modeAfter 2 v m ((m &&& ~~~8#64) ||| ((v &&& 1#64) <<< 3)) := by
  have hftz : (v &&& 1#64) <<< 3 = (v <<< 3) &&& 8#64 := BitVec.shiftLeft_and_distrib ..
  rw [hftz]
  exact ⟨extract_replaced_out rfl m _, (getLsbD_replaced 8 m _ 3).trans (by simp), extract_replaced_out rfl m _,
    and_replaced rfl⟩

theorem modeAfter_fclr (v m : Word) : modeAfter 3 v m (m &&& ~~~(v &&& 0x1F00#64)) := by
  have hclear : m &&& ~~~(v &&& 0x1F00#64) = replaced 0x1F00 m (m &&& ~~~v) := by
    refine BitVec.eq_of_getLsbD_eq fun k hk => ?_
    rw [getLsbD_replaced, BitVec.getLsbD_and, BitVec.getLsbD_and, BitVec.getLsbD_not, BitVec.getLsbD_not, BitVec.getLsbD_and]
    cases (0x1F00#64).getLsbD k <;> simp [hk]
  rw [hclear]
  refine ⟨extract_replaced_out rfl m _, getLsbD_replaced _ m _ 3, (extract_replaced_in rfl m _).trans ?_, and_replaced rfl⟩
  rw [BitVec.extractLsb'_and, BitVec.extractLsb'_not_of_lt (by decide)]
  rfl

theorem modeAfter_modeWrite (v m : Word) : modeAfter 0 v m (modeWrite m v) := by
  have hwrite : modeWrite m v = replaced 0x1F08 (setRm m v &&& 7) v := by
    unfold replaced
    rw [BitVec.and_assoc]
    rfl
  obtain ⟨hrm, -, -, -⟩ := modeAfter_setRm v m
  rw [hwrite]
  have hkept : modeRm (setRm m v &&& 7) = modeRm (setRm m v) := by
    rw [modeRm, BitVec.extractLsb'_and]
    exact BitVec.and_allOnes
  have hcleared : setRm m v &&& 7 &&& ~~~0x1F0F#64 = 0 := by
    rw [BitVec.and_assoc]
    exact BitVec.and_zero
  exact ⟨((extract_replaced_out rfl _ v).trans hkept).trans (hrm.trans (ite_of_iff (and_congr_left' (by decide)))),
    getLsbD_replaced _ _ v 3, extract_replaced_in rfl _ v, fun _ => and_replaced rfl hcleared⟩

/-! ### With an active lane and without one -/

/-- Where no register is allocated, any reservation covers the writes. -/
theorem covered_nil (s : State) (e : Enc) (f : Fields) (c : Cur) : Covered s e f c [] := by
  have hcovers (w : Warp) : (w.marked e f c).covers c [] = true := decide_eq_true (Nat.zero_le _)
  unfold Covered
  cases s.warp? c.wid with
  | none => rfl
  | some w => exact hcovers w

/-- A warp in a slot after a change of it. -/
theorem warp?_modWarp {s : State} {k : Nat} {w : Warp} (hslot : isSlot k) (h : s.warp? k = some w) (g : Warp → Warp) :
    (s.modWarp k g).warp? k = some (g w) := by
  have hlt : k < savedWid := Nat.lt_trans hslot (by decide)
  unfold State.modWarp State.warp?
  rw [if_pos hlt, AMap.get_modify_self]
  exact congrArg (Option.map g) h

/-- What stands in the mode register of a warp after an instruction that writes no register. -/
theorem mode_finish_nil (w : Warp) (e : Enc) (f : Fields) (c : Cur) :
    (((w.marked e f c).written c []).advance c c.lanes).mode = w.mode := by
  rw [advance_eq, marked_eq]
  rfl

/-- A MODESET whose value has the fields of its variant sets the mode register so: it computes from the warp as delivery leaves it. -/
theorem setsMode_of_modeset {ins : Fields → Instr} {enc : Enc} {variant : Nat} {g : Word → Word → Word}
    (hx : ∀ f s, exec (ins f) s = modeset enc f s g) (hg : ∀ v m, modeAfter variant v m (g m v)) :
    SetsMode ins enc variant := by
  rintro f s s1 c push i ⟨⟨w, hr, pop, bs, popped, hq, ht, rfl⟩, -, -⟩ hslot
  have ⟨_, hwarp, _⟩ := hr
  obtain ⟨w1, hw1, hmode⟩ : ∃ w1, s1.warp? c.wid = some w1 ∧ w1.mode = w.mode := by
    have hkept := modeOf_deliver s c.wid enc f (activeLanes w f c.lanes) pop bs c.wid
    rw [row] at ht
    rw [ht, modeOf, modeOf, hwarp] at hkept
    exact Option.map_eq_some_iff.1 hkept
  refine ⟨_, _, (hx f s).trans (irlek_ok hr hq ht rfl (covered_nil ..)), finish_warp (warp?_modWarp hslot hw1 _), ?_⟩
  rw [mode_finish_nil]
  exact hmode ▸ hg _ _

/-- Of a warp, an instruction with no active lane sets ZLANE and keeps the mode register (05 R119). -/
theorem leavesMode_of_enc {ins : Fields → Instr} {enc : Enc} (henc : ∀ f, (ins f).enc = some (enc, f))
    (hlevel : ∀ f, needsHandler (ins f) = false) : LeavesMode ins enc := by
  intro f s c w hcur hwarp hsending _ hlegal hlock hfault hring hstrict hinactive
  have hany : needsHandler (ins f) = true → w.handler = true := fun h => nomatch (hlevel f).symm.trans h
  obtain ⟨w', hexec, hpassed⟩ := noActiveLanePasses (ins f) s enc f c w ⟨henc f, hcur, hwarp, hsending⟩
    ⟨hlegal, hany, hlock, hfault, hring⟩ hstrict hinactive
  exact ⟨_, w', hexec, AMap.get_set_self .., (congrArg Warp.mode hpassed.rest :), hpassed.status⟩

/-- Settles O32: delivery keeps the mode register, which MODESET then writes; with no active lane it is not among what R119
changes. -/
theorem modeRegisterIsSet : Obligations.ModeRegisterIsSet :=
  ⟨⟨setsMode_of_modeset exec_modesetAll modeAfter_modeWrite, setsMode_of_modeset exec_modesetRm modeAfter_setRm,
      setsMode_of_modeset exec_modesetFtz modeAfter_ftz, setsMode_of_modeset exec_modesetFclr modeAfter_fclr⟩,
    leavesMode_of_enc (fun _ => rfl) fun _ => rfl, leavesMode_of_enc (fun _ => rfl) fun _ => rfl,
    leavesMode_of_enc (fun _ => rfl) fun _ => rfl, leavesMode_of_enc (fun _ => rfl) fun _ => rfl⟩

end Sys2Proof.Proofs
end

section
/-! Queue instructions run to their end: creating and binding queues, QTRY, QPEEK, QLEN and QCLOSE (09 R214-R217). -/
namespace Sys2Proof.Proofs
open Sys2Proof.Machine Sys2Proof.Safety Sys2Proof.Laws

/-! ### Bodies that answer as their row says -/

/-- An instruction that sometimes goes past itself and sometimes moves its lanes otherwise. -/
theorem does_ok_or_move {r : Row} {body : Fields → Iss → State → Res} {ident : Fields → Word}
    (hx : ∀ f s, exec (r.ins f) s = irlek r.enc f s (body f) (ident f) (r.level f))
    (hb : ∀ i s, r.eff.cond i s = true →
      body i.f i s = .move (r.eff.st i s) (r.eff.ws i s) (r.eff.mv i s)
      ∨ body i.f i s = .ok (r.eff.st i s) (r.eff.ws i s) ∧ r.eff.mv i s = fun w => w.advance i.c i.c.lanes) : r.Does := by
  rintro f s s1 c push i ⟨⟨w, hr, pop, bs, popped, hq, ht, rfl⟩, hcond, hcov⟩
  rw [hx]
  rcases hb _ _ hcond with hmove | ⟨hok, hmv⟩
  · exact irlek_move hr hq ht hmove hcov
  · rw [Row.after, hmv]
    exact irlek_ok hr hq ht hok hcov

/-- An instruction described only where its description answers: the body answers what the description does. -/
theorem when_does {ins : Fields → Instr} {enc : Enc} {run : Iss → State → Option (State × List Wr)}
    {body : Fields → Iss → State → Res} (hx : ∀ f s, exec (ins f) s = irlek enc f s (body f))
    (hb : ∀ i s t ws, run i s = some (t, ws) → body i.f i s = .ok t ws) : (row ins enc (when run)).Does := by
  refine does_ok hx (fun _ _ _ => rfl) fun i s _ hcond => ?_
  obtain ⟨⟨t, ws⟩, hrun⟩ := Option.isSome_iff_exists.1 hcond
  simp only [row, when, hrun, Option.map_some, Option.getD_some]
  exact hb i s t ws hrun

theorem withAllot_some {i : Iss} {s : State} {id : Nat} {a : Allot} (h : s.allotOf i.wid i.w = some (id, a))
    (body : Nat → Allot → Res) : withAllot i s body = body id a := by
  rw [withAllot, h]

/-! ### Creating and dropping queues (09 R214) -/

theorem qinit_does : (row .qinit Enc.qinit (when qinit)).Does := by
  refine when_does (fun _ _ => rfl) fun i s t ws h => ?_
  obtain ⟨⟨id, a⟩, hallot, h⟩ := Option.bind_eq_some_iff.1 h
  obtain ⟨hcond, h⟩ := guard_bind.1 h
  cases h
  simp only [Bool.and_eq_true, beq_iff_eq, decide_eq_true_eq] at hcond
  obtain ⟨⟨⟨halign, hk⟩, hsize⟩, hpresent⟩ := hcond
  dsimp only
  rw [withAllot_some hallot, if_neg (by simp [halign]), if_neg (by simp [hk, hsize]), if_neg (by simp [hpresent])]
  split
  · next hclaimed => simp [hclaimed]
  · next hfree =>
    split
    · next hfull => simp [hfree, Nat.not_lt.2 hfull]
    · next hroom => simp [hfree, Nat.lt_of_not_le hroom]

theorem qdrop_does : (row .qinitDrop Enc.qinitDrop (when qdrop)).Does := by
  refine when_does (fun _ _ => rfl) fun i s t ws h => ?_
  obtain ⟨⟨id, a⟩, hallot, h⟩ := Option.bind_eq_some_iff.1 h
  obtain ⟨halign, h⟩ := guard_bind.1 h
  cases h
  dsimp only
  rw [withAllot_some hallot, if_neg (by simpa using halign)]
  generalize a.queues.contains _ = starts
  generalize (_ || List.any _ _) = used
  cases starts with
  | false => rfl
  | true => cases used <;> rfl

/-! ### Bindings (09 R215) -/

/-- QBIND in either direction, with the end predicate of its row. -/
theorem qbind_does {ins : Fields → Instr} {enc : Enc} {push : Bool} {ep : Fields → BitVec 4} {epRow : Iss → BitVec 4}
    (hx : ∀ f s, exec (ins f) s = bindQueue enc f s push (ep f)) (hep : ∀ i, ep i.f = epRow i) :
    (row ins enc (when (qbind push epRow))).Does := by
  refine when_does hx fun i s t ws h => ?_
  obtain ⟨⟨id, a⟩, hallot, h⟩ := Option.bind_eq_some_iff.1 h
  obtain ⟨hcond, h⟩ := guard_bind.1 h
  cases h
  simp only [Bool.and_eq_true, beq_iff_eq, Bool.not_eq_true'] at hcond
  obtain ⟨⟨⟨halign, hstarts⟩, hray⟩, hhit⟩ := hcond
  dsimp only
  rw [withAllot_some hallot, if_neg (by rw [halign, hstarts]; decide), if_neg (by rw [hray, hhit]; decide), hep]

theorem qunbind_does : (row .qunbind Enc.qunbind <| leaving
    (fun i s => s.modWarp i.wid fun w => { w with q := AMap.erase w.q (regNum i.f.op0) }) fun _ => []).Does :=
  does_ok (fun _ _ => rfl) (fun _ _ _ => rfl) fun _ _ _ _ => rfl

/-! ### Trying, peeking, lengths and closes (09 R216, R217) -/

theorem qtry_does : (row .qtry Enc.qtry (when qtry)).Does := by
  refine when_does (fun _ _ => rfl) fun i s t ws h => ?_
  obtain ⟨⟨id, a, line⟩, hbound, h⟩ := Option.bind_eq_some_iff.1 h
  obtain ⟨hfits, h⟩ := guard_bind.1 h
  dsimp only
  rw [hbound]
  dsimp only
  rw [if_neg (by revert hfits; cases i.f.op0 <;> simp [Operand.cls])]
  split at h
  · next hfew => cases h; exact if_pos hfew
  · next henough => cases h; exact if_neg henough

theorem qpeek_does : (row .qpeek Enc.qpeek (when qpeek)).Does := by
  refine when_does (fun _ _ => rfl) fun i s t ws h => ?_
  obtain ⟨_, hbound, h⟩ := Option.bind_eq_some_iff.1 h
  cases h
  dsimp only
  rw [hbound]

theorem qlen_does : (row .qlen Enc.qlen (when qlen)).Does := by
  refine when_does (fun _ _ => rfl) fun i s t ws h => ?_
  obtain ⟨_, hbound, h⟩ := Option.bind_eq_some_iff.1 h
  cases h
  dsimp only
  rw [hbound]

theorem qclose_does : (row .qclose Enc.qclose (when qclose)).Does := by
  refine when_does (fun _ _ => rfl) fun i s t ws h => ?_
  unfold qclose at h
  dsimp only
  cases hbound : s.bound i.wid i.w (regNum i.f.op0) true with
  | error c => rw [hbound] at h; cases h
  | ok x =>
    rw [hbound] at h
    obtain ⟨hplaced, h⟩ := guard_bind.1 h
    cases h
    dsimp only
    rw [if_neg (by simpa using hplaced)]
    split <;> rfl

/-- Settles O7, row by row: past the guards of its description each instruction takes the branch that the description tells. -/
theorem queuesComplete : Obligations.QueuesComplete := by
  simp only [Obligations.QueuesComplete, AllDo, queueRows, List.forall_mem_cons]
  exact ⟨qbind_does (fun _ _ => rfl) fun _ => rfl, qbind_does (fun _ _ => rfl) fun _ => rfl, qunbind_does, qinit_does,
    qdrop_does, qtry_does, qpeek_does, qlen_does, qclose_does, List.forall_mem_nil _⟩

end Sys2Proof.Proofs
end

section
/-! Task and phase instructions run to their end: deques, tasks and their weights, and phases (09 R218-R222). -/
namespace Sys2Proof.Proofs
open Sys2Proof.Machine Sys2Proof.Safety Sys2Proof.Laws

/-! ### Creating and dropping deques (09 R218) -/

theorem dqset_does : (row .dqset Enc.dqset (when dqset)).Does := by
  refine when_does (fun _ _ => rfl) fun i s t ws h => ?_
  obtain ⟨⟨id, a⟩, hallot, h⟩ := Option.bind_eq_some_iff.1 h
  obtain ⟨hcond, h⟩ := guard_bind.1 h
  cases h
  simp only [Bool.and_eq_true, beq_iff_eq, decide_eq_true_eq] at hcond
  obtain ⟨⟨⟨⟨⟨⟨hbase, hlimit⟩, hd⟩, hleast⟩, hmost⟩, hsize⟩, hpresent⟩ := hcond
  dsimp only
  rw [withAllot_some hallot, if_neg (by simp [hbase, hlimit]), if_neg (by simp [hd, hleast, hmost, hsize]),
    if_neg (by simp [hpresent])]
  generalize overlapsAny _ _ _ = claimed
  generalize List.any _ _ = taken
  cases claimed with
  | true => rfl
  | false => cases taken <;> rfl

theorem dqclr_does : (row .dqsetClr Enc.dqsetClr (when dqclr)).Does := by
  refine when_does (fun _ _ => rfl) fun i s t ws h => ?_
  obtain ⟨⟨id, a⟩, hallot, h⟩ := Option.bind_eq_some_iff.1 h
  obtain ⟨hd, h⟩ := guard_bind.1 h
  cases h
  dsimp only
  rw [withAllot_some hallot, if_neg (Nat.not_lt.2 hd)]
  cases hempty : (AMap.get a.deques (i.uni 1).toNat).any fun x => a.dequeCount x.1 == 0 with
  | true =>
    obtain ⟨⟨base, limit⟩, hdeque, hcount⟩ := (Option.any_eq_true _ _).1 hempty
    rw [hdeque]
    exact if_neg (by simpa using hcount)
  | false =>
    cases hdeque : AMap.get a.deques (i.uni 1).toNat with
    | none => rfl
    | some x =>
      rw [hdeque, Option.any_some] at hempty
      exact if_pos (bne_iff_ne.2 (beq_eq_false_iff_ne.1 hempty))

/-! ### Roots (09 R209, R211) -/

/-- An update that needs no wait and no fault goes on with what it found. -/
theorem rootOp_done {i : Iss} {s t : State} {va : Word} {g : Nat → Nat} {old : Nat} (h : rootDone i s va g = some (t, old))
    (body : State → Nat → Res) : rootOp i s va g body = body t old := by
  unfold rootDone at h
  unfold rootOp
  split at h
  · cases h
  · next hplaced =>
    rw [if_neg hplaced]
    cases hupdate : s.rootUpdate i.wid i.w.ctx va g with
    | done t old => rw [hupdate] at h; cases h; rfl
    | wait t => rw [hupdate] at h; cases h
    | fault t va k => rw [hupdate] at h; cases h

/-! ### Tasks (09 R219-R221) -/

theorem ownersTurn_some {s : State} {a : Allot} {d : Nat} {x : Nat × Nat} (h : AMap.get a.deques d = some x) :
    ownersTurn s a d = !s.stolenNow a d := by
  simp [ownersTurn, h]

theorem fullDeque_some {a : Allot} {d base limit : Nat} (h : AMap.get a.deques d = some (base, limit)) :
    fullDeque a d = if a.dequeCount base = 0 then none else some (base, limit) := by
  by_cases hcount : a.dequeCount base = 0 <;> simp [fullDeque, h, hcount]

theorem roomyDeque_some {a : Allot} {d base limit : Nat} (h : AMap.get a.deques d = some (base, limit)) :
    roomyDeque a d = if a.dequeCount base = dequeSlots base limit then none else some (base, limit) := by
  by_cases hfull : a.dequeCount base = dequeSlots base limit <;> simp [roomyDeque, h, hfull]

/-- A steal takes what its description says, and goes on as its miss says where that is nothing. -/
theorem steal_eq (i : Iss) (s : State) (d j : Nat) (miss : State → Res) :
    steal i s d j miss = (stolen i s d j).elim (miss s) fun x => .ok x.1 x.2 := by
  unfold steal stolen
  cases s.stealFrom i.w.team j d <;> rfl

theorem takeTask_taken {i : Iss} {s t : State} {a : Allot} {d base slot : Nat} {ws : List Wr}
    (h : taken i s a d base slot = (t, ws)) : takeTask i s a d base slot 0 1 = .ok t ws := by
  cases h
  rfl

theorem poptask_does : (row .poptask Enc.poptask (when poptask)).Does := by
  refine when_does (fun _ _ => rfl) fun i s t ws h => ?_
  obtain ⟨hidle, h⟩ := guard_bind.1 h
  obtain ⟨⟨id, a⟩, hallot, h⟩ := Option.bind_eq_some_iff.1 h
  obtain ⟨hcond, h⟩ := guard_bind.1 h
  rw [Bool.and_eq_true, decide_eq_true_eq] at hcond
  obtain ⟨hd, hturn⟩ := hcond
  dsimp only at h ⊢
  rw [if_neg (by simpa using hidle), withAllot_some hallot, if_neg (Nat.not_lt.2 hd)]
  cases hdeque : AMap.get a.deques (i.uni 2).toNat with
  | none =>
    rw [fullDeque, hdeque, Option.filter_none] at h
    cases h
    rfl
  | some x =>
    obtain ⟨base, limit⟩ := x
    rw [ownersTurn_some hdeque] at hturn
    rw [fullDeque_some hdeque] at h
    dsimp only
    rw [if_neg (by simpa using hturn)]
    by_cases hcount : a.dequeCount base = 0
    · rw [if_pos hcount] at h
      cases h
      exact if_pos hcount
    · rw [if_neg hcount] at h
      rw [if_neg hcount]
      exact takeTask_taken (Option.some.inj h)

theorem spawn_does : (row .spawn Enc.spawn (when spawn)).Does := by
  refine when_does (fun _ _ => rfl) fun i s t ws h => ?_
  obtain ⟨htask, h⟩ := guard_bind.1 h
  obtain ⟨⟨id, a⟩, hallot, h⟩ := Option.bind_eq_some_iff.1 h
  obtain ⟨hcond, h⟩ := guard_bind.1 h
  rw [Bool.and_eq_true, Bool.and_eq_true, decide_eq_true_eq] at hcond
  obtain ⟨⟨hd, hturn⟩, hplaced⟩ := hcond
  dsimp only at h ⊢
  rw [if_neg (by simp [htask]), withAllot_some hallot, if_neg (Nat.not_lt.2 hd)]
  cases hdeque : AMap.get a.deques (i.uni 2).toNat with
  | none =>
    rw [roomyDeque, hdeque, Option.filter_none] at h
    cases h
    rfl
  | some x =>
    obtain ⟨base, limit⟩ := x
    rw [ownersTurn_some hdeque, Bool.not_eq_true'] at hturn
    rw [hdeque, Option.isNone_some, Bool.false_or, Bool.not_eq_true'] at hplaced
    rw [roomyDeque_some hdeque] at h
    dsimp only
    rw [if_neg (by rw [hturn, hplaced]; decide)]
    by_cases hfull : a.dequeCount base = dequeSlots base limit
    · rw [if_pos hfull] at h
      cases h
      exact if_pos (beq_iff_eq.2 hfull)
    · rw [if_neg hfull] at h
      rw [if_neg (by simpa using hfull)]
      dsimp only at h
      split at h
      · next hone =>
        obtain ⟨_, hloan, h⟩ := Option.bind_eq_some_iff.1 h
        obtain ⟨⟨u, old⟩, hroot, hu⟩ := Option.map_eq_some_iff.1 hloan
        cases hu
        cases h
        rw [if_pos hone, rootOp_done hroot]
        rfl
      · next hmore =>
        cases h
        rw [if_neg hmore]
        rfl

theorem stealAt_does : (row .stealAt Enc.stealAt (when stealAt)).Does := by
  refine when_does (fun _ _ => rfl) fun i s t ws h => ?_
  obtain ⟨hcond, h⟩ := guard_bind.1 h
  simp only [Bool.and_eq_true, Bool.not_eq_true', decide_eq_true_eq] at hcond
  obtain ⟨⟨hidle, hd⟩, hcore⟩ := hcond
  dsimp only
  rw [if_neg (by simp [hidle]), if_neg (by simp [hd, hcore]), steal_eq]
  generalize stolen i s _ _ = found at h ⊢
  cases found with
  | none => cases h; rfl
  | some x => cases h; rfl

theorem stealAny_does : (row .stealAny Enc.stealAny stealAny).Does := by
  refine does_ok_or_move (fun _ _ => rfl) fun i s hcond => ?_
  obtain ⟨hidle, hd⟩ : i.w.task.valid = false ∧ (i.uni 2).toNat ≤ 7 := by simpa [row, stealAny] using hcond
  dsimp only [row]
  rw [if_neg (by simp [hidle]), if_neg (Nat.not_lt.2 hd)]
  dsimp only [stealAny]
  by_cases hlast : i.teamCores s ≤ i.tries + 1
  · have hover : ¬ i.tries + 2 < i.teamCores s := by omega
    simp only [hlast, hover, if_true, false_and, if_false]
    exact .inr ⟨rfl, trivial⟩
  · simp only [hlast, if_false, steal_eq]
    rw [← searched]
    cases hstolen : stolen i (s.setSearch i none) (i.uni 2).toNat (searched i s) with
    | some x => exact .inr ⟨rfl, by simp⟩
    | none =>
      by_cases hnext : i.tries + 2 < i.teamCores s
      · exact .inl (by simp [hnext])
      · exact .inr (by simp [hnext, Iss.noTask])

theorem taskdone_does : (row .taskdone Enc.taskdone (when taskdone)).Does := by
  refine when_does (fun _ _ => rfl) fun i s t ws h => ?_
  obtain ⟨htask, h⟩ := guard_bind.1 h
  obtain ⟨⟨u, old⟩, hroot, h⟩ := Option.bind_eq_some_iff.1 h
  cases h
  dsimp only
  rw [if_neg (by simp [htask]), rootOp_done hroot]

/-! ### Phases (09 R222) -/

theorem rootBegin_begins (x : Nat) : (rootBegin x).2 = (rootState x != 1) := by
  unfold rootBegin
  by_cases hruns : rootState x = 1 <;> simp [hruns]

theorem phasebegin_does : (row .phasebegin Enc.phasebegin (when phasebegin)).Does := by
  refine when_does (fun _ _ => rfl) fun i s t ws h => ?_
  obtain ⟨hcond, h⟩ := guard_bind.1 h
  obtain ⟨⟨u, old⟩, hroot, h⟩ := Option.bind_eq_some_iff.1 h
  cases h
  simp only [Bool.and_eq_true, Bool.not_eq_true', beq_iff_eq] at hcond
  obtain ⟨hidle, halign⟩ := hcond
  rw [if_neg (by simp [hidle]), if_neg (by simp [halign]), rootOp_done hroot, rootBegin_begins]
  by_cases hruns : rootState old = 1
  · simp [hruns]
  · have hbegins : (rootState old != 1) = true := bne_iff_ne.2 hruns
    simp only [hbegins, hruns, if_true, if_false]

theorem phaseWait_does {ins : Fields → Instr} {enc : Enc} {retry : Bool}
    (hx : ∀ f s, exec (ins f) s = phaseWait enc f s retry) : (row ins enc (when (phasewait retry))).Does := by
  refine when_does hx fun i s t ws h => ?_
  obtain ⟨halign, h⟩ := guard_bind.1 h
  dsimp only
  rw [if_neg (by simpa using halign)]
  cases hpa : s.translate (laneChain (coreOf i.wid)) i.w.ctx (i.uni 1 + 0x20) .read with
  | mk u at_ =>
    rw [hpa] at h
    cases at_ with
    | error k => cases h
    | ok pa =>
      obtain ⟨hready, h⟩ := guard_bind.1 h
      obtain ⟨hstate, h⟩ := guard_bind.1 h
      cases h
      dsimp only
      rw [if_neg (by simpa using hready)]
      generalize u.laneLoad (coreOf i.wid) i.w.pts pa 8 0 = r at hstate ⊢
      obtain ⟨u', bs, time⟩ := r
      dsimp only at hstate ⊢
      generalize ofBytes bs = x at hstate ⊢
      rcases hstate with rfl | ⟨hretry, hruns⟩
      · rfl
      · match x, hruns with
        | 0, _ => exact if_pos hretry
        | 1, _ => exact if_pos hretry

/-- Settles O8, row by row: past the guards of its description each instruction takes the branch that the description tells. -/
theorem tasksComplete : Obligations.TasksComplete := by
  simp only [Obligations.TasksComplete, AllDo, taskRows, List.forall_mem_cons]
  exact ⟨dqset_does, dqclr_does, spawn_does, poptask_does, stealAny_does, stealAt_does, taskdone_does, phasebegin_does,
    phaseWait_does fun _ _ => rfl, phaseWait_does fun _ _ => rfl, List.forall_mem_nil _⟩

end Sys2Proof.Proofs
end

section
/-! What the barrier operations do, said once: an arrival by its count, a named barrier by its number, and an instruction that arrives
and waits by the lanes that have come (10 R228, R229, R232, R233). -/
namespace Sys2Proof.Proofs
open Sys2Proof.Machine Sys2Proof.Safety Sys2Proof.Laws

/-! ### Arrivals (10 R229) -/

theorem arrive_out_of_range (b : Barrier) (warp t : Nat) {m most : Nat} (h : m < 1 ∨ most < m) :
    b.arrive warp m most t = .error (.barRange, none) :=
  if_pos (by simpa using h)

theorem arrive_other_count {b : Barrier} (warp t : Nat) {m most n : Nat} (hleast : 1 ≤ m) (hmost : m ≤ most)
    (hlatched : b.latched = some n) (hother : n ≠ m) :
    b.arrive warp m most t = .error (.barCount, some (n * 256 + m)) := by
  have hrange : ¬ (decide (m < 1) || decide (most < m)) = true := by simp; omega
  unfold Barrier.arrive
  rw [if_neg hrange, hlatched]
  exact if_pos (bne_iff_ne.2 hother)

/-! ### Named barriers and arrivals of instructions (10 R228-R230, R233) -/

/-- A barrier number within the team's count is a barrier, and any other number traps. -/
theorem withBarrier_of_allot {i : Iss} {s : State} {id : Nat} {a : Allot} (h : s.allotOf i.wid i.w = some (id, a)) (k : Nat)
    (body : Nat → Allot → Nat → Barrier → Res) :
    withBarrier i s k body = if a.nBarriers ≤ (i.uni k).toNat then .trap .barRange i.low
      else body id a (i.uni k).toNat (AMap.getD a.barriers (i.uni k).toNat Barrier.fresh) := by
  rw [withBarrier, h]

theorem withBarrier_named {i : Iss} {s : State} {k id n : Nat} {a : Allot} {x : Barrier} (h : named i s k = some (id, a, n, x))
    (body : Nat → Allot → Nat → Barrier → Res) : withBarrier i s k body = body id a n x := by
  obtain ⟨⟨id, a⟩, hallot, h⟩ := Option.bind_eq_some_iff.1 h
  obtain ⟨hnumber, h⟩ := guard_bind.1 h
  cases h
  rw [withBarrier_of_allot hallot, if_neg (Nat.not_le.2 hnumber)]

theorem arriveNamed_arrived {i : Iss} {s t : State} {b m token : Nat} {x : Barrier} (h : arrived i s b m = some (t, token, x))
    (next : State → Nat → Barrier → Res) : arriveNamed i s b m next = next t token x := by
  obtain ⟨hplaced, h⟩ := guard_bind.1 h
  obtain ⟨⟨id, a, n, y⟩, hnamed, h⟩ := Option.bind_eq_some_iff.1 h
  rw [arriveNamed, withBarrier_named hnamed]
  dsimp only at h ⊢
  split at h
  · next harrive =>
    cases h
    rw [harrive]
    exact if_neg (by simpa using hplaced)
  · cases h

theorem arriveTeam_arrived {i : Iss} {s t : State} {id m token : Nat} (h : arrivedTeam i s id m = some (t, token))
    (next : State → Nat → Res) : arriveTeam i s id m next = next t token := by
  obtain ⟨hplaced, h⟩ := guard_bind.1 h
  rw [arriveTeam]
  split at h
  · next harrive =>
    cases h
    rw [harrive]
    exact if_neg (by simpa using hplaced)
  · cases h

/-! ### Arriving and waiting (10 R232) -/

section
variable {i : Iss} {s : State} {ended : BarWait → Option Nat} {arrive : State → Res}

theorem syncAt_over {h : BarHold} {t : Nat} (hnone : i.newcomers = 0) (hover : waitOver i ended = some (h, t)) :
    syncAt i s ended arrive
      = .move ((s.dropHold i h).raisePts i.wid t) [] fun w => w.advance i.c (h.lanes &&& i.c.lanes) := by
  unfold waitOver at hover
  simp only [syncAt, hnone, hover, bne_self_eq_false, Bool.false_eq_true, if_false]

theorem syncAt_inactive (hcome : i.newcomers ≠ 0) (hidle : i.act &&& i.newcomers = 0) :
    syncAt i s ended arrive = .move (s.modWarp i.wid Warp.setZlane) [] fun w => w.advance i.c i.newcomers := by
  rw [syncAt, if_pos (bne_iff_ne.2 hcome), if_pos hidle]

theorem syncAt_arrives (hactive : i.act &&& i.newcomers ≠ 0) : syncAt i s ended arrive = arrive s := by
  have hcome : i.newcomers ≠ 0 := fun h => hactive (by rw [h]; exact BitVec.and_zero)
  rw [syncAt, if_pos (bne_iff_ne.2 hcome), if_neg hactive]

end

/-- An instruction that arrives and waits does what its row says where its arrival does what the row's does. -/
theorem syncing_does {ins : Fields → Instr} {enc : Enc} {ended : Iss → State → BarWait → Option Nat}
    {comes : Iss → State → Option (State × Bool)} {arrive : Fields → Iss → State → Res}
    (hx : ∀ f s, exec (ins f) s = irlek enc f s fun i s => syncAt i s (ended i s) (arrive f i))
    (hcomes : ∀ i s t goes, comes i s = some (t, goes) →
      arrive i.f i s = .move t [] fun w => if goes then w.advance i.c i.newcomers else w) :
    (row ins enc (syncing ended comes)).Does := by
  refine does_move hx fun i s _ hcond => ?_
  simp only [row, syncing] at hcond ⊢
  by_cases hnone : i.newcomers = 0
  · simp only [hnone, if_true] at hcond ⊢
    obtain ⟨⟨h, t⟩, hover⟩ := Option.isSome_iff_exists.1 hcond
    rw [syncAt_over hnone hover, hover]
    rfl
  · simp only [hnone, if_false] at hcond ⊢
    by_cases hidle : i.act &&& i.newcomers = 0
    · simp only [hidle, if_true, true_or]
      exact syncAt_inactive hnone hidle
    · simp only [hidle, decide_false, Bool.false_or, if_false, false_or] at hcond ⊢
      obtain ⟨⟨t, goes⟩, hcome⟩ := Option.isSome_iff_exists.1 hcond
      rw [syncAt_arrives hidle, hcomes i s t goes hcome, hcome]
      simp only [Option.map_some, Option.getD_some, Option.any_some]

end Sys2Proof.Proofs
end

section
/-! Counter waits and barrier instructions run to their end (10 R226-R239). -/
namespace Sys2Proof.Proofs
open Sys2Proof.Machine Sys2Proof.Safety Sys2Proof.Laws

theorem waitle_does : (row .waitle Enc.waitle (when waitle)).Does := by
  refine when_does (fun _ _ => rfl) fun i s t ws h => ?_
  obtain ⟨hbound, h⟩ := guard_bind.1 h
  cases h
  exact if_pos hbound

theorem barinit_does : (row .barinit Enc.barinit (when barinit)).Does := by
  refine when_does (fun _ _ => rfl) fun i s t ws h => ?_
  obtain ⟨⟨id, a, n, x⟩, hnamed, h⟩ := Option.bind_eq_some_iff.1 h
  cases h
  rw [withBarrier_named hnamed]
  cases x.arrived.isEmpty <;> rfl

theorem bararr_does : (row .bararr Enc.bararr (when bararr)).Does := by
  refine when_does (fun _ _ => rfl) fun i s t ws h => ?_
  obtain ⟨⟨u, token, x⟩, harrived, h⟩ := Option.bind_eq_some_iff.1 h
  cases h
  exact arriveNamed_arrived harrived _

theorem barwait_does : (row .barwait Enc.barwait (when barwait)).Does := by
  refine when_does (fun _ _ => rfl) fun i s t ws h => ?_
  obtain ⟨⟨id, a, n, x⟩, hnamed, h⟩ := Option.bind_eq_some_iff.1 h
  obtain ⟨hover, h⟩ := guard_bind.1 h
  cases h
  exact (withBarrier_named hnamed _).trans (if_pos hover)

theorem barsync_does : (row .barsync Enc.barsync barsync).Does := by
  refine syncing_does (fun _ _ => rfl) fun i s t goes h => ?_
  obtain ⟨⟨u, token, x⟩, harrived, h⟩ := Option.map_eq_some_iff.1 h
  rw [arriveNamed_arrived harrived]
  dsimp only at h
  split at h
  · next hends => cases h; exact if_pos hends
  · next hstays => cases h; exact if_neg hstays

theorem tbarSync_does : (row .tbarSync Enc.tbarSync tbarSync).Does := by
  refine syncing_does (fun _ _ => rfl) fun i s t goes h => ?_
  obtain ⟨⟨u, token⟩, harrived, h⟩ := Option.map_eq_some_iff.1 h
  cases h
  exact arriveTeam_arrived harrived _

theorem tbarArr_does : (row .tbarArr Enc.tbarArr (when tbarArr)).Does := by
  refine when_does (fun _ _ => rfl) fun i s t ws h => ?_
  obtain ⟨⟨u, token⟩, harrived, h⟩ := Option.bind_eq_some_iff.1 h
  cases h
  exact arriveTeam_arrived harrived _

theorem tbarWait_does : (row .tbarWait Enc.tbarWait (when tbarWait)).Does := by
  refine when_does (fun _ _ => rfl) fun i s t ws h => ?_
  obtain ⟨hreleased, h⟩ := guard_bind.1 h
  cases h
  exact if_pos hreleased

/-- Settles O9, row by row: past the guards of its description each instruction takes the branch that the description tells. -/
theorem barriersComplete : Obligations.BarriersComplete := by
  simp only [Obligations.BarriersComplete, AllDo, barrierRows, List.forall_mem_cons]
  exact ⟨waitle_does, barinit_does, bararr_does, barwait_does, barsync_does, tbarSync_does, tbarArr_does, tbarWait_does,
    List.forall_mem_nil _⟩

end Sys2Proof.Proofs
end

section
/-! Where barrier instructions trap: numbers out of range, and counts out of range or other than the one latched (10 R228, R229,
R233, R237-R239, 18 R398). -/
namespace Sys2Proof.Proofs
open Sys2Proof.Machine Sys2Proof.Safety Sys2Proof.Laws

/-- An instruction whose body traps for a bundle that runs it takes that trap. -/
theorem trapsWith_of_body {ins : Fields → Instr} {enc : Enc} {eff : Effect} {body : Fields → Iss → State → Res}
    (hx : ∀ f s, exec (ins f) s = irlek enc f s (body f)) {f : Fields} {s s1 : State} {c : Cur} {push : Option (Nat × Nat)}
    {i : Iss} (hruns : (row ins enc eff).Runs f s s1 c push i) {cause : Cause} {info : Nat}
    (hb : body i.f i s1 = .trap cause info) : trapsWith (ins f) s c i.act cause (BitVec.ofNat 64 info) := by
  obtain ⟨⟨w, hr, pop, bs, popped, hq, ht, rfl⟩, -, -⟩ := hruns
  exact (hx f s).trans (irlek_trap hr hq ht hb)

/-- The bundle of an instruction that runs is the one State names. -/
theorem cur_of_runs {r : Row} {f : Fields} {s s1 : State} {c : Cur} {push : Option (Nat × Nat)} {i : Iss}
    (hruns : r.Runs f s s1 c push i) : i.c = c := by
  obtain ⟨⟨w, -, pop, bs, popped, -, -, rfl⟩, -, -⟩ := hruns
  rfl

/-- The instruction's own effect, where its bundle arrives, is an arrival of the kind given and then an effect of its own. -/
abbrev ArrivesBy {α : Type} (r : Arriver) (arrival : Iss → State → α → Res) : Prop :=
  ∃ body : Fields → Iss → State → Res, (∀ f s, exec (r.ins f) s = irlek r.enc f s (body f)) ∧
    ∀ (i : Iss) (s : State), (r.waits = true → i.act &&& i.newcomers ≠ 0) → ∃ next, body i.f i s = arrival i s next

theorem trapsWith_of_arrival {α : Type} {r : Arriver} {arrival : Iss → State → α → Res} (hby : ArrivesBy r arrival) {f : Fields}
    {s s1 : State} {c : Cur} {push : Option (Nat × Nat)} {i : Iss} (harrives : r.Arrives f s s1 c push i) {cause : Cause}
    {info : Nat} (htrap : ∀ next, arrival i s1 next = .trap cause info) :
    trapsWith (r.ins f) s c i.act cause (BitVec.ofNat 64 info) := by
  obtain ⟨hruns, hactive⟩ := harrives
  obtain ⟨body, hx, hbody⟩ := hby
  obtain ⟨next, hnext⟩ := hbody i s1 hactive
  exact trapsWith_of_body hx hruns (hnext.trans (htrap next))

/-- An instruction that traps as an arrival with its count does takes the traps of counts: its entry's limit on the count lies
beyond the most that may arrive, so that the limit changes no trap. -/
theorem countsTrap_of_arrive {ins : Instr} {s : State} {c : Cur} {act : Mask} {x : Barrier} {warp m limit most t : Nat}
    (hlimit : most < limit)
    (htrap : ∀ cause info, x.arrive warp (min m limit) most t = .error (cause, info) →
      trapsWith ins s c act cause (BitVec.ofNat 64 (info.getD (act.lowest.getD 0)))) : countsTrap ins s c act x m most := by
  refine ⟨fun hrange => htrap _ _ (arrive_out_of_range x warp t (by omega)), fun n hleast hmost hlatched hother => ?_⟩
  have hm : min m limit = m := by omega
  exact htrap .barCount (some (n * 256 + m)) (by rw [hm]; exact arrive_other_count warp t hleast hmost hlatched hother)

/-! ### Named barriers (10 R228, R229, R237, R238) -/

theorem arriveNamed_error {i : Iss} {s : State} {b m id : Nat} {a : Allot} {cause : Cause} {info : Option Nat}
    (hallot : s.allotOf i.wid i.w = some (id, a)) (hnumber : (i.uni b).toNat < a.nBarriers)
    (herror : (AMap.getD a.barriers (i.uni b).toNat Barrier.fresh).arrive i.w.teamWarp (min (i.uni m).toNat 65) (min a.warps 64)
      i.w.pts = .error (cause, info)) (next : State → Nat → Barrier → Res) :
    arriveNamed i s b m next = .trap cause (info.getD i.low) := by
  rw [arriveNamed, withBarrier_of_allot hallot, if_neg (Nat.not_le.2 hnumber), herror]

theorem namedArrivers_arrive : ∀ r ∈ namedArrivers, ArrivesBy r fun i s next => arriveNamed i s r.barrier r.count next := by
  simp only [namedArrivers, List.forall_mem_cons]
  exact ⟨⟨_, fun _ _ => rfl, fun _ _ _ => ⟨_, rfl⟩⟩, ⟨_, fun _ _ => rfl, fun _ _ h => ⟨_, syncAt_arrives (h rfl)⟩⟩,
    List.forall_mem_nil _⟩

theorem named_arrivals_trap {r : Arriver} (hr : r ∈ namedArrivers) {f : Fields} {s s1 : State} {c : Cur}
    {push : Option (Nat × Nat)} {i : Iss} {id : Nat} {a : Allot} (harrives : r.Arrives f s s1 c push i)
    (hallot : s1.allotOf c.wid i.w = some (id, a)) :
    (a.nBarriers ≤ (i.uni r.barrier).toNat → trapsWith (r.ins f) s c i.act .barRange (lowestOf i.act))
    ∧ ((i.uni r.barrier).toNat < a.nBarriers → countsTrap (r.ins f) s c i.act
        (AMap.getD a.barriers (i.uni r.barrier).toNat Barrier.fresh) (i.uni r.count).toNat (min a.warps 64)) := by
  have hby := namedArrivers_arrive r hr
  rw [← cur_of_runs harrives.1] at hallot
  constructor
  · intro hnumber
    refine trapsWith_of_arrival (info := i.low) hby harrives fun next => ?_
    rw [arriveNamed, withBarrier_of_allot hallot, if_pos hnumber]
  · intro hnumber
    exact countsTrap_of_arrive (limit := 65) (by omega) fun cause info herror =>
      trapsWith_of_arrival hby harrives (arriveNamed_error hallot hnumber herror)

/-! ### Team barriers (10 R233, R239) -/

theorem arriveTeam_error {i : Iss} {s : State} {id m : Nat} {cause : Cause} {info : Option Nat}
    (herror : (s.tbar i.w id).arrive i.w.teamWarp (min (i.uni m).toNat 65537) (i.teamWarps s) i.w.pts = .error (cause, info))
    (next : State → Nat → Res) : arriveTeam i s id m next = .trap cause (info.getD i.low) := by
  rw [arriveTeam, herror]

theorem teamArrivers_arrive :
    ∀ r ∈ teamArrivers, ArrivesBy r fun i s next => arriveTeam i s (immNum (i.op r.barrier)) r.count next := by
  simp only [teamArrivers, List.forall_mem_cons]
  exact ⟨⟨_, fun _ _ => rfl, fun _ _ _ => ⟨_, rfl⟩⟩, ⟨_, fun _ _ => rfl, fun _ _ h => ⟨_, syncAt_arrives (h rfl)⟩⟩,
    List.forall_mem_nil _⟩

theorem team_arrivals_trap {r : Arriver} (hr : r ∈ teamArrivers) {f : Fields} {s s1 : State} {c : Cur}
    {push : Option (Nat × Nat)} {i : Iss} (harrives : r.Arrives f s s1 c push i) (hwarps : i.teamWarps s1 ≤ 65536) :
    countsTrap (r.ins f) s c i.act (s1.tbar i.w (immNum (i.op r.barrier))) (i.uni r.count).toNat (i.teamWarps s1) :=
  countsTrap_of_arrive (limit := 65537) (by omega) fun _ _ herror =>
    trapsWith_of_arrival (teamArrivers_arrive r hr) harrives (arriveTeam_error herror)

/-! ### BARINIT and BARWAIT (10 R228, R237, R238) -/

/-- An instruction that works on the named barrier of operand `k` traps where the team has none of that number. -/
theorem withBarrier_traps {ins : Fields → Instr} {enc : Enc} {k : Nat}
    {body : Fields → Iss → State → Nat → Allot → Nat → Barrier → Res}
    (hx : ∀ f s, exec (ins f) s = irlek enc f s fun i s => withBarrier i s k (body f i s)) {f : Fields} {s s1 : State} {c : Cur}
    {push : Option (Nat × Nat)} {i : Iss} {id : Nat} {a : Allot} (hruns : (row ins enc {}).Runs f s s1 c push i)
    (hallot : s1.allotOf c.wid i.w = some (id, a)) (hnumber : a.nBarriers ≤ (i.uni k).toNat) :
    trapsWith (ins f) s c i.act .barRange (lowestOf i.act) := by
  rw [← cur_of_runs hruns] at hallot
  exact trapsWith_of_body (info := i.low) hx hruns ((withBarrier_of_allot hallot k _).trans (if_pos hnumber))

/-- Settles O42: each body begins with the arrival, or with the barrier's number, and traps as these do. -/
theorem barrierCountsTrap : Obligations.BarrierCountsTrap := by
  refine ⟨fun r hr f s s1 c push i id a harrives hallot => named_arrivals_trap hr harrives hallot,
    fun r hr f s s1 c push i harrives hwarps => team_arrivals_trap hr harrives hwarps, ?_⟩
  simp only [List.forall_mem_cons]
  exact ⟨fun _ _ _ _ _ _ _ _ => withBarrier_traps fun _ _ => rfl, fun _ _ _ _ _ _ _ _ => withBarrier_traps fun _ _ => rfl,
    List.forall_mem_nil _⟩

end Sys2Proof.Proofs
end

section
/-! An instruction whose counter is full does not issue (10 R225). -/
namespace Sys2Proof.Proofs
open Sys2Proof.Machine Sys2Proof.Safety Sys2Proof.Laws

/-- Settles O37: past the other checks, the shared issue waits on a counter that reads 63 before the instruction's own effect. -/
theorem fullCounterHoldsBack : Obligations.FullCounterHoldsBack := by
  rintro i s e f c w k ⟨henc, hcur, hwarp, hsending⟩ ⟨hlegal, hlevel, hlock, hfault, hring⟩ hstrict hactive hcounter hfull
  obtain ⟨body, hexec⟩ := exec_irlek henc
  rw [hexec]
  exact irlek_counterFull hcur hwarp hsending hlegal hlevel hlock hfault hring hstrict hactive hcounter hfull

end Sys2Proof.Proofs
end

section
/-! Gang and matrix instructions run to their end: rendezvous and releases, descriptors, and the entries sent to the matrix engine
(11 R241-R261). -/
namespace Sys2Proof.Proofs
open Sys2Proof.Machine Sys2Proof.Safety Sys2Proof.Laws

theorem withGang_some {i : Iss} {s : State} {id : Nat} {g : Gang} (h : gangOf i s = some (id, g)) (body : Nat → Gang → Res) :
    withGang i s body = body id g := by
  unfold gangOf at h
  rw [withGang, h]

/-! ### Rendezvous, releases and descriptors (11 R241, R242, R260, R261) -/

/-- GANG takes its grant, finds the tiles held, or arrives and stays (11 R241, R260). -/
theorem gang_does : (row .gang Enc.gang gang).Does := by
  refine does_ok_or_move (fun _ _ => rfl) fun i s hcond => ?_
  obtain ⟨⟨id, g⟩, hgang, hcond⟩ := (Option.any_eq_true _ _).1 hcond
  simp only [row, Safety.gang, withGang_some hgang, hgang, Option.any_some]
  cases hgranted : g.granted.contains (i.w.teamWarp, i.c.pc) with
  | true => exact .inr ⟨rfl, rfl⟩
  | false =>
    simp only [hgranted, Bool.false_or, Bool.and_eq_true, Bool.not_eq_true', Bool.or_eq_true, beq_iff_eq,
      decide_eq_true_eq] at hcond
    obtain ⟨⟨⟨hcomes, hleast⟩, hmost⟩, hcount⟩ := hcond
    have hrange : ¬ (decide ((i.uni 1).toNat < 1) || decide (16 < (i.uni 1).toNat)) = true := by simp; omega
    rw [hcomes, if_neg hrange]
    cases hholds : g.holds with
    | true => exact .inr ⟨rfl, rfl⟩
    | false =>
      have hlatched : g.latch.getD (i.uni 1).toNat = (i.uni 1).toNat := by simpa [hholds] using hcount
      exact .inl (if_neg fun h => bne_iff_ne.1 h hlatched)

theorem arel_does : (row .arel Enc.arel (when arel)).Does := by
  refine when_does (fun _ _ => rfl) fun i s t ws h => ?_
  obtain ⟨⟨id, g⟩, hgang, h⟩ := Option.bind_eq_some_iff.1 h
  cases h
  rw [withGang_some hgang]
  cases g.holds <;> rfl

theorem tdesc_does : (row .tdesc Enc.tdesc (when tdesc)).Does := by
  refine when_does (fun _ _ => rfl) fun i s t ws h => ?_
  obtain ⟨_, hgang, h⟩ := Option.bind_eq_some_iff.1 h
  cases h
  exact withGang_some hgang _

/-! ### Entries of the matrix engine (11 R247, R258) -/

/-- An acquire may be made exactly where it does not wait for a contribution (13 R308). -/
theorem mayAcquire_iff {i : Iss} {s : State} {ord : Ord} :
    mayAcquire i s ord = true ↔ ¬ (ord.acquire && s.contributesIn i.wid ord.scope i.c.lanes) = true := by
  rw [mayAcquire, ← Bool.not_and, Bool.not_eq_true', Bool.not_eq_true]

/-- A matrix instruction takes the entry of its row where the row's checks are the two that its issue makes. -/
theorem mx_does {ins : Fields → Instr} {enc : Enc} {m : MxArgs} {rangeOk descOk : Iss → State → Bool} {ord : Fields → Ord}
    (hx : ∀ f s, exec (ins f) s = mxIssue enc f s rangeOk descOk (ord f) m.src1 m.src2 m.ws)
    (hok : ∀ i s, m.ok i s = true → rangeOk i s = true ∧ descOk i s = true) (hord : ∀ i, m.ord i = ord i.f) :
    (row ins enc (when (mx m))).Does := by
  refine does_ok (fun f s => hx f s) (fun _ _ _ => rfl) fun i s henc hcond => ?_
  obtain ⟨⟨t, ws⟩, hrun⟩ := Option.isSome_iff_exists.1 hcond
  simp only [row, when, hrun, Option.map_some, Option.getD_some]
  obtain ⟨⟨id, g⟩, hgang, hrun⟩ := Option.bind_eq_some_iff.1 hrun
  obtain ⟨hchecks, hrun⟩ := guard_bind.1 hrun
  obtain ⟨n, hfree, hrun⟩ := Option.bind_eq_some_iff.1 hrun
  cases hrun
  simp only [Bool.and_eq_true, decide_eq_true_eq, mayAcquire_iff, hord] at hchecks
  obtain ⟨⟨⟨⟨hholds, htiles⟩, hargs⟩, hacquire⟩, hroom⟩ := hchecks
  obtain ⟨hrange, hdesc⟩ := hok i s hargs
  have hnamed : ¬ (!g.holds || (aOperands i.f).any (g.count ≤ ·)) = true := by simpa [hholds] using htiles
  have hready : ¬ (8 ≤ ((s.cluster (clusterOf i.wid)).entries.filter fun x => coreOf x.2.seat == coreOf i.wid).length
      || (ord i.f).acquire && s.contributesIn i.wid (ord i.f).scope i.c.lanes) = true := by
    rw [Bool.or_eq_true, Bool.and_eq_true, decide_eq_true_eq]
    exact not_or.2 ⟨Nat.not_le.2 hroom, hacquire⟩
  rw [withGang_some hgang, if_neg hnamed, if_neg (by simp [hrange]), if_neg (by simp [hdesc]), hfree]
  refine (if_neg hready).trans ?_
  rw [mxEntry, henc, hord]
  rfl

/-- An instruction that checks nothing but its gang and its tiles. -/
theorem mx_does_unchecked {ins : Fields → Instr} {enc : Enc} {m : MxArgs}
    (hx : ∀ f s, exec (ins f) s = mxIssue enc f s always always Ord.plain m.src1 m.src2 m.ws)
    (hord : ∀ i, m.ord i = Ord.plain) : (row ins enc (when (mx m))).Does :=
  mx_does (ord := fun _ => Ord.plain) hx (fun _ _ _ => ⟨rfl, rfl⟩) hord

/-- Settles O10, row by row: past the guards of its description each instruction takes the branch that the description tells. -/
theorem matrixComplete : Obligations.MatrixComplete := by
  simp only [Obligations.MatrixComplete, AllDo, matrixRows, List.forall_mem_cons]
  exact ⟨gang_does, arel_does, tdesc_does, mx_does (fun _ _ => rfl) (fun _ _ h => ⟨rfl, h⟩) fun _ => rfl,
    mx_does (fun _ _ => rfl) (fun _ _ h => ⟨rfl, h⟩) fun _ => rfl, mx_does_unchecked (fun _ _ => rfl) fun _ => rfl,
    mx_does_unchecked (fun _ _ => rfl) fun _ => rfl, mx_does_unchecked (fun _ _ => rfl) fun _ => rfl,
    mx_does_unchecked (fun _ _ => rfl) fun _ => rfl, mx_does_unchecked (fun _ _ => rfl) fun _ => rfl,
    mx_does (fun _ _ => rfl) (fun _ _ h => ⟨h, rfl⟩) fun _ => rfl,
    mx_does (fun _ _ => rfl) (fun _ _ h => ⟨h, rfl⟩) fun _ => rfl, mx_does_unchecked (fun _ _ => rfl) fun _ => rfl,
    mx_does_unchecked (fun _ _ => rfl) fun _ => rfl, List.forall_mem_nil _⟩

end Sys2Proof.Proofs
end

section
/-! What holds after reset (13 R301, 19 R415, R422). -/
namespace Sys2Proof.Proofs
open Sys2Proof.Machine

theorem reset_die (d : Nat) : State.reset.die d = Die.fresh := by
  match d with
  | 0 => rfl
  | 1 => rfl
  | _ + 2 => rfl

/-- Settles O51: every map is empty and both dies are fresh, so that each read finds its default. -/
theorem resetLeaves : Obligations.ResetLeaves :=
  ⟨fun _ => rfl, fun d => by rw [reset_die]; rfl, fun _ => rfl, fun _ => rfl, fun _ => rfl, fun _ => rfl, rfl, rfl, rfl, rfl,
    fun _ => rfl⟩

end Sys2Proof.Proofs
end

section
/-! A step that runs a command's Nibex instruction, or an event (17 R381, R385). -/
namespace Sys2Proof.Proofs
open Sys2Proof.Machine

/-- A step begins with the head of the agenda. -/
theorem step_agenda {s : State} {a : Action} {rest : List Action} (hagenda : s.agenda = a :: rest) :
    step s = act exec a { s with agenda := rest } := by
  unfold step stepWith
  rw [hagenda]

/-- Running clocks let any action happen. -/
theorem acts_ungated {s : State} {a : Action} {rest : List Action} (hgated : s.gated = false) :
    ¬ (({ s with agenda := rest } : State).gated && !a.outside) = true := by
  change ¬ (s.gated && !a.outside) = true
  simp [hgated]

/-- A queue's step runs the instruction at its command's counter. -/
theorem nibexStep_runs {s t : State} {q : Nat} {k : Queue} {r : Running} {x : BitVec 32} {i : Instr}
    (hqueue : AMap.get s.queues q = some k) (hrunning : k.running = some r) (hspent : r.spent = false)
    (hruns : s.queueRuns k = true) (hword : k.program[r.pc]? = some x) (hdecode : decodeNibex x = some i)
    (hexec : exec i { s with nib := some q } = .next t) : nibexStep exec q s = .next { t with nib := none } := by
  have hcommand : (AMap.get s.queues q).bind (fun k => k.running.map fun r => (k, r)) = some (k, r) := by
    rw [hqueue, Option.bind_some, hrunning, Option.map_some]
  unfold nibexStep
  rw [hcommand]
  dsimp only
  rw [if_neg (by rw [hspent, hruns]; decide), hword, Option.bind_some, hdecode]
  dsimp only
  rw [hexec]

/-- Settles O57: ungated, the head of the agenda is acted on, and it is a queue's step or an event. -/
theorem stepRunsNibexAndEvents : Obligations.StepRunsNibexAndEvents := by
  constructor
  · intro s t q rest k r x i hagenda hgated hqueue hrunning hspent hruns hword hdecode hexec
    rw [step_agenda hagenda, act, if_neg (acts_ungated hgated)]
    exact nibexStep_runs hqueue hrunning hspent hruns hword hdecode hexec
  · intro s i args rest hagenda hgated
    rw [step_agenda hagenda, act, if_neg (acts_ungated hgated)]

end Sys2Proof.Proofs
end

section
/-! Instructions of handler level at user level (18 R401, R404). -/
namespace Sys2Proof.Proofs
open Sys2Proof.Machine Sys2Proof.Safety Sys2Proof.Laws

/-- Settles O39: the shared issue asks for the level before it looks at the guards. -/
theorem handlerLevelIsNeeded : Obligations.HandlerLevelIsNeeded := by
  rintro i s e f c w ⟨henc, hcur, hwarp, hsending⟩ hlegal hneeds huser
  obtain ⟨body, hexec⟩ := exec_irlek henc
  rw [hexec, hneeds]
  exact irlek_level hcur hwarp hsending hlegal huser

end Sys2Proof.Proofs
end

section
/-! Accesses made one after another (12 R275, 13 R300). -/
namespace Sys2Proof.Proofs
open Sys2Proof.Machine Sys2Proof.Safety Sys2Proof.Laws

theorem sendSome_zero (one : AccessStep) (n : Nat) (xs : List Access) (s : State) (got : AMap Nat) :
    sendSome one n 0 xs s got = (s, xs, got) := by
  cases xs <;> rfl

/-- Where nothing goes away, the next access is made. -/
theorem sendSome_made {one : AccessStep} {n : Nat} {x : Access} {s : State} (k : Nat) (xs : List Access) (got : AMap Nat)
    (hgone : s.goneFrom x = false) (haway : s.awayFrom x n = false) :
    sendSome one n (k + 1) (x :: xs) s got
      = sendSome one n k xs (one s x).1 ((one s x).2.foldl (fun m y => AMap.set m y.1 y.2) got) := by
  rw [sendSome, if_neg (by rw [hgone]; decide), if_neg (by rw [haway]; decide)]

/-- An access whose line is absent stops the ones behind it. -/
theorem sendSome_away {one : AccessStep} {n : Nat} {x : Access} {s : State} (k : Nat) (xs : List Access) (got : AMap Nat)
    (hgone : s.goneFrom x = false) (haway : s.awayFrom x n = true) : sendSome one n k (x :: xs) s got = (s, x :: xs, got) := by
  cases k with
  | zero => rfl
  | succ k => rw [sendSome, if_neg (by rw [hgone]; decide), if_pos haway]

/-- Two goes are one, access by access. -/
theorem sendSome_add (one : AccessStep) (n k m : Nat) (xs : List Access) (s : State) (got : AMap Nat) :
    sendSome one n (k + m) xs s got
      = sendSome one n m (sendSome one n k xs s got).2.1 (sendSome one n k xs s got).1 (sendSome one n k xs s got).2.2 := by
  induction k generalizing xs s got with
  | zero => rw [Nat.zero_add, sendSome_zero]
  | succ k ih =>
    cases xs with
    | nil => simp only [sendSome]
    | cons x xs =>
      rw [Nat.add_right_comm]
      cases hgone : s.goneFrom x with
      | true => simp only [sendSome, hgone, if_true, ih]
      | false =>
        cases haway : s.awayFrom x n with
        | true => simp only [sendSome_away _ xs got hgone haway]
        | false => simp only [sendSome_made _ xs got hgone haway, ih]

/-- Steps enough make accesses whose lines stay present. -/
theorem sendSome_of_eachMade {one : AccessStep} {n k : Nat} {xs : List Access} {s t : State} {got got' : AMap Nat}
    (hmade : eachMade one n xs s got = some (t, got')) (hk : xs.length ≤ k) : sendSome one n k xs s got = (t, [], got') := by
  induction xs generalizing k s got with
  | nil =>
    cases hmade
    simp only [sendSome]
  | cons x xs ih =>
    obtain ⟨hhere, hmade⟩ := guard_bind.1 hmade
    simp only [Bool.and_eq_true, Bool.not_eq_true'] at hhere
    obtain ⟨k, rfl⟩ : ∃ j, k = j + 1 := ⟨k - 1, by simp only [List.length_cons] at hk; omega⟩
    rw [sendSome_made k xs got hhere.1 hhere.2]
    exact ih hmade (Nat.le_of_succ_le_succ hk)

/-- Settles O45: by induction on how many the first go makes, and on the accesses. -/
theorem partsMakeTheWhole : Obligations.PartsMakeTheWhole :=
  ⟨sendSome_add, fun _ _ _ _ _ _ _ _ => sendSome_of_eachMade⟩

end Sys2Proof.Proofs
end

section
/-! What a translation leaves unchanged: everything but the TLBs (14 R321, R322). -/
namespace Sys2Proof.Proofs
open Sys2Proof.Machine

/-- Two states differ in the parts that hold TLBs alone. -/
def OnlyTlbs (s t : State) : Prop := t = { s with cores := t.cores, clusters := t.clusters, dies := t.dies }

namespace OnlyTlbs

theorem refl (s : State) : OnlyTlbs s s := rfl

theorem trans {s t u : State} (hst : OnlyTlbs s t) (htu : OnlyTlbs t u) : OnlyTlbs s u := by
  unfold OnlyTlbs at hst htu ⊢
  rw [htu, hst]

theorem stamp {s t : State} (h : OnlyTlbs s t) : t.stamp = s.stamp := (congrArg State.stamp h).trans rfl

theorem burst {s t : State} (h : OnlyTlbs s t) : t.burst = s.burst := (congrArg State.burst h).trans rfl

end OnlyTlbs

theorem modCore_only (s : State) (k : Nat) (g : Core → Core) : OnlyTlbs s (s.modCore k g) := rfl

theorem modCluster_only (s : State) (k : Nat) (g : Cluster → Cluster) : OnlyTlbs s (s.modCluster k g) := rfl

theorem modDie_only (s : State) (k : Nat) (g : Die → Die) : OnlyTlbs s (s.modDie k g) := rfl

theorem fillTlb_only (s : State) (e : TlbEntry) (t : Nat) : OnlyTlbs s (s.fillTlb e t) := by
  unfold State.fillTlb State.setTlb
  split
  · exact modCore_only ..
  · split
    · exact modCluster_only ..
    · split
      · exact modCluster_only ..
      · split
        · exact modDie_only ..
        · exact modDie_only ..

theorem fillTlbs_only (e : TlbEntry) (chain : List Nat) (s : State) : OnlyTlbs s (chain.foldl (fun s t => s.fillTlb e t) s) := by
  induction chain generalizing s with
  | nil => exact .refl s
  | cons t chain ih => exact (fillTlb_only s e t).trans (ih _)

theorem leaf_only (s : State) (chain : List Nat) (ctx : Nat) (va : Word) : OnlyTlbs s (s.leaf chain ctx va).1 := by
  unfold State.leaf
  dsimp only
  split
  · exact .refl s
  · split
    · exact fillTlbs_only _ chain s
    · split
      · exact fillTlbs_only _ chain s
      · exact .refl s

theorem translate_only (s : State) (chain : List Nat) (ctx : Nat) (va : Word) (acc : Acc) :
    OnlyTlbs s (s.translate chain ctx va acc).1 := by
  have hleaf := leaf_only s chain ctx va
  unfold State.translate
  split
  · next hs => rwa [hs] at hleaf
  · next hs =>
    rw [hs] at hleaf
    dsimp only
    split
    · exact hleaf
    · split <;> exact hleaf

theorem translateAll_only (s : State) (chain : List Nat) (ctx : Nat) (acc : Acc) (vas : List Word) :
    OnlyTlbs s (s.translateAll chain ctx acc vas).1 := by
  induction vas generalizing s with
  | nil => exact .refl s
  | cons va vas ih =>
    have hfirst := translate_only s chain ctx va acc
    unfold State.translateAll
    split
    · next hs => rwa [hs] at hfirst
    · next u _ hs =>
      rw [hs] at hfirst
      have hrest := hfirst.trans (ih u)
      split
      · next hu => rwa [hu] at hrest
      · next hu => rwa [hu] at hrest

theorem onlyTlbs_of_translateAll {s t : State} {chain : List Nat} {ctx : Nat} {acc : Acc} {vas : List Word}
    {r : Except (Word × FaultKind) (List Nat)} (h : s.translateAll chain ctx acc vas = (t, r)) : OnlyTlbs s t := by
  have honly := translateAll_only s chain ctx acc vas
  rwa [h] at honly

end Sys2Proof.Proofs
end

section
/-! Instructions whose lanes access global memory: what each of them does at its accesses is the same in all of them (12 R275,
R290). -/
namespace Sys2Proof.Proofs
open Sys2Proof.Machine Sys2Proof.Safety Sys2Proof.Laws

/-! ### Lanes that reach memory (12 R290, 13 R303) -/

theorem find?_none_of_all {α : Type} {p q : α → Bool} {xs : List α} (h : xs.all p = true) (hpq : ∀ x, p x = true → q x = false) :
    xs.find? q = none :=
  List.find?_eq_none.2 fun x hx => by simp [hpq x (List.all_eq_true.1 h x hx)]

/-- Lanes that a description takes to memory get there in the machine. -/
theorem lanesAt_reached {i : Iss} {s t : State} {lanes : List Nat} {addr : Nat → Word} {n : Nat} {acc : Acc}
    {pas : List (Nat × Nat)} (h : reached i s lanes addr n acc = some (t, pas)) : lanesAt i s lanes addr n acc = .at_ t pas := by
  obtain ⟨haligned, h⟩ := guard_bind.1 h
  obtain ⟨hhere, h⟩ := guard_bind.1 h
  unfold lanesAt
  rw [find?_none_of_all haligned fun l hl => by simpa using hl, Option.isNone_iff_eq_none.1 hhere]
  dsimp only
  split at h
  · cases h
  · next hs =>
    rw [hs]
    obtain ⟨hpresent, h⟩ := guard_bind.1 h
    cases h
    rw [Bool.and_eq_true, Bool.not_eq_true'] at hpresent
    obtain ⟨hpas, hplaced⟩ := hpresent
    dsimp only
    rw [find?_none_of_all hpas fun pa hpa => by simp at hpa; simp [hpa.1]]
    dsimp only
    rw [if_neg]
    simp only [hplaced, Bool.false_or, Bool.not_eq_true, List.any_eq_false]
    intro pa hpa
    have := List.all_eq_true.1 hpas pa hpa
    simp at this
    simp [this.2]

theorem reached_only {i : Iss} {s t : State} {lanes : List Nat} {addr : Nat → Word} {n : Nat} {acc : Acc} {pas : List (Nat × Nat)}
    (h : reached i s lanes addr n acc = some (t, pas)) : OnlyTlbs s t := by
  obtain ⟨-, h⟩ := guard_bind.1 h
  obtain ⟨-, h⟩ := guard_bind.1 h
  split at h
  · cases h
  · next hs =>
    obtain ⟨-, h⟩ := guard_bind.1 h
    cases h
    exact onlyTlbs_of_translateAll hs

/-! ### Accesses made (12 R275, 13 R300) -/

/-- Steps that do not suffice make the first of the accesses. -/
theorem sendSome_take {one : AccessStep} {n k : Nat} {xs : List Access} {s t : State} {got got' : AMap Nat}
    (hmade : eachMade one n (xs.take k) s got = some (t, got')) : sendSome one n k xs s got = (t, xs.drop k, got') := by
  induction xs generalizing k s got with
  | nil =>
    rw [List.take_nil] at hmade
    cases hmade
    simp only [sendSome, List.drop_nil]
  | cons x xs ih =>
    cases k with
    | zero =>
      cases hmade
      rfl
    | succ k =>
      obtain ⟨hhere, hmade⟩ := guard_bind.1 hmade
      simp only [Bool.and_eq_true, Bool.not_eq_true'] at hhere
      rw [sendSome_made k xs got hhere.1 hhere.2]
      exact ih hmade

section
variable {i : Iss} {s t : State} {n stamp : Nat} {xs : List Access} {got got' : AMap Nat} {one : AccessStep}
  {done : State → State} {ws : (Nat → Nat) → List Wr}

/-- A step that makes the last of the accesses ends the instruction. -/
theorem makes_all (hwhole : i.w.reduced = false) (hburst : s.burst = 0 ∨ xs.length ≤ s.burst)
    (hmade : eachMade one n xs s got = some (t, got')) :
    i.makes s n stamp xs got one done ws
      = .ok (done (t.modWarp i.wid fun w => { w with sending := none })) (ws fun l => AMap.getD got' l 0) := by
  have hsteps : xs.length ≤ if s.burst = 0 then xs.length else s.burst := by split <;> omega
  unfold Iss.makes
  rw [sendSome_of_eachMade hmade hsteps]
  simp [hwhole]

/-- A step that makes some of the accesses, and not all, leaves the bundle where it is with the others. -/
theorem makes_part (hsome : 0 < s.burst) (hfew : s.burst < xs.length)
    (hmade : eachMade one n (xs.take s.burst) s got = some (t, got')) :
    i.makes s n stamp xs got one done ws
      = .more (t.modWarp i.wid fun w =>
          { w with
            sending := some ⟨i.c, encodeFields i.e.opcode i.f, i.act, i.w.pts, xs.drop s.burst, got', stamp⟩ }) (ws fun _ => 0) := by
  have hleft : (xs.drop s.burst).isEmpty = false := by
    rw [List.isEmpty_eq_false_iff, Ne, List.drop_eq_nil_iff]
    omega
  have hmoved : ¬ (xs.drop s.burst).length = xs.length := by
    rw [List.length_drop]
    omega
  unfold Iss.makes
  rw [if_neg (by omega), sendSome_take hmade]
  simp only [hleft, hmoved, Bool.false_and, Bool.false_eq_true, if_false]

end

/-! ### One body for all of them -/

/-- What an instruction of lanes does: its lanes get to memory and it begins its accesses, or it goes on with them. -/
def accesses (r : Accessor) (i : Iss) (s : State) : Res :=
  i.reaches s (r.size i) (fun s => lanesAt i s (r.lanes i) (r.addr i) (r.bytes i) r.acc) (r.parts i) (r.one i (i.stamp s))
    (r.done i (i.stamp s)) (r.ws i) (r.first i)

/-- The instruction is the shared issue of these accesses. -/
def MakesAccesses (r : Accessor) : Prop :=
  ∃ body : Fields → Iss → State → Res, (∀ f s, exec (r.ins f) s = irlek r.enc f s (body f)) ∧
    ∀ i s, body i.f i s = accesses r i s

theorem loadAccessors_make : ∀ r ∈ loadAccessors, MakesAccesses r := by
  simp only [loadAccessors, List.forall_mem_cons]
  exact ⟨⟨_, fun _ _ => rfl, fun _ _ => rfl⟩, ⟨_, fun _ _ => rfl, fun _ _ => rfl⟩, List.forall_mem_nil _⟩

theorem storeAccessors_make : ∀ r ∈ storeAccessors, MakesAccesses r := by
  simp only [storeAccessors, List.forall_mem_cons]
  exact ⟨⟨_, fun _ _ => rfl, fun _ _ => rfl⟩, ⟨_, fun _ _ => rfl, fun _ _ => rfl⟩, List.forall_mem_nil _⟩

theorem updateAccessors_make : ∀ r ∈ updateAccessors, MakesAccesses r := by
  simp only [updateAccessors, List.forall_mem_cons]
  exact ⟨⟨_, fun _ _ => rfl, fun _ _ => rfl⟩, ⟨_, fun _ _ => rfl, fun _ _ => rfl⟩, ⟨_, fun _ _ => rfl, fun _ _ => rfl⟩,
    ⟨_, fun _ _ => rfl, fun _ _ => rfl⟩, List.forall_mem_nil _⟩

theorem addAccessor_makes : MakesAccesses addAccessor := ⟨_, fun _ _ => rfl, fun _ _ => rfl⟩

theorem accessors_make : ∀ r ∈ accessors, MakesAccesses r := by
  simp only [accessors, List.forall_mem_append, List.forall_mem_singleton]
  exact ⟨⟨⟨loadAccessors_make, storeAccessors_make⟩, updateAccessors_make⟩, addAccessor_makes⟩

theorem stamp_fresh {i : Iss} (hfresh : i.w.sending = none) (s : State) : i.stamp s = s.stamp + 1 := by
  rw [Iss.stamp, hfresh, Option.map_none, Option.getD_none]

/-- A bundle whose lanes get to memory makes its accesses under a new stamp. -/
theorem accesses_starts {r : Accessor} {i : Iss} {s t : State} {xs : List Access} (hfresh : i.w.sending = none)
    (hstarts : r.starts i s = some (t, xs)) :
    accesses r i s = i.makes t (r.size i) (s.stamp + 1) xs [] (r.one i (s.stamp + 1)) (r.done i (s.stamp + 1)) (r.ws i) := by
  obtain ⟨⟨u, pas⟩, hreached, h⟩ := Option.map_eq_some_iff.1 hstarts
  cases h
  unfold accesses Iss.reaches
  rw [stamp_fresh hfresh, hfresh]
  dsimp only
  rw [lanesAt_reached hreached]
  dsimp only
  rw [(reached_only hreached).stamp]
  rfl

/-- A bundle at its accesses goes on with those that are left. -/
theorem accesses_again {r : Accessor} {i : Iss} {s : State} {x : Sending} (hsending : i.w.sending = some x) :
    accesses r i s = i.makes s (r.size i) x.stamp x.left x.got (r.one i x.stamp) (r.done i x.stamp) (r.ws i) := by
  have hstamp : i.stamp s = x.stamp := by rw [Iss.stamp, hsending, Option.map_some, Option.getD_some]
  unfold accesses Iss.reaches
  rw [hstamp, hsending]

end Sys2Proof.Proofs
end

section
/-! Loads, stores, updates, exact reductions and prefetches run to their end, in one step and in parts, and trap where an address is
misaligned (12 R275, R278-R296, 13 R300). -/
namespace Sys2Proof.Proofs
open Sys2Proof.Machine Sys2Proof.Safety Sys2Proof.Laws

/-! ### In one step (12 R290) -/

theorem reduced_fresh {w : Warp} (hfresh : w.sending = none) : w.reduced = false := by
  rw [Warp.reduced, hfresh, Option.isSome_none, Bool.false_and]

/-- What the first access of the instruction finds says as much of how many of its accesses this step makes as the state before it. -/
theorem starts_burst {r : Accessor} (hfirst : ∀ i s, (r.first i s).burst = s.burst) {i : Iss} {s t : State} {xs : List Access}
    (hstarts : r.starts i s = some (t, xs)) : t.burst = s.burst := by
  obtain ⟨⟨u, pas⟩, hreached, h⟩ := Option.map_eq_some_iff.1 hstarts
  cases h
  exact (hfirst _ _).trans (reached_only hreached).burst

theorem starts_stamp {r : Accessor} (hfirst : ∀ i s, (r.first i s).stamp = s.stamp) {i : Iss} {s t : State} {xs : List Access}
    (hstarts : r.starts i s = some (t, xs)) : t.stamp = s.stamp + 1 := by
  obtain ⟨⟨u, pas⟩, hreached, h⟩ := Option.map_eq_some_iff.1 hstarts
  cases h
  exact (hfirst _ _).trans (congrArg (· + 1) (reached_only hreached).stamp)

/-- What an instruction does before its accesses leaves the count of stamps and the scheduler's choice. -/
theorem accessors_first : ∀ r ∈ accessors, ∀ i s, (r.first i s).burst = s.burst ∧ (r.first i s).stamp = s.stamp := by
  have hcount : ∀ (i : Iss) (s : State), (s.countIssue i.wid i.f).burst = s.burst ∧ (s.countIssue i.wid i.f).stamp = s.stamp :=
    fun i s => ⟨State.modWarp_burst .., State.modWarp_stamp ..⟩
  simp only [accessors, loadAccessors, storeAccessors, updateAccessors, List.cons_append, List.nil_append, List.forall_mem_cons]
  exact ⟨fun _ _ => ⟨rfl, rfl⟩, fun _ _ => ⟨rfl, rfl⟩, fun _ _ => ⟨rfl, rfl⟩, fun _ _ => ⟨rfl, rfl⟩, fun _ _ => ⟨rfl, rfl⟩,
    fun _ _ => ⟨rfl, rfl⟩, fun _ _ => ⟨rfl, rfl⟩, hcount, hcount, List.forall_mem_nil _⟩

/-- An instruction whose body, where its bundle is at no accesses yet, answers as its row says. -/
theorem does_ok_fresh {r : Row} {body : Fields → Iss → State → Res}
    (hx : ∀ f s, exec (r.ins f) s = irlek r.enc f s (body f) (level := r.level f))
    (hmv : r.eff.mv = fun i _ w => w.advance i.c i.c.lanes)
    (hb : ∀ i s, i.w.sending = none → r.eff.cond i s = true → body i.f i s = .ok (r.eff.st i s) (r.eff.ws i s)) : r.Does := by
  rintro f s s1 c push i ⟨⟨w, hr, pop, bs, popped, hq, ht, rfl⟩, hcond, hcov⟩
  obtain ⟨-, -, hfresh, -⟩ := id hr
  rw [hx, Row.after, hmv]
  exact irlek_ok hr hq ht (hb _ _ hfresh hcond) hcov

/-- An instruction described only where its description answers, its bundle at no accesses yet. -/
theorem when_does_fresh {ins : Fields → Instr} {enc : Enc} {run : Iss → State → Option (State × List Wr)}
    {body : Fields → Iss → State → Res} (hx : ∀ f s, exec (ins f) s = irlek enc f s (body f))
    (hb : ∀ i s t ws, i.w.sending = none → run i s = some (t, ws) → body i.f i s = .ok t ws) : (row ins enc (when run)).Does := by
  refine does_ok_fresh hx rfl fun i s hfresh hcond => ?_
  obtain ⟨⟨t, ws⟩, hrun⟩ := Option.isSome_iff_exists.1 hcond
  simp only [row, when, hrun, Option.map_some, Option.getD_some]
  exact hb i s t ws hfresh hrun

theorem accessors_do {r : Accessor} (hr : r ∈ accessors) : r.row.Does := by
  obtain ⟨body, hx, hbody⟩ := accessors_make r hr
  refine when_does_fresh hx fun i s t ws hfresh hrun => ?_
  obtain ⟨hwhole, hrun⟩ := guard_bind.1 hrun
  obtain ⟨⟨u, xs⟩, hstarts, hrun⟩ := Option.bind_eq_some_iff.1 hrun
  obtain ⟨⟨v, got⟩, hmade, hrun⟩ := Option.bind_eq_some_iff.1 hrun
  cases hrun
  have hburst : u.burst = 0 := (starts_burst (fun i s => (accessors_first r hr i s).1) hstarts).trans hwhole
  rw [hbody, accesses_starts hfresh hstarts, makes_all (reduced_fresh hfresh) (.inl hburst) hmade]
  rfl

/-! ### Prefetches (12 R292) -/

/-- A prefetch asks for both sectors of each lane's line. -/
theorem prefetch_does {ins : Fields → Instr} {enc : Enc} (into : Fields → State → Nat → Nat → State)
    {sector : Iss → State → Nat → State} (hx : ∀ f s, exec (ins f) s = prefetch enc f s (into f))
    (hinto : ∀ i s pa, into i.f s (coreOf i.wid) pa = sector i s pa) : (row ins enc (fetches sector)).Does := by
  refine does_ok hx (fun _ _ _ => rfl) fun i s _ _ => ?_
  simp only [row, fetches, leaving, List.foldl_cons, List.foldl_nil, Nat.add_zero, hinto] <;> rfl

theorem prefetchRows_do : AllDo prefetchRows := by
  simp only [AllDo, prefetchRows, List.forall_mem_cons]
  exact ⟨prefetch_does (fun f s _ pa => s.fillLine pa f.hint.toNat) (fun _ _ => rfl) fun _ _ _ => rfl,
    prefetch_does (fun _ s _ pa => if (s.mappedAt pa).isSome then s else s.fillMsc pa Sector.fill) (fun _ _ => rfl)
      fun _ _ _ => rfl,
    prefetch_does (fun f s core pa => (s.laneLoad core 0 pa 128 f.hint.toNat).1) (fun _ _ => rfl) fun _ _ _ => rfl,
    List.forall_mem_nil _⟩

/-- Settles O11: loads and stores make all their accesses as every accessor does, and a prefetch asks for its lanes' lines. -/
theorem loadsAndStoresComplete : Obligations.LoadsAndStoresComplete := by
  refine allDo_append.2 ⟨List.forall_mem_map.2 fun r hr => accessors_do ?_, prefetchRows_do⟩
  exact List.mem_append_left _ (List.mem_append_left _ hr)

/-! ### Updates and exact reductions (12 R293-R296) -/

theorem redfFlush_does : (row .redfFlush Enc.redfFlush (when redfFlush)).Does := by
  refine when_does (fun _ _ => rfl) fun i s t ws h => ?_
  obtain ⟨hrange, h⟩ := guard_bind.1 h
  simp only [Bool.and_eq_true, beq_iff_eq, decide_eq_true_eq] at hrange
  obtain ⟨⟨⟨hva, hn⟩, hleast⟩, hmost⟩ := hrange
  dsimp only
  rw [if_neg (by simp [hva]), if_neg (by simp [hn]; omega)]
  generalize rangePieces _ _ _ _ _ _ _ = pieces at h ⊢
  rcases pieces with ⟨u, k | ps⟩
  · cases h
  · dsimp only at h ⊢
    split at h
    · cases h
    · next hready =>
      cases h
      exact if_neg hready

/-- Settles O12: updates and contributions make all their accesses as every accessor does, and a flush closes its slots. -/
theorem atomicsComplete : Obligations.AtomicsComplete := by
  refine allDo_append.2 ⟨List.forall_mem_map.2 fun r hr => accessors_do ?_, ?_⟩
  · rw [accessors, List.append_assoc]
    exact List.mem_append_right _ hr
  · exact (List.forall_mem_singleton).2 redfFlush_does

/-! ### Misaligned addresses (12 R290) -/

/-- Settles O41: alignment is the first thing the lanes' addresses are looked at for, and the lowest misaligned lane is found. -/
theorem misalignedAccessTraps : Obligations.MisalignedAccessTraps := by
  intro x hx f s s1 c push i l hruns hl hmis hlower
  obtain ⟨body, hexec, hbody⟩ := accessors_make x hx
  have hfresh : i.w.sending = none := by
    obtain ⟨⟨w, ⟨-, -, hfresh, -⟩, pop, bs, popped, -, -, rfl⟩, -, -⟩ := hruns
    exact hfresh
  refine trapsWith_of_body hexec hruns ((hbody i s1).trans ?_)
  unfold accesses Iss.reaches
  rw [hfresh]
  dsimp only
  rw [lanesAt_misaligned hl hmis hlower]

/-! ### In parts (12 R275, 13 R300) -/

/-- What an instruction writes is covered in a warp as it is. -/
theorem demanded_covered {s t : State} {e : Enc} {f : Fields} {c : Cur} {w : Warp} {act : Mask} {ws : List Wr}
    (hwarp : s.warp? c.wid = some w) (hcov : Covered s e f c ws) : s.demanded t w e f c act ws = t := by
  unfold Covered at hcov
  rw [hwarp, Option.all_some] at hcov
  exact if_pos hcov

/-- An instruction that goes on with its accesses. -/
theorem irlek_again {e : Enc} {f : Fields} {s : State} {c : Cur} {w : Warp} {x : Sending} {body : Iss → State → Res} {ident : Word}
    {level : Bool} (hcur : s.cur = some c) (hwarp : s.warp? c.wid = some w) (hsending : w.sending = some x) :
    irlek e f s body ident level
      = .next (s.conclude s e f c w x.act none (body (c.iss { w with pts := x.pts } e f x.act []) s)) := by
  unfold irlek State.goOn
  simp only [hcur, hwarp, hsending]

/-- An instruction that has made part of its accesses stays. -/
theorem irlek_more {e : Enc} {f : Fields} {s s1 s2 : State} {c : Cur} {w : Warp} {pop : Option (Nat × Nat × Nat)}
    {push : Option (Nat × Nat)} {bs : List Blocked} {popped : AMap Word} {body : Iss → State → Res} {ident : Word}
    {level : Bool} {ws : List Wr} (hr : Ready e f level s c w)
    (hq : s.ringReady c.wid w c.pc e f (activeLanes w f c.lanes).count = .ready pop push bs)
    (ht : s.deliver c.wid e f (activeLanes w f c.lanes) pop bs = (s1, popped))
    (hb : body (c.iss (s1.popped c.wid w) e f (activeLanes w f c.lanes) popped) s1 = .more s2 ws) (hcov : Covered s e f c ws) :
    irlek e f s body ident level = .next s2 := by
  obtain ⟨-, hwarp, -⟩ := id hr
  rw [irlek_ready hr]
  unfold effect
  simp only [hq, ht, hb, State.conclude, demanded_covered hwarp hcov]

/-- The first step of several. -/
theorem accessor_begins {r : Accessor} (hr : r ∈ accessors) {f : Fields} {s s1 s2 t : State} {c : Cur} {got : AMap Nat}
    {push : Option (Nat × Nat)} {i : Iss} {xs : List Access} (hruns : (row r.ins r.enc {}).Runs f s s1 c push i)
    (hstarts : r.starts i s1 = some (s2, xs)) (hsome : 0 < s2.burst) (hfew : s2.burst < xs.length)
    (hmade : eachMade (r.one i (s1.stamp + 1)) (r.size i) (xs.take s2.burst) s2 [] = some (t, got))
    (hcov : Covered s r.enc f c (r.writes i [])) :
    exec (r.ins f) s = .next (r.stays i s2.stamp (xs.drop s2.burst) got t) := by
  obtain ⟨body, hx, hbody⟩ := accessors_make r hr
  obtain ⟨⟨w, hready, pop, bs, popped, hq, ht, rfl⟩, -, -⟩ := hruns
  obtain ⟨-, -, hfresh, -⟩ := id hready
  have hb := (hbody (c.iss (s1.popped c.wid w) r.enc f (activeLanes w f c.lanes) popped) s1).trans
    ((accesses_starts hfresh hstarts).trans (makes_part hsome hfew hmade))
  rw [hx, starts_stamp (fun i s => (accessors_first r hr i s).2) hstarts]
  exact irlek_more hready hq ht hb hcov

section
variable {r : Accessor} {f : Fields} {s t : State} {c : Cur} {w : Warp} {x : Sending} {got : AMap Nat}

/-- A step of several that leaves accesses to be made. -/
theorem accessor_goesOn (hr : r ∈ accessors) (hat : AtAccesses s c w x) (hsome : 0 < s.burst) (hfew : s.burst < x.left.length)
    (hmade : eachMade (r.one (r.again f c w x) x.stamp) (r.size (r.again f c w x)) (x.left.take s.burst) s x.got = some (t, got))
    (hcov : Covered s r.enc f c (r.writes (r.again f c w x) [])) :
    exec (r.ins f) s = .next (r.stays (r.again f c w x) x.stamp (x.left.drop s.burst) got t) := by
  obtain ⟨body, hx, hbody⟩ := accessors_make r hr
  obtain ⟨hcur, hwarp, hsending, -, -⟩ := hat
  have hb := (hbody (r.again f c w x) s).trans ((accesses_again hsending).trans (makes_part hsome hfew hmade))
  rw [hx, irlek_again hcur hwarp hsending]
  refine congrArg Host.Outcome.next ?_
  rw [show body f _ s = _ from hb]
  exact demanded_covered hwarp hcov

/-- The step of several that makes the last access. -/
theorem accessor_ends (hr : r ∈ accessors) (hat : AtAccesses s c w x) (hburst : s.burst = 0 ∨ x.left.length ≤ s.burst)
    (hmade : eachMade (r.one (r.again f c w x) x.stamp) (r.size (r.again f c w x)) x.left s x.got = some (t, got))
    (hcov : Covered (r.ends (r.again f c w x) x.stamp t) r.enc f c (r.writes (r.again f c w x) got)) :
    exec (r.ins f) s = .next ((r.ends (r.again f c w x) x.stamp t).finish r.enc f c none (r.writes (r.again f c w x) got)
      fun w => w.advance c c.lanes) := by
  obtain ⟨body, hx, hbody⟩ := accessors_make r hr
  obtain ⟨hcur, hwarp, hsending, hspilled, hrefill⟩ := hat
  have hwhole : (r.again f c w x).w.reduced = false := by simp [Cur.iss, Warp.reduced, hspilled, hrefill]
  have hb := (hbody (r.again f c w x) s).trans ((accesses_again hsending).trans (makes_all hwhole hburst hmade))
  rw [hx, irlek_again hcur hwarp hsending]
  refine congrArg Host.Outcome.next ?_
  rw [show body f _ s = _ from hb]
  exact commit_covered hcov

end

/-- Settles O44: the shared issue begins the accesses of a bundle, or goes on with those that are left of it. -/
theorem accessesAreMadeInParts : Obligations.AccessesAreMadeInParts := by
  intro r hr f s t c got
  exact ⟨fun _ _ _ _ _ => accessor_begins hr, fun _ _ hat => ⟨accessor_goesOn hr hat, accessor_ends hr hat⟩⟩

end Sys2Proof.Proofs
end

section
/-! Bulk commands, ESYNC and PROBE run to their end (12 R297, 13 R312, 14 R328). -/
namespace Sys2Proof.Proofs
open Sys2Proof.Machine Sys2Proof.Safety Sys2Proof.Laws

/-- A command that a description sends is sent. -/
theorem sendCmd_sent {i : Iss} {s t : State} {kind : CmdKind} {allot : Option Nat} {ord : Ord} {ws ws' : List Wr}
    (h : sent i s kind allot ord ws = some (t, ws')) : sendCmd i s kind allot ord ws = .ok t ws' := by
  obtain ⟨hacquire, h⟩ := guard_bind.1 h
  obtain ⟨n, hplace, h⟩ := Option.bind_eq_some_iff.1 h
  cases h
  unfold sendCmd
  dsimp only
  rw [if_neg (mayAcquire_iff.1 hacquire), hplace]

/-- A bulk command of operands that its description takes is sent. -/
theorem bulk_does {ins : Fields → Instr} {enc : Enc} {addrs : Iss → List Word} {kind : Iss → CmdKind}
    (hx : ∀ f s, exec (ins f) s = irlek enc f s fun i s =>
      if !bulkOk (addrs i) (i.uni 2).toNat then .trap .memRange i.low else sendCmd i s (kind i) none (ordOf f) []) :
    (row ins enc (when (bulk addrs kind))).Does := by
  refine when_does hx fun i s t ws h => ?_
  obtain ⟨hok, h⟩ := guard_bind.1 h
  rw [if_neg (by rw [bulkOk, hok]; decide)]
  exact sendCmd_sent h

theorem bulkRows_do : AllDo bulkRows := by
  simp only [AllDo, bulkRows, List.forall_mem_cons]
  exact ⟨bulk_does fun _ _ => rfl, bulk_does fun _ _ => rfl, List.forall_mem_nil _⟩

/-- ESYNC goes on exactly where neither of its two directions has to wait. -/
theorem esync_does {ins : Fields → Instr} {enc : Enc} {inward outward : Bool}
    (hx : ∀ f s, exec (ins f) s = esync enc f s inward outward) : (row ins enc (when (syncs inward outward))).Does := by
  refine when_does hx fun i s t ws h => ?_
  obtain ⟨⟨hin, hout⟩, h⟩ := guard_bind.1 h
  cases h
  dsimp only
  refine if_neg ?_
  rw [Bool.or_eq_true, Bool.and_eq_true, Bool.and_eq_true, Bool.not_eq_true']
  rintro (⟨hyes, hno⟩ | ⟨hyes, hno⟩)
  · exact Bool.eq_false_iff.1 hno (hin hyes)
  · exact Bool.eq_false_iff.1 (hout hyes) hno

theorem probe_does {ins : Fields → Instr} {enc : Enc} {acc : Acc} (hx : ∀ f s, exec (ins f) s = probeOp enc f s acc) :
    (row ins enc (when (probes acc))).Does := by
  refine when_does hx fun i s t ws h => ?_
  cases h
  rfl

theorem syncRows_do : AllDo syncRows := by
  simp only [AllDo, syncRows, List.forall_mem_cons]
  exact ⟨esync_does fun _ _ => rfl, esync_does fun _ _ => rfl, esync_does fun _ _ => rfl, probe_does fun _ _ => rfl,
    probe_does fun _ _ => rfl, probe_does fun _ _ => rfl, List.forall_mem_nil _⟩

/-- Settles O13, row by row: past the guards of its description each instruction takes the branch that the description tells. -/
theorem bulkAndSyncComplete : Obligations.BulkAndSyncComplete := allDo_append.2 ⟨bulkRows_do, syncRows_do⟩

end Sys2Proof.Proofs
end

section
/-! What accesses to memory leave unchanged: everything but memory's levels, slots and lines, the warps, the cores and clusters with their
copies, the agenda, and the counts of stamps and free choices (12 R271-R285, 13 R301-R308). -/
namespace Sys2Proof.Proofs
open Sys2Proof.Machine

/-- Two states differ in what accesses to memory may change alone. -/
def OnlyAccess (s t : State) : Prop :=
  t = { s with
    mem := t.mem, l2Behind := t.l2Behind, mscBehind := t.mscBehind, l2 := t.l2, msc := t.msc, summary := t.summary
    slots := t.slots, codeOld := t.codeOld, warps := t.warps, cores := t.cores, clusters := t.clusters
    allots := t.allots, saved := t.saved, agenda := t.agenda, free := t.free, stamp := t.stamp }

namespace OnlyAccess

theorem refl (s : State) : OnlyAccess s s := rfl

theorem trans {s t u : State} (hst : OnlyAccess s t) (htu : OnlyAccess t u) : OnlyAccess s u := by
  unfold OnlyAccess at hst htu ⊢
  rw [htu, hst]

theorem ev {s t : State} (h : OnlyAccess s t) : t.ev = s.ev := (congrArg State.ev h).trans rfl

theorem burst {s t : State} (h : OnlyAccess s t) : t.burst = s.burst := (congrArg State.burst h).trans rfl

end OnlyAccess

/-! ### Levels and lines (12 R271-R274) -/

theorem access_only (s : State) (mem : Memory) (l2Behind mscBehind : AMap Byte) (l2 : AMap L2Line) (msc : AMap MscLine)
    (summary : AMap Nat) (slots : AMap Slot) (codeOld : List (Nat × Nat × List Byte)) (warps : AMap Warp) (cores : AMap Core)
    (clusters : AMap Cluster) (allots : AMap Allot) (saved : AMap Saved) (agenda : List Action)
    (free stamp : Nat) :
    OnlyAccess s { s with
      mem := mem, l2Behind := l2Behind, mscBehind := mscBehind, l2 := l2, msc := msc, summary := summary, slots := slots
      codeOld := codeOld, warps := warps, cores := cores, clusters := clusters, allots := allots, saved := saved
      agenda := agenda, free := free, stamp := stamp } := rfl

theorem victim_only {s t : State} {ways : Nat} {set prefer : List Nat} {v : Option Nat}
    (h : s.victim ways set prefer = (v, t)) : OnlyAccess s t := by
  unfold State.victim at h
  split at h
  · cases h
    exact .refl s
  · cases h
    exact access_only ..

theorem dropMscSector_only (s : State) (base : Nat) (x : Sector) : OnlyAccess s (s.dropMscSector base x) := access_only ..

theorem evictMsc_only (s : State) (line : Nat) : OnlyAccess s (s.evictMsc line) := by
  unfold State.evictMsc
  split
  · exact .refl s
  · exact (dropMscSector_only ..).trans ((dropMscSector_only ..).trans (access_only ..))

theorem fillMsc_only (s : State) (pa : Nat) (f : Sector → Sector) : OnlyAccess s (s.fillMsc pa f) := by
  unfold State.fillMsc
  dsimp only
  refine .trans ?_ (access_only ..)
  split
  · exact .refl s
  · split
    · next hs => exact (victim_only hs).trans (evictMsc_only ..)
    · next hs => exact victim_only hs

theorem dropL2Sector_only (s : State) (base : Nat) (x : Sector) (bypass : Bool) :
    OnlyAccess s (s.dropL2Sector base x bypass) := by
  unfold State.dropL2Sector
  split
  · split
    · exact access_only ..
    · exact .refl s
  · split
    · exact access_only ..
    · exact (fillMsc_only ..).trans ((access_only ..).trans (fillMsc_only ..))

theorem evictL2_only (s : State) (line : Nat) : OnlyAccess s (s.evictL2 line) := by
  unfold State.evictL2
  split
  · exact .refl s
  · exact (dropL2Sector_only ..).trans ((dropL2Sector_only ..).trans (access_only ..))

theorem roomInL2_only (s : State) (line : Nat) : OnlyAccess s (s.roomInL2 line) := by
  unfold State.roomInL2
  dsimp only
  split
  · next hs => exact (victim_only hs).trans (evictL2_only ..)
  · next hs => exact victim_only hs

theorem demote_only (s : State) (line : Nat) : OnlyAccess s (s.demote line) := by
  unfold State.demote
  dsimp only
  split
  · split
    · exact .refl s
    · exact access_only ..
  · exact .refl s

theorem ite_only {s t u : State} {p : Prop} [Decidable p] (ht : OnlyAccess s t) (hu : OnlyAccess s u) :
    OnlyAccess s (if p then t else u) := by
  split
  · exact ht
  · exact hu

theorem fillLine_only (s : State) (pa hint : Nat) : OnlyAccess s (s.fillLine pa hint) := by
  unfold State.fillLine
  split
  · exact .refl s
  · have hroom : OnlyAccess s (if (AMap.get s.l2 (lineOf pa)).isSome then s else s.roomInL2 (lineOf pa)) :=
      ite_only (.refl s) (roomInL2_only ..)
    dsimp only
    generalize (if (AMap.get s.l2 (lineOf pa)).isSome then s else s.roomInL2 (lineOf pa)) = t at hroom ⊢
    have hmsc : OnlyAccess s (if (((t.filled pa).half pa).valid || hint == 1 || hint == 4) = true then t
        else t.fillMsc pa Sector.fill) := ite_only hroom (hroom.trans (fillMsc_only ..))
    exact (ite_only (hmsc.trans (demote_only ..)) hmsc).trans (access_only ..)

/-! ### Times and bytes (13 R301, R302) -/

theorem modWarp_only (s : State) (wid : Nat) (g : Warp → Warp) : OnlyAccess s (s.modWarp wid g) := by
  unfold State.modWarp
  split <;> exact access_only ..

theorem setTimes_only (s : State) (pa wts rts : Nat) : OnlyAccess s (s.setTimes pa wts rts) := by
  unfold State.setTimes
  split <;> exact access_only ..

theorem checkTime_only (s : State) (t : Nat) : OnlyAccess s (s.checkTime t) := by
  unfold State.checkTime
  split
  · exact .refl s
  · exact access_only ..

theorem noteCode_only (s : State) (pa : Nat) : OnlyAccess s (s.noteCode pa) := by
  unfold State.noteCode
  split
  · exact .refl s
  · exact access_only ..

theorem dirtySector_only (s : State) (pa : Nat) : OnlyAccess s (s.dirtySector pa) := by
  unfold State.dirtySector
  split
  · exact .refl s
  · exact ite_only (.refl s) (access_only ..)

theorem pokeBytes_only (s : State) (pa : Nat) (bs : List Byte) : OnlyAccess s (s.pokeBytes pa bs) := by
  unfold State.pokeBytes
  refine (noteCode_only s pa).trans ?_
  dsimp only
  split
  · exact access_only ..
  · exact (dirtySector_only ..).trans (access_only ..)

theorem rawStore_only (s : State) (p pa : Nat) (bs : List Byte) : OnlyAccess s (s.rawStore p pa bs).1 :=
  (setTimes_only ..).trans ((pokeBytes_only ..).trans (checkTime_only ..))

/-! ### Exact slots (12 R283, R284) -/

theorem roomForSlot_only {s t : State} {pa : Nat} {returning : Bool} (h : s.roomForSlot pa returning = some t) :
    OnlyAccess s t := by
  unfold State.roomForSlot at h
  dsimp only at h
  by_cases hopen : (s.residentSlots pa).length < 512
  · rw [if_pos hopen] at h
    cases h
    exact .refl s
  · rw [if_neg hopen] at h
    by_cases hfull : 1048576 ≤ s.spilledSlots pa - (if returning then 1 else 0)
    · rw [if_pos hfull] at h
      cases h
    · rw [if_neg hfull] at h
      cases h
      split
      · exact access_only ..
      · exact .refl s

theorem recall_only (s : State) (key : Nat) : OnlyAccess s (s.recall key) := by
  unfold State.recall
  split
  · split
    · exact .refl s
    · split
      · next hroom => exact (roomForSlot_only hroom).trans (access_only ..)
      · exact .refl s
  · exact .refl s

theorem foldl_only {ι : Type} {step : State → ι → State} (h : ∀ s i, OnlyAccess s (step s i)) (l : List ι) (s : State) :
    OnlyAccess s (l.foldl step s) := by
  induction l generalizing s with
  | nil => exact .refl s
  | cons i l ih => exact (h s i).trans (ih _)

theorem tailrace_only (s : State) (p key : Nat) (hint : Option Nat) : OnlyAccess s (s.tailrace p key hint).1 := by
  unfold State.tailrace
  split
  · refine .trans (.trans (recall_only s key) ?_) ((rawStore_only ..).trans (access_only ..))
    split
    · exact fillLine_only ..
    · exact ite_only (.refl _) (fillLine_only ..)
  · exact .refl s

theorem closeOver_only (s : State) (p pa n : Nat) : OnlyAccess s (s.closeOver p pa n) :=
  foldl_only (fun _ _ => tailrace_only ..) _ s

/-! ### Loads and updates of lanes (12 R279, 13 R302) -/

theorem homeLoad_only (s : State) (p pa n : Nat) (cached : Bool) : OnlyAccess s (s.homeLoad p pa n cached).1 :=
  (foldl_only recall_only _ s).trans ((setTimes_only ..).trans (checkTime_only ..))

theorem homeAtomic_only (s : State) (p pa n : Nat) (g : Nat → Nat) : OnlyAccess s (s.homeAtomic p pa n g).1 :=
  (closeOver_only ..).trans (rawStore_only ..)

theorem roomInCore_only (s : State) (core line : Nat) : OnlyAccess s (s.roomInCore core line) := by
  unfold State.roomInCore
  dsimp only
  split
  · exact .refl s
  · split
    · next hs => exact (victim_only hs).trans (access_only ..)
    · next hs => exact victim_only hs

theorem leaveCopy_only (s : State) (core pa : Nat) : OnlyAccess s (s.leaveCopy core pa) :=
  (roomInCore_only ..).trans (access_only ..)

theorem laneLoad_only (s : State) (core p pa n hint : Nat) : OnlyAccess s (s.laneLoad core p pa n hint).1 := by
  have hhome : OnlyAccess s ((s.fillLine pa hint).homeLoad p pa n (s.leased pa hint)).1 :=
    (fillLine_only ..).trans (homeLoad_only ..)
  have hcopied := fun c : Bool => ite_only (p := c = true) (hhome.trans (leaveCopy_only _ core pa)) hhome
  unfold State.laneLoad
  dsimp only
  split
  · split
    · split
      · exact .refl s
      · exact hcopied _
    · exact hcopied _
  · exact hcopied _

theorem updateCopy_only (s : State) (core pa t : Nat) : OnlyAccess s (s.updateCopy core pa t) := by
  unfold State.updateCopy
  split
  · exact .refl s
  · exact access_only ..

theorem laneAtomic_only (s : State) (core p pa hint n : Nat) (g : Nat → Nat) :
    OnlyAccess s (s.laneAtomic core p pa hint n g).1 :=
  (fillLine_only ..).trans ((homeAtomic_only ..).trans (updateCopy_only ..))

theorem noteFlight_only (s : State) (wid pa : Nat) (u : Until) : OnlyAccess s (s.noteFlight wid pa u) :=
  (access_only (s := s) ..).trans (modWarp_only ..)

end Sys2Proof.Proofs
end

section
/-! Memory levels, exact slots, walks and answers to faults: each event happens as described (12 R271-R288, 13 R302-R305,
14 R321-R325). -/
namespace Sys2Proof.Proofs
open Sys2Proof.Machine Sys2Proof.Safety Sys2Proof.Laws

/-! ### Exact slots (12 R285) -/

/-- A contribution finds its place where it is at home in the die, its line is present, and its slot has room. -/
theorem placedNow_eq (s : State) (x : SlotWait) :
    placedNow s x = if homeDie x.pa != s.ev.unit || s.absentAt x.pa 2 then none
      else (s.contribute (coreOf x.wid) x.time x.ctx x.launch x.pa x.fmt x.bits x.hint.toNat).map fun r => (x, r.1, r.2) := by
  have hguard : (homeDie x.pa == s.ev.unit && !s.absentAt x.pa 2) = !(homeDie x.pa != s.ev.unit || s.absentAt x.pa 2) := by
    rw [Bool.not_or, bne, Bool.not_not]
  unfold placedNow
  rw [hguard]
  cases homeDie x.pa != s.ev.unit || s.absentAt x.pa 2 with
  | true => rfl
  | false => cases s.contribute (coreOf x.wid) x.time x.ctx x.launch x.pa x.fmt x.bits x.hint.toNat <;> rfl

theorem slotWaitResume_does : EventRow.Does ⟨.slotWaitResume, contributionPlaced⟩ := by
  intro s t hrun
  obtain ⟨⟨x, u, time⟩, hfound, hrun⟩ := Option.bind_eq_some_iff.1 hrun
  rw [show placedNow s = _ from funext (placedNow_eq s)] at hfound
  change execSlotWaitResume s = _
  unfold execSlotWaitResume
  dsimp only
  rw [hfound]
  cases hrun
  rfl

/-! ### Levels (12 R271, 13 R302-R305) -/

theorem l2Fill_does : EventRow.Does ⟨.l2Fill, lineFilled⟩ :=
  guarded_does fun _ h => congrArg Host.Outcome.next (if_pos h)

theorem fillLine_fillLine_ev (s : State) (pa pa' hint hint' : Nat) : ((s.fillLine pa hint).fillLine pa' hint').ev = s.ev :=
  ((fillLine_only s pa hint).trans (fillLine_only ..)).ev

theorem leaseRenewal_does : EventRow.Does ⟨.leaseRenewal, renewed⟩ := by
  intro s t hrun
  obtain ⟨c, hcopy, hrun⟩ := Option.bind_eq_some_iff.1 hrun
  have hev := fillLine_fillLine_ev s (s.ev.item * 256) (s.ev.item * 256 + 128) 0 0
  dsimp only at hrun
  change execLeaseRenewal s = _
  unfold execLeaseRenewal
  dsimp only
  rw [hcopy]
  dsimp only
  rw [hev]
  exact congrArg Host.Outcome.next (Option.some.inj hrun)

theorem ptsAdvance_does : EventRow.Does ⟨.ptsAdvance, clockRises⟩ := by
  intro s t hrun
  obtain ⟨w, hwarp, hrun⟩ := Option.bind_eq_some_iff.1 hrun
  obtain ⟨hdue, hrun⟩ := guard_bind.1 hrun
  cases hrun
  change execPtsAdvance s = _
  unfold execPtsAdvance
  rw [hwarp]
  exact congrArg Host.Outcome.next (if_pos hdue)

/-! ### Errors (12 R286-R288) -/

theorem notice_ev (s : State) (n : Notice) : (s.notice n).ev = s.ev := by
  unfold State.notice
  split <;> rfl

theorem notice_warps (s : State) (n : Notice) : (s.notice n).warps = s.warps := by
  unfold State.notice
  split <;> rfl

theorem memUncorrect_does : EventRow.Does ⟨.memUncorrect, fun s => some (peerTold s.ev.nums[1]?
    ((s.notice (.uncorrectable s.ev.item s.ev.third)).haltCtx s.ev.unit .memUncorrect
      (BitVec.ofNat 64 (Config.uncorrectInfo s.ev.item s.ev.third)) ((s.ev.nums.head?.bind s.warp?).map (·.saveIdx))))⟩ := by
  refine always_does fun s => congrArg Host.Outcome.next ?_
  have hwarp : ∀ n, (s.notice n).warp? = s.warp? := fun n => funext fun wid => by rw [State.warp?, notice_warps, State.warp?]
  simp only [notice_ev, hwarp]
  cases s.ev.nums[1]? <;> rfl

theorem unconsumedError_does : EventRow.Does ⟨.unconsumedError, sectorLost⟩ := by
  intro s t hrun
  change execUnconsumedError s = _
  unfold sectorLost at hrun
  unfold execUnconsumedError
  dsimp only at hrun ⊢
  by_cases hfill : s.ev.item = 0
  · rw [if_pos hfill] at hrun ⊢
    cases hrun
    rfl
  · rw [if_neg hfill] at hrun ⊢
    by_cases hl2 : s.ev.item = 1
    · rw [if_pos hl2] at hrun ⊢
      obtain ⟨l, hline, hrun⟩ := Option.bind_eq_some_iff.1 hrun
      obtain ⟨hdirty, hrun⟩ := guard_bind.1 hrun
      cases hrun
      rw [hline, Option.any_some, if_pos hdirty]
      rfl
    · rw [if_neg hl2] at hrun ⊢
      obtain ⟨m, hline, hrun⟩ := Option.bind_eq_some_iff.1 hrun
      obtain ⟨hdirty, hrun⟩ := guard_bind.1 hrun
      cases hrun
      rw [hline, Option.any_some, if_pos hdirty]
      rfl

theorem memoryEvents_do : EventsDo memoryEvents := by
  simp only [EventsDo, memoryEvents, List.forall_mem_cons]
  exact ⟨slotWaitResume_does, always_does fun _ => rfl, l2Fill_does, always_does fun _ => rfl, leaseRenewal_does,
    ptsAdvance_does, always_does fun _ => rfl, memUncorrect_does, unconsumedError_does, List.forall_mem_nil _⟩

/-! ### Walks (14 R321, R323) -/

/-- A walk that neither finds a walker nor a place in the queue is the one that is held. -/
theorem tlbMissWalk_does : EventRow.Does ⟨.tlbMissWalk, walkAsked⟩ := by
  intro s t hrun
  change execTlbMissWalk s = _
  unfold walkAsked at hrun
  unfold execTlbMissWalk
  dsimp only at hrun ⊢
  generalize hsame : List.any _ _ = same at hrun ⊢
  cases same with
  | true =>
    cases hrun
    rfl
  | false =>
    obtain ⟨hroom, hrun⟩ := guard_bind.1 hrun
    cases hrun
    rw [if_neg Bool.false_ne_true, if_neg]
    rw [Bool.or_eq_true, decide_eq_true_eq, decide_eq_true_eq] at hroom
    rw [Bool.and_eq_true, Bool.not_eq_true', decide_eq_true_eq, decide_eq_false_iff_not]
    omega

theorem walkComplete_does : EventRow.Does ⟨.walkComplete, walkEnded⟩ := by
  intro s t hrun
  obtain ⟨w, hwalk, hrun⟩ := Option.bind_eq_some_iff.1 hrun
  obtain ⟨hbusy, hrun⟩ := guard_bind.1 hrun
  cases hrun
  change execWalkComplete s = _
  unfold execWalkComplete
  rw [hwalk]
  exact congrArg Host.Outcome.next (if_neg (by rw [hbusy]; decide))

/-! ### Answers to faults (14 R324, R325) -/

theorem faultReplay_does : EventRow.Does ⟨.faultReplay, replayed⟩ := by
  intro s t hrun
  obtain ⟨r, hrecord, hrun⟩ := Option.bind_eq_some_iff.1 hrun
  cases hrun
  change execFaultReplay s = _
  unfold execFaultReplay
  dsimp only
  rw [hrecord]

theorem faultFail_does : EventRow.Does ⟨.faultFail, failed⟩ := by
  intro s t hrun
  obtain ⟨r, hrecord, hrun⟩ := Option.bind_eq_some_iff.1 hrun
  obtain ⟨c, hctx, hrun⟩ := Option.bind_eq_some_iff.1 hrun
  cases hrun
  change execFaultFail s = _
  unfold execFaultFail
  dsimp only
  rw [hrecord]
  dsimp only
  rw [hctx]
  dsimp only
  by_cases hcause : c.hcause = 0
  · rw [if_pos hcause, if_neg (by simp [hcause])]
  · rw [if_neg hcause, if_pos (bne_iff_ne.2 hcause)]

theorem translationEvents_do : EventsDo translationEvents := by
  simp only [EventsDo, translationEvents, List.forall_mem_cons]
  exact ⟨tlbMissWalk_does, walkComplete_does, faultReplay_does, faultFail_does, List.forall_mem_nil _⟩

/-- Settles O21: each of these events does what its description says. -/
theorem memoryAndTranslationEvents : Obligations.MemoryAndTranslationEvents :=
  eventsDo_append.2 ⟨memoryEvents_do, translationEvents_do⟩

end Sys2Proof.Proofs
end

section
/-! Trace slots, rays and records: their instructions run to their end (15 R329-R356). -/
namespace Sys2Proof.Proofs
open Sys2Proof.Machine Sys2Proof.Safety Sys2Proof.Laws

/-! ### Loads of quadwords (15 R351) -/

/-- An instruction that loads quadwords goes on with those that a description loads. -/
theorem loadQuads_loaded {i : Iss} {s t : State} {vas : List Word} {xs : List Nat} (h : loaded i s vas = some (t, xs))
    (body : State → List Nat → Res) : loadQuads i s vas body = body t xs := by
  obtain ⟨haligned, h⟩ := guard_bind.1 h
  have hmis : ¬ (vas.any fun a => a.toNat % 8 != 0) = true := by
    simp only [Bool.not_eq_true, List.any_eq_false]
    exact fun a ha => by simpa using List.all_eq_true.1 haligned a ha
  unfold loadQuads
  rw [if_neg hmis]
  split at h
  · cases h
  · next hs =>
    rw [hs]
    obtain ⟨hready, h⟩ := guard_bind.1 h
    rw [Bool.and_eq_true, Bool.not_eq_true'] at hready
    obtain ⟨hpresent, hplaced⟩ := hready
    dsimp only
    rw [if_neg, Option.some.inj h]
    simp only [hplaced, Bool.false_or, Bool.not_eq_true, List.any_eq_false]
    exact fun pa hpa => by simpa using List.all_eq_true.1 hpresent pa hpa

/-! ### ASBIND (15 R348, R351) -/

theorem answer_some {i : Iss} {s t : State} {n : Nat} {ws : List Wr} (h : answer i s n = some (t, ws)) :
    Res.ok s (i.dest fun _ => BitVec.ofNat 64 n) = .ok t ws := by
  cases h
  rfl

theorem asbind_does : (row .asbind Enc.asbind (when asbind)).Does := by
  refine when_does (fun _ _ => rfl) fun i s t ws h => ?_
  obtain ⟨⟨id, a⟩, hallot, h⟩ := Option.bind_eq_some_iff.1 h
  dsimp only at h ⊢
  rw [withAllot_some hallot]
  by_cases hslot : 7 < (i.uni 1).toNat
  · rw [if_pos hslot] at h ⊢
    exact answer_some h
  rw [if_neg hslot] at h ⊢
  by_cases hbound : (AMap.get (s.core a.core).slots (i.uni 1).toNat).isSome = true
  · rw [if_pos hbound] at h ⊢
    exact answer_some h
  rw [if_neg hbound] at h ⊢
  obtain ⟨hpresent, h⟩ := guard_bind.1 h
  rw [if_neg (by simp [hpresent])]
  split at h
  · next hbad =>
    rw [if_pos hbad]
    exact answer_some h
  next hgood =>
  rw [if_neg hgood]
  obtain ⟨⟨u, xs⟩, hheader, h⟩ := Option.bind_eq_some_iff.1 h
  rw [loadQuads_loaded hheader]
  simp only [beq_iff_eq]
  generalize ite (i.w.wreg (regNum i.f.op2 + 1) = ~~~0#64) _ _ = g at h ⊢
  split at h
  · next hwrong =>
    rw [if_pos (by simpa using hwrong)]
    exact answer_some h
  next hright =>
  rw [if_neg (by simpa using hright)]
  obtain ⟨⟨v, ys⟩, hgen, h⟩ := Option.bind_eq_some_iff.1 h
  rw [loadQuads_loaded hgen]
  dsimp only at h ⊢
  split at h
  · next hother =>
    rw [if_pos (bne_iff_ne.2 hother)]
    exact answer_some h
  · next hsame =>
    rw [if_neg (by simpa using hsame)]
    exact answer_some h

theorem asbindClose_does : (row .asbindClose Enc.asbindClose (when asbindClose)).Does := by
  refine when_does (fun _ _ => rfl) fun i s t ws h => ?_
  obtain ⟨⟨id, a⟩, hallot, h⟩ := Option.bind_eq_some_iff.1 h
  dsimp only at h ⊢
  rw [withAllot_some hallot]
  cases hslot : s.slotOf id a (i.uni 1).toNat with
  | none =>
    rw [hslot] at h
    exact answer_some h
  | some x =>
    rw [hslot] at h
    dsimp only
    cases hclosed : x.closed with
    | true =>
      rw [Option.filter_some, hclosed] at h
      exact answer_some h
    | false =>
      rw [Option.filter_some, hclosed] at h
      exact answer_some h

theorem asbindClr_does : (row .asbindClr Enc.asbindClr (when asbindClr)).Does := by
  refine when_does (fun _ _ => rfl) fun i s t ws h => ?_
  obtain ⟨⟨id, a⟩, hallot, h⟩ := Option.bind_eq_some_iff.1 h
  dsimp only at h ⊢
  rw [withAllot_some hallot]
  cases hslot : s.slotOf id a (i.uni 1).toNat with
  | none =>
    rw [hslot] at h
    exact answer_some h
  | some x =>
    rw [hslot] at h
    dsimp only at h ⊢
    by_cases hopen : (!x.closed) = true
    · rw [if_pos hopen] at h ⊢
      exact answer_some h
    rw [if_neg hopen] at h ⊢
    by_cases hlive : s.slotLive x = true
    · rw [if_pos hlive] at h ⊢
      exact answer_some h
    rw [if_neg hlive] at h ⊢
    exact answer_some h

/-! ### Rays sent (15 R350, R352, R353) -/

/-- What the bound slot of a description says of the slot's number. -/
theorem boundSlot_some {i : Iss} {s : State} {k id slot : Nat} {a : Allot} {x : TraceSlot}
    (h : boundSlot i s k = some (id, a, slot, x)) :
    s.allotOf i.wid i.w = some (id, a) ∧ slot = (i.uni k).toNat
    ∧ (if 7 < (i.uni k).toNat then none else s.slotOf id a (i.uni k).toNat) = some x := by
  obtain ⟨⟨id, a⟩, hallot, h⟩ := Option.bind_eq_some_iff.1 h
  obtain ⟨hnumber, h⟩ := guard_bind.1 h
  obtain ⟨y, hslot, h⟩ := Option.bind_eq_some_iff.1 h
  cases h
  exact ⟨hallot, rfl, by rw [if_neg (Nat.not_lt.2 hnumber), hslot]⟩

theorem trace_does {ins : Fields → Instr} {enc : Enc} {slotOp : Nat} {pair : Bool}
    (hx : ∀ f s, exec (ins f) s = traceOp enc f s slotOp pair) : (row ins enc (when (traced slotOp pair))).Does := by
  refine when_does hx fun i s t ws h => ?_
  obtain ⟨⟨id, a, slot, x⟩, hbound, h⟩ := Option.bind_eq_some_iff.1 h
  obtain ⟨hallot, rfl, hslot⟩ := boundSlot_some hbound
  obtain ⟨hready, h⟩ := guard_bind.1 h
  simp only [Bool.and_eq_true, Bool.not_eq_true', decide_eq_true_eq] at hready
  obtain ⟨⟨⟨hopen, hfits⟩, hplaced⟩, hroom⟩ := hready
  cases h
  dsimp only
  rw [withAllot_some hallot, hslot]
  dsimp only
  rw [if_neg (by simp [hopen]), if_neg (Nat.not_lt.2 hfits),
    if_neg (by simp only [hplaced, Bool.false_or, decide_eq_true_eq]; exact Nat.not_lt.2 hroom)]
  rfl

/-! ### Records that handles name (15 R345, R350, R354-R356) -/

/-- The records that a description's lanes name are found. -/
theorem namedRecords_handled {i : Iss} {s : State} {id core op : Nat} {ok : Nat → Bool} {once : Bool}
    {xs : List (Nat × Nat × TraceSlot × Nat)} (h : handled i s id core op ok once = some xs) :
    namedRecords i s id core op ok once = .ok xs := by
  obtain ⟨hvalid, h⟩ := guard_bind.1 h
  obtain ⟨hstates, h⟩ := guard_bind.1 h
  cases h
  unfold namedRecords
  dsimp only
  rw [find?_none_of_all hvalid fun l hl => by simpa [Option.isSome_iff_ne_none] using hl]
  dsimp only
  split
  · next x hfound =>
    have hgood := List.all_eq_true.1 hstates x (List.mem_of_find?_eq_some hfound)
    rw [Bool.and_eq_true, Bool.not_eq_true'] at hgood
    have hbad := List.find?_some hfound
    rcases Bool.or_eq_true_iff.1 hbad with hstate | htwice
    · rw [hgood.1] at hstate
      cases hstate
    · exact Bool.noConfusion (htwice.symm.trans hgood.2)
  · rfl

theorem rayspawn_does : (row .rayspawn Enc.rayspawn (when rayspawn)).Does := by
  refine when_does (fun _ _ => rfl) fun i s t ws h => ?_
  obtain ⟨⟨id, a⟩, hallot, h⟩ := Option.bind_eq_some_iff.1 h
  obtain ⟨xs, hnamed, h⟩ := Option.bind_eq_some_iff.1 h
  obtain ⟨hplaced, h⟩ := guard_bind.1 h
  cases h
  dsimp only
  rw [withAllot_some hallot, namedRecords_handled hnamed]
  exact if_neg (by simpa using hplaced)

theorem answers_does {ins : Fields → Instr} {enc : Enc} {ok : Nat → Bool} {settles : Bool}
    {g : Iss → Nat → State → Nat → TraceSlot → Nat → State} (hx : ∀ f s, exec (ins f) s = answerOp enc f s ok settles g) :
    (row ins enc (when (answers ok settles g))).Does := by
  refine when_does hx fun i s t ws h => ?_
  obtain ⟨⟨id, a⟩, hallot, h⟩ := Option.bind_eq_some_iff.1 h
  obtain ⟨xs, hnamed, h⟩ := Option.bind_eq_some_iff.1 h
  obtain ⟨hplaced, h⟩ := guard_bind.1 h
  cases h
  dsimp only
  rw [withAllot_some hallot, namedRecords_handled hnamed]
  exact if_neg (by rwa [Bool.not_eq_true, ← Bool.not_eq_true'])

theorem rload_does : (row .rload Enc.rload (when rload)).Does := by
  refine when_does (fun _ _ => rfl) fun i s t ws h => ?_
  obtain ⟨⟨id, a⟩, hallot, h⟩ := Option.bind_eq_some_iff.1 h
  obtain ⟨xs, hnamed, h⟩ := Option.bind_eq_some_iff.1 h
  cases h
  dsimp only
  rw [withAllot_some hallot, namedRecords_handled hnamed]

theorem rloadSlot_does : (row .rloadSlot Enc.rloadSlot (when rloadSlot)).Does := by
  refine when_does (fun _ _ => rfl) fun i s t ws h => ?_
  obtain ⟨⟨id, a, slot, x⟩, hbound, h⟩ := Option.bind_eq_some_iff.1 h
  obtain ⟨hallot, rfl, hslot⟩ := boundSlot_some hbound
  cases h
  dsimp only
  rw [withAllot_some hallot, hslot]

/-- A ray that a warp ends is taken out of the unit where it waits there. -/
theorem terminates_eq (i : Iss) (core : Nat) (s : State) (slot : Nat) (t : TraceSlot) (k : Nat) :
    terminates i core s slot t k = (if s.recState t k == recAnyhit then
        (s.modTvu core fun u => { u with rays := AMap.erase u.rays (rayKey slot k) }).jobRay core (rayKey slot k) none
      else s).freeRecord core t k := by
  unfold terminates
  simp only [beq_iff_eq]

/-- Settles O14, row by row: past the guards of its description each instruction takes the branch that the description tells. -/
theorem tracingComplete : Obligations.TracingComplete := by
  have hrayterm : (row .rayterm Enc.rayterm (when (answers (fun x => x == recAnyhit || x == recHeld) false terminates))).Does := by
    rw [funext fun i => funext fun core => funext fun s => funext fun slot => funext fun t => funext (terminates_eq i core s slot t)]
    exact answers_does fun _ _ => rfl
  simp only [Obligations.TracingComplete, AllDo, traceRows, List.forall_mem_cons]
  exact ⟨asbind_does, asbindClose_does, asbindClr_does, trace_does fun _ _ => rfl, trace_does fun _ _ => rfl,
    answers_does fun _ _ => rfl, answers_does fun _ _ => rfl, answers_does fun _ _ => rfl, rayspawn_does, hrayterm, rload_does,
    rloadSlot_does, List.forall_mem_nil _⟩

end Sys2Proof.Proofs
end

section
/-! Builder commands, cluster streams, fences and generations: their instructions run to their end (16 R367-R373). -/
namespace Sys2Proof.Proofs
open Sys2Proof.Machine Sys2Proof.Safety Sys2Proof.Laws

/-! ### Builder commands (16 R367, R371) -/

/-- A builder command carries the word of its own entry. -/
theorem build_does {ins : Fields → Instr} {enc : Enc} {kind : BuildKind}
    (hx : ∀ f s, exec (ins f) s = sendBuild enc f s kind) : (row ins enc (when (built kind))).Does := by
  refine does_ok (fun f s => hx f s) (fun _ _ _ => rfl) fun i s henc hcond => ?_
  obtain ⟨⟨t, ws⟩, hrun⟩ := Option.isSome_iff_exists.1 hcond
  simp only [row, when, hrun, Option.map_some, Option.getD_some]
  obtain ⟨hacquire, hrun⟩ := guard_bind.1 hrun
  obtain ⟨b, hplace, hrun⟩ := Option.bind_eq_some_iff.1 hrun
  cases hrun
  rw [if_neg (mayAcquire_iff.1 hacquire), hplace, henc]
  rfl

/-! ### CLEMIT (16 R370) -/

theorem clemitAt_only {i : Iss} {s t : State} {hdr : Word} {r : Except (Word × FaultKind) (List Nat × List Nat)}
    (h : clemitAt i s hdr = (t, r)) : OnlyTlbs s t := by
  unfold clemitAt at h
  dsimp only at h
  split at h
  · next hs =>
    cases h
    exact onlyTlbs_of_translateAll hs
  · next hs =>
    split at h
    · next hu =>
      cases h
      exact (onlyTlbs_of_translateAll hs).trans (onlyTlbs_of_translateAll hu)
    · next hu =>
      cases h
      exact (onlyTlbs_of_translateAll hs).trans (onlyTlbs_of_translateAll hu)

theorem clemitReserve_only (i : Iss) (s : State) (capPa countPa : Nat) : OnlyAccess s (clemitReserve i s capPa countPa).1 := by
  have hlanes : ∀ (g : State × List Nat → Nat → State × List Nat), (∀ r l, OnlyAccess r.1 (g r l).1) →
      ∀ (ls : List Nat) r, OnlyAccess r.1 (ls.foldl g r).1 := by
    intro g hg ls
    induction ls with
    | nil => exact fun r => .refl r.1
    | cons l ls ih => exact fun r => (hg r l).trans (ih _)
  refine .trans ((laneLoad_only ..).trans (modWarp_only ..)) (hlanes _ (fun r l => ?_) _ _)
  exact (noteFlight_only ..).trans ((laneAtomic_only ..).trans (modWarp_only ..))

theorem clemit_does : (row .clemit Enc.clemit (when clemit)).Does := by
  refine when_does_fresh (fun _ _ => rfl) fun i s t ws hfresh h => ?_
  obtain ⟨hready, h⟩ := guard_bind.1 h
  simp only [Bool.and_eq_true, decide_eq_true_eq, beq_iff_eq] at hready
  obtain ⟨⟨hburst, hheader⟩, haligned⟩ := hready
  dsimp only at h ⊢
  rw [hfresh]
  dsimp only
  rw [find?_none_of_all haligned fun l hl => by simpa [hheader] using hl]
  dsimp only
  split at h
  · cases h
  · next u pas es hat =>
    obtain ⟨hpresent, h⟩ := guard_bind.1 h
    obtain ⟨⟨v, got⟩, hmade, h⟩ := Option.bind_eq_some_iff.1 h
    cases h
    rw [Bool.and_eq_true, Bool.not_eq_true'] at hpresent
    obtain ⟨hlines, hplaced⟩ := hpresent
    rw [hat]
    dsimp only
    rw [if_neg]
    · have hsteps : (clemitReserve i u ((pas[0]?).getD 0) ((pas[1]?).getD 0)).1.burst = 0 :=
        (clemitReserve_only ..).burst.trans ((clemitAt_only hat).burst.trans hburst)
      exact makes_all (reduced_fresh hfresh) (.inl hsteps) hmade
    · simp only [hplaced, Bool.false_or, Bool.not_eq_true, List.any_eq_false]
      exact fun pa hpa => by simpa using List.all_eq_true.1 hlines pa hpa

/-! ### SFWAIT and GENADV (16 R372, R373) -/

theorem fenceWait_does {ins : Fields → Instr} {enc : Enc} {retry : Bool}
    (hx : ∀ f s, exec (ins f) s = fenceWait enc f s retry) : (row ins enc (when (sfwait retry))).Does := by
  refine when_does hx fun i s t ws h => ?_
  unfold sfwait at h
  dsimp only at h ⊢
  by_cases hzero : (i.uni 2).toNat = 0
  · rw [if_pos hzero] at h ⊢
    cases h
    rfl
  rw [if_neg hzero] at h ⊢
  obtain ⟨⟨u, xs⟩, htable, h⟩ := Option.bind_eq_some_iff.1 h
  rw [loadQuads_loaded htable]
  obtain ⟨⟨v, ys⟩, hentry, h⟩ := Option.bind_eq_some_iff.1 h
  rw [loadQuads_loaded hentry]
  obtain ⟨hgoes, h⟩ := guard_bind.1 h
  cases h
  exact if_pos hgoes

theorem genadv_does : (row .genadv Enc.genadv (when genadv)).Does := by
  refine when_does (fun _ _ => rfl) fun i s t ws h => ?_
  obtain ⟨⟨id, a⟩, hallot, h⟩ := Option.bind_eq_some_iff.1 h
  dsimp only at h ⊢
  rw [withAllot_some hallot]
  cases hslot : if 7 < (i.uni 1).toNat then none else s.slotOf id a (i.uni 1).toNat with
  | none =>
    rw [hslot] at h
    exact answer_some h
  | some x =>
    rw [hslot] at h
    obtain ⟨⟨u, xs⟩, hcurrent, h⟩ := Option.bind_eq_some_iff.1 h
    dsimp only at h ⊢
    rw [loadQuads_loaded hcurrent]
    simp only [beq_iff_eq]
    generalize ite (i.uni 2 = ~~~0#64) _ _ = g at h ⊢
    obtain ⟨⟨v, ys⟩, hgen, h⟩ := Option.bind_eq_some_iff.1 h
    rw [loadQuads_loaded hgen]
    dsimp only at h ⊢
    split at h
    · next hlive =>
      rw [if_pos hlive]
      exact answer_some h
    next hdead =>
    rw [if_neg hdead]
    split at h
    · next hwrong =>
      rw [if_pos (by simpa using hwrong)]
      exact answer_some h
    · next hright =>
      rw [if_neg (by simpa using hright)]
      exact answer_some h

/-- Settles O15, row by row: past the guards of its description each instruction takes the branch that the description tells. -/
theorem buildersComplete : Obligations.BuildersComplete := by
  simp only [Obligations.BuildersComplete, AllDo, builderRows, List.forall_mem_cons]
  exact ⟨build_does fun _ _ => rfl, build_does fun _ _ => rfl, build_does fun _ _ => rfl, build_does fun _ _ => rfl, clemit_does,
    fenceWait_does fun _ _ => rfl, fenceWait_does fun _ _ => rfl, genadv_does, List.forall_mem_nil _⟩

end Sys2Proof.Proofs
end

section
/-! LAUNCH and NOTIFY, and the Nibex instructions: they run to their end (17 R378-R390). -/
namespace Sys2Proof.Proofs
open Sys2Proof.Machine Sys2Proof.Safety Sys2Proof.Laws

/-! ### LAUNCH and NOTIFY (17 R385, R390) -/

theorem launch_does : (row .launch Enc.launch (when launched)).Does := by
  refine when_does (fun _ _ => rfl) fun i s t ws h => ?_
  obtain ⟨hready, h⟩ := guard_bind.1 h
  simp only [Bool.and_eq_true, Bool.not_eq_true', decide_eq_true_eq] at hready
  obtain ⟨hroom, hplaced⟩ := hready
  dsimp only at h ⊢
  rw [if_neg (by simp only [hplaced, Bool.or_false, decide_eq_true_eq]; exact Nat.not_le.2 hroom)]
  cases hl : ((s.settleLanes i.wid).raiseFront (dieOf i.wid) i.w.pts).launchOf i.w <;>
  · rw [hl] at h
    dsimp only [Option.map_none, Option.map_some, Option.getD_none, Option.getD_some, Option.bind_none, Option.bind_some] at h ⊢
    split at h
    · next hsubmit =>
      cases h
      rw [hsubmit]
    · cases h

theorem notify_does : (row .notify Enc.notify (when notified)).Does := by
  refine when_does (fun _ _ => rfl) fun i s t ws h => ?_
  obtain ⟨hplaced, h⟩ := guard_bind.1 h
  dsimp only at h ⊢
  rw [if_neg (by simpa using hplaced)]
  cases hq : (s.settleLanes i.wid).liveQueue (i.uni 1).toNat with
  | none =>
    rw [hq] at h
    exact answer_some h
  | some k =>
    rw [hq] at h
    by_cases hown : (k.classL && k.ctx == i.w.ctx) = true
    · rw [Option.filter_some, if_pos hown] at h
      dsimp only at h ⊢
      rw [if_neg (by simpa using hown)]
      by_cases hstopped : k.stopped = true
      · rw [if_pos hstopped] at h ⊢
        exact answer_some h
      rw [if_neg hstopped] at h ⊢
      obtain ⟨hstarts, h⟩ := guard_bind.1 h
      rw [if_neg (by simpa using hstarts)]
      obtain ⟨hexamined, h⟩ := guard_bind.1 h
      by_cases hruns : k.running.isSome = true
      · rw [if_pos hruns] at h ⊢
        exact answer_some h
      rw [if_neg hruns] at h hexamined ⊢
      rw [Bool.not_eq_true] at hruns
      rw [hruns, Bool.false_or] at hexamined
      split
      · next k' hk' =>
        rw [hk', Option.any_some, Bool.and_eq_true, Bool.not_eq_true', Bool.not_eq_true'] at hexamined
        rw [if_neg (by simp [hexamined.1, hexamined.2])]
        exact answer_some h
      · next hgone =>
        rw [hgone] at hexamined
        cases hexamined
    · rw [Option.filter_some, if_neg hown] at h
      dsimp only at h ⊢
      rw [if_pos (by rw [Bool.not_eq_true, Bool.and_eq_false_iff] at hown; simpa using hown)]
      exact answer_some h

/-- Settles O16: past the guards of its description each of the two takes the branch that the description tells. -/
theorem launchesComplete : Obligations.LaunchesComplete := by
  simp only [Obligations.LaunchesComplete, AllDo, launchRows, List.forall_mem_cons]
  exact ⟨launch_does, notify_does, List.forall_mem_nil _⟩

/-! ### Nibex (17 R381-R383) -/

/-- The step of the command that a queue runs, for an instruction that answers with registers and a goal. -/
theorem nibex_go {f : NibexFields} {s t : State} {n : Nx} {body : Nx → State → NRes} {x : List Word} {goal : Nat} (hf : n.f = f)
    (hq : s.nib = some n.q) (hk : AMap.get s.queues n.q = some n.k) (hr : n.k.running = some n.r)
    (hb : body n s = .go t x goal) :
    nibex f s body = .next (t.modQueue n.q fun k =>
      { k with running := k.running.map fun r => { r with x := x, pc := goal, steps := r.steps + 1 } }) := by
  subst hf
  simp only [nibex, hq, hk, hr, Option.bind_some, Option.map_some]
  rw [hb]

theorem nibex_done {f : NibexFields} {s t : State} {n : Nx} {body : Nx → State → NRes} (hf : n.f = f)
    (hq : s.nib = some n.q) (hk : AMap.get s.queues n.q = some n.k) (hr : n.k.running = some n.r)
    (hb : body n s = .done t) : nibex f s body = .next t := by
  subst hf
  simp only [nibex, hq, hk, hr, Option.bind_some, Option.map_some]
  rw [hb]

/-- A Nibex instruction does what its row says when its body goes on to what the row says. -/
theorem nrow_does {r : NRow} {body : NibexFields → Nx → State → NRes} (hx : ∀ f s, exec (r.ins f) s = nibex f s (body f))
    (hb : ∀ n s, r.cond n s = true → body n.f n s = .go (r.st n s) (r.regs n s) (r.goal n s)) : r.Does := by
  intro f s n hf hq hk hr hcond
  subst hf
  rw [hx]
  exact nibex_go rfl hq hk hr (hb n s hcond)

theorem sets_does {ins : NibexFields → Instr} {val : Nx → Word} (hx : ∀ f s, exec (ins f) s = nibexSet f s val) :
    (sets ins val).Does :=
  nrow_does hx fun _ _ _ => rfl

theorem skips_does {ins : NibexFields → Instr} {cond : Nx → Bool} (hx : ∀ f s, exec (ins f) s = nibexSkip f s cond) :
    (skips ins cond).Does :=
  nrow_does hx fun n s _ => congrArg (NRes.go s n.r.x) (by cases hc : cond n <;> simp [skips, Nx.next, hc])

/-- An instruction that is described only where its description answers: its body goes on to the next one with that answer. -/
theorem nwhen_does {ins : NibexFields → Instr} {run : Nx → State → Option (State × List Word)} {body : NibexFields → Nx → State → NRes}
    (hx : ∀ f s, exec (ins f) s = nibex f s (body f))
    (hb : ∀ n s t x, run n s = some (t, x) → body n.f n s = .go t x n.next) : (nwhen ins run).Does := by
  refine nrow_does hx fun n s hcond => ?_
  obtain ⟨⟨t, x⟩, hrun⟩ := Option.isSome_iff_exists.1 hcond
  simp only [nwhen, hrun, Option.map_some, Option.getD_some]
  exact hb n s t x hrun

/-- DJNZ goes back while the register has not come to 0. -/
theorem djnz_does : ({ sets .nxDjnz fun n => n.xa - 1 with
    goal := fun n _ => if n.xa = 1 then n.r.pc + 1 else n.r.pc - n.f.imm.toNat } : NRow).Does := by
  refine nrow_does (body := fun _ n s => .go s (n.setA (n.xa - 1)) (if n.xa - 1 != 0 then n.r.pc - n.f.imm.toNat else n.next))
    (fun _ _ => rfl) fun n s _ => congrArg (NRes.go s _) ?_
  dsimp only
  by_cases hlast : n.xa = 1
  · rw [if_neg (by simp [hlast]), if_pos hlast, Nx.next]
  · rw [if_pos (bne_iff_ne.2 fun h => hlast (by bv_omega)), if_neg hlast]

theorem feGot_some {r : State × FeRes Word} {t : State} {x : Word} (h : feGot r = some (t, x)) : r = (t, .ok x) := by
  unfold feGot at h
  split at h
  · cases h
    rfl
  · cases h

theorem nxLdc_does : (nwhen .nxLdc nldc).Does := by
  refine nwhen_does (fun _ _ => rfl) fun n s t x h => ?_
  dsimp only
  unfold nldc at h
  dsimp only at h
  by_cases hquad0 : n.f.imm.toNat = 0
  · rw [if_pos hquad0] at h ⊢
    cases h
    rfl
  rw [if_neg hquad0] at h ⊢
  by_cases hquad1 : n.f.imm.toNat = 1
  · rw [if_pos hquad1] at h ⊢
    cases h
    rfl
  rw [if_neg hquad1] at h ⊢
  obtain ⟨⟨u, y⟩, hread, h⟩ := Option.bind_eq_some_iff.1 h
  cases h
  rw [feGot_some hread]
  rfl

theorem nxLdm_does : (nwhen .nxLdm nldm).Does := by
  refine nwhen_does (fun _ _ => rfl) fun n s t x h => ?_
  obtain ⟨hwindow, h⟩ := guard_bind.1 h
  obtain ⟨⟨u, y⟩, hread, h⟩ := Option.bind_eq_some_iff.1 h
  cases h
  dsimp only [Nx.immWord, Nx.imm]
  rw [if_neg (by simp [hwindow]), feGot_some hread]
  rfl

theorem nxStm_does : (nwhen .nxStm nstm).Does := by
  refine nwhen_does (fun _ _ => rfl) fun n s t x h => ?_
  obtain ⟨hwindow, h⟩ := guard_bind.1 h
  dsimp only [Nx.immWord, Nx.imm]
  rw [if_neg (by simp [hwindow])]
  split at h
  · next hstore =>
    cases h
    rw [hstore]
  · cases h

theorem nxNlaunch_does : (nwhen .nxNlaunch nlaunch).Does := by
  refine nwhen_does (fun _ _ => rfl) fun n s t x h => ?_
  obtain ⟨hroom, h⟩ := guard_bind.1 h
  rw [if_neg (Nat.not_le.2 hroom)]
  split at h
  · next hsubmit =>
    cases h
    rw [hsubmit]
    rfl
  · cases h

theorem nxNcopy_does : (nwhen .nxNcopy ncopy).Does := by
  refine nwhen_does (fun _ _ => rfl) fun n s t x h => ?_
  obtain ⟨hgood, h⟩ := guard_bind.1 h
  obtain ⟨c, hchosen, h⟩ := Option.bind_eq_some_iff.1 h
  cases h
  dsimp only at hgood ⊢
  simp only [Bool.and_eq_true] at hgood
  obtain ⟨⟨⟨⟨⟨⟨hdest, hsource⟩, hwhole⟩, hleast⟩, hmost⟩, hwritten⟩, hread⟩ := hgood
  rw [if_neg (by simp only [bulkOk, List.all_cons, List.all_nil, hdest, hsource, hwhole, hleast, hmost, hwritten, hread,
    Bool.and_true, Bool.not_true, Bool.or_false, Bool.false_eq_true, not_false_eq_true])]
  split
  · next hnone =>
    rw [hnone] at hchosen
    cases hchosen
  · next hsome =>
    rw [hsome] at hchosen ⊢
    cases hchosen
    rfl

theorem nxNbuild_does : (nwhen .nxNbuild nbuild).Does := by
  refine nwhen_does (fun _ _ => rfl) fun n s t x h => ?_
  obtain ⟨hgood, h⟩ := guard_bind.1 h
  simp only [Bool.and_eq_true, beq_iff_eq] at hgood
  obtain ⟨⟨⟨hparams, hread⟩, hstatus⟩, hwritten⟩ := hgood
  rw [if_neg (by simp [hparams, hread, hstatus, hwritten])]
  split at h
  · next hbytes =>
    obtain ⟨b, hbuilder, h⟩ := Option.bind_eq_some_iff.1 h
    cases h
    rw [hbytes]
    dsimp only
    rw [hbuilder]
    rfl
  · cases h

theorem nxNwait_does : (nwhen .nxNwait nwait).Does := by
  refine nwhen_does (fun _ _ => rfl) fun n s t x h => ?_
  obtain ⟨hidle, h⟩ := guard_bind.1 h
  cases h
  exact if_pos hidle

theorem nxNdone_does : (nwhen .nxNdone ndone).Does := by
  refine nwhen_does (fun _ _ => rfl) fun n s t x h => ?_
  obtain ⟨hwindow, h⟩ := guard_bind.1 h
  cases h
  rw [if_neg (by simp [hwindow])]
  rfl

/-- HALT ends its command, after RD is in the control block of a class L queue. -/
theorem halt_ends : HaltEnds := by
  intro f s t n hf hq hk hr hstored
  unfold haltStored at hstored
  change execNxHalt f s = _
  refine nibex_done hf hq hk hr ?_
  dsimp only
  split at hstored
  · next hclass =>
    rw [if_pos hclass]
    split at hstored
    · next hstore =>
      cases hstored
      rw [hstore]
    · cases hstored
  · next hclass =>
    cases hstored
    exact if_neg hclass

/-- Settles O17, instruction by instruction: each body goes on to the state and the registers of its row. -/
theorem nibexComplete : Obligations.NibexComplete := by
  refine ⟨?_, halt_ends⟩
  simp only [nibexRows, nibexWorkRows, List.cons_append, List.nil_append, List.forall_mem_cons]
  exact ⟨sets_does fun _ _ => rfl, sets_does fun _ _ => rfl, sets_does fun _ _ => rfl, sets_does fun _ _ => rfl,
    sets_does fun _ _ => rfl, sets_does fun _ _ => rfl, skips_does fun _ _ => rfl, skips_does fun _ _ => rfl,
    skips_does fun _ _ => rfl, djnz_does, nxLdc_does, nxLdm_does, nxStm_does, nxNlaunch_does, nxNcopy_does, nxNbuild_does,
    nxNwait_does, nxNdone_does, List.forall_mem_nil _⟩

end Sys2Proof.Proofs
end

section
/-! Answers to stopped warps, the halt walk, evictions and returns: each event happens as described (18 R400-R413). -/
namespace Sys2Proof.Proofs
open Sys2Proof.Machine Sys2Proof.Safety Sys2Proof.Laws

/-! ### The supervisor's answers (18 R400) -/

theorem supervisorContinue_does : EventRow.Does ⟨.supervisorContinue, continued⟩ := by
  intro s t hrun
  obtain ⟨w, hwarp, hrun⟩ := Option.bind_eq_some_iff.1 hrun
  obtain ⟨hready, hrun⟩ := guard_bind.1 hrun
  simp only [Bool.and_eq_true, Bool.not_eq_true'] at hready
  obtain ⟨⟨⟨⟨hstop, hcontrol⟩, hreply⟩, hmove⟩, htrap⟩ := hready
  rw [Option.isNone_iff_eq_none] at hmove
  change execSupervisorContinue s = _
  unfold execSupervisorContinue
  dsimp only at hrun ⊢
  rw [hwarp]
  dsimp only
  rw [if_neg (by simp [hstop, hcontrol, hreply, htrap]), if_neg (by simp [hmove])]
  by_cases hsaved : savedWid ≤ s.ev.item
  · rw [if_pos hsaved] at hrun ⊢
    cases hrun
    rfl
  rw [if_neg hsaved] at hrun ⊢
  split at hrun
  · cases hrun
  · next hbytes =>
    rw [hbytes]
    dsimp only at hrun ⊢
    split at hrun
    · cases hrun
    · next hmoved =>
      cases hrun
      rw [hmoved]

theorem supervisorHalt_does : EventRow.Does ⟨.supervisorHalt, haltedByTrap⟩ := by
  intro s t hrun
  obtain ⟨w, hwarp, hrun⟩ := Option.bind_eq_some_iff.1 hrun
  obtain ⟨c, hcause, hrun⟩ := Option.bind_eq_some_iff.1 hrun
  obtain ⟨hready, hrun⟩ := guard_bind.1 hrun
  cases hrun
  rw [Bool.and_eq_true] at hready
  change execSupervisorHalt s = _
  unfold execSupervisorHalt
  dsimp only
  rw [hwarp]
  dsimp only
  rw [hcause]
  exact congrArg Host.Outcome.next (if_neg (by simp [hready.1, hready.2]))

/-! ### The halt walk (18 R407) -/

theorem haltSaveComplete_does : EventRow.Does ⟨.haltSaveComplete, walkedOn⟩ := by
  intro s t hrun
  obtain ⟨c, hctx, hrun⟩ := Option.bind_eq_some_iff.1 hrun
  obtain ⟨hready, hrun⟩ := guard_bind.1 hrun
  rw [Bool.and_eq_true] at hready
  obtain ⟨hhalting, hover⟩ := hready
  change execHaltSaveComplete s = _
  unfold execHaltSaveComplete
  dsimp only at hrun ⊢
  rw [hctx]
  dsimp only
  rw [if_neg (by simpa using hhalting)]
  generalize c.haltStep = step at hrun hover ⊢
  refine congrArg Host.Outcome.next (Option.some.inj (Eq.trans ?_ hrun))
  split <;> try exact congrArg some (if_pos hover)
  next h2 h3 h4 h5 h6 =>
    by_cases hlate : 7 ≤ step
    · rw [if_neg (Nat.not_lt.2 hlate), if_pos hlate]
    · rw [if_pos (Nat.lt_of_not_le hlate), if_neg hlate, if_neg h3, if_neg h6]

/-! ### Evictions (18 R410-R412) -/

theorem evictionRequest_does : EventRow.Does ⟨.evictionRequest, evictionAsked⟩ := by
  intro s t hrun
  obtain ⟨l, hlaunch, hrun⟩ := Option.bind_eq_some_iff.1 hrun
  obtain ⟨hmay, hrun⟩ := guard_bind.1 hrun
  obtain ⟨⟨shares, cores⟩, hcores, hrun⟩ := Option.bind_eq_some_iff.1 hrun
  obtain ⟨hnamed, hrun⟩ := guard_bind.1 hrun
  obtain ⟨vs, hvictims, hrun⟩ := Option.bind_eq_some_iff.1 hrun
  cases hrun
  change execEvictionRequest s = _
  unfold execEvictionRequest
  dsimp only
  rw [hlaunch]
  dsimp only
  rw [if_neg (by simp [hmay]), hcores]
  dsimp only
  rw [if_neg (by simp [hnamed]), hvictims]

/-- What keeps the allotment of a victim from its save. -/
theorem allotInUse_eq (s : State) (wid : Nat) (w : Warp) :
    allotInUse s wid w = match s.lastOfTeam wid w with
      | some id => ((AMap.get s.allots id).map fun a =>
          !a.saved && (s.allotBusy id a
            || ((s.moveOf 2 id).isNone && !(a.maps.all fun x => a.readyToWriteBack x.1)))).getD false
        || s.heldBy (.save 2 id)
      | none => false := by
  unfold allotInUse
  cases s.lastOfTeam wid w with
  | none => rfl
  | some id =>
    rw [Option.any_some, Bool.or_comm]
    dsimp only
    cases AMap.get s.allots id <;> rfl

theorem victimSave_does : EventRow.Does ⟨.victimSave, victimSaved⟩ := by
  intro s t hrun
  obtain ⟨w, hwarp, hrun⟩ := Option.bind_eq_some_iff.1 hrun
  obtain ⟨hready, hrun⟩ := guard_bind.1 hrun
  simp only [Bool.and_eq_true, Bool.not_eq_true'] at hready
  obtain ⟨⟨⟨⟨⟨hasked, hquiet⟩, hdraining⟩, hallot⟩, hheld⟩, hgang⟩ := hready
  obtain ⟨htiles, hrun⟩ := guard_bind.1 hrun
  obtain ⟨hsaved, hrun⟩ := guard_bind.1 hrun
  cases hrun
  rw [allotInUse_eq] at hallot
  have hfree : ((s.lastOfGang s.ev.unit w).map fun g => s.heldBy (.save 1 g)).getD false = false := by
    cases hlast : s.lastOfGang s.ev.unit w with
    | none => rfl
    | some g =>
      rw [hlast, Option.all_some, Bool.not_eq_true'] at hgang
      exact hgang
  change execVictimSave s = _
  unfold execVictimSave
  dsimp only
  rw [hwarp]
  dsimp only
  rw [if_neg (by simpa [hquiet, hdraining] using hasked), if_neg]
  · refine congrArg Host.Outcome.next ((if_neg ?_).trans ((if_neg ?_).trans rfl))
    · exact fun h => by rw [Bool.not_eq_true'] at h; exact Bool.noConfusion (h.symm.trans htiles)
    · exact fun h => by rw [Bool.not_eq_true'] at h; exact Bool.noConfusion (h.symm.trans hsaved)
  · rw [hfree, hheld, Bool.or_false, Bool.or_false]
    exact Bool.not_eq_true _ ▸ hallot

/-- The victims that a request names in the place of those let go. -/
theorem chosenAgain_eq (s : State) (e : Evict) (start passed : List Nat) :
    (((AMap.get s.launches e.team).bind fun l => l.evictShares.map fun sh => (l, sh)).bind fun x =>
      s.chooseAll x.1 (e.cores.zip x.2) start passed) = match AMap.get s.launches e.team with
        | none => none
        | some l => l.evictShares.bind fun shares => s.chooseAll l (e.cores.zip shares) start passed := by
  cases AMap.get s.launches e.team with
  | none => rfl
  | some l => exact Option.bind_map

theorem evictionReleaseTimeout_does : EventRow.Does ⟨.evictionReleaseTimeout, victimReleased⟩ := by
  intro s t hrun
  obtain ⟨w, hwarp, hrun⟩ := Option.bind_eq_some_iff.1 hrun
  obtain ⟨e, hrequest, hrun⟩ := Option.bind_eq_some_iff.1 hrun
  obtain ⟨hready, hrun⟩ := guard_bind.1 hrun
  simp only [Bool.and_eq_true, Bool.not_eq_true', decide_eq_true_eq] at hready
  obtain ⟨⟨hasked, hquiet⟩, hdue⟩ := hready
  cases hrun
  change execEvictionReleaseTimeout s = _
  unfold execEvictionReleaseTimeout
  dsimp only
  rw [hwarp, hrequest]
  dsimp only
  rw [if_neg (by simpa [hquiet, Nat.not_lt.2 hdue] using hasked)]
  rw [chosenAgain_eq]
  rfl

/-! ### Returns (18 R413) -/

theorem coreKept_eq (s : State) (x : Saved) : coreKept s x = match x with
    | .warp _ c _ _ => s.evicts.any fun e => !e.ended && e.cores.contains c && s.waitingLaunches.any fun l => l.1 == e.team
    | _ => false := by
  cases x <;> rfl

theorem warpResume_does : EventRow.Does ⟨.warpResume, resumed⟩ := by
  intro s t hrun
  obtain ⟨x, hsaved, hrun⟩ := Option.bind_eq_some_iff.1 hrun
  obtain ⟨ctx, howner, hrun⟩ := Option.bind_eq_some_iff.1 hrun
  obtain ⟨c, hctx, hrun⟩ := Option.bind_eq_some_iff.1 hrun
  obtain ⟨hready, hrun⟩ := guard_bind.1 hrun
  simp only [Bool.and_eq_true, Bool.not_eq_true'] at hready
  obtain ⟨⟨⟨hruns, hturn⟩, hheld⟩, hkept⟩ := hready
  have hrunning : s.ctxRunning ctx = true := by rw [State.ctxRunning, hctx]; exact hruns
  cases hrun
  change execWarpResume s = _
  unfold execWarpResume
  dsimp only
  rw [hsaved]
  dsimp only
  rw [howner]
  cases x <;>
  · unfold heldRestore at hheld
    unfold coreKept at hkept
    dsimp only at hheld hkept ⊢
    rw [if_neg (by simp only [hrunning, hturn, hheld, hkept]; decide)]
    rfl

/-- Settles O22: each of these events does what its description says. -/
theorem contextEvents : Obligations.ContextEvents := by
  simp only [Obligations.ContextEvents, EventsDo, Safety.contextEvents, List.forall_mem_cons]
  exact ⟨supervisorContinue_does, supervisorHalt_does, haltSaveComplete_does, evictionRequest_does, victimSave_does,
    evictionReleaseTimeout_does, warpResume_does, List.forall_mem_nil _⟩

end Sys2Proof.Proofs
end

section
/-! Accesses of peers and the mailbox window: each event happens as described (13 R316-R318, 19 R421-R423, R431-R433). -/
namespace Sys2Proof.Proofs
open Sys2Proof.Machine Sys2Proof.Safety Sys2Proof.Laws

/-! ### Accesses of peers (13 R318, 19 R421) -/

theorem peerLinkRead_does : EventRow.Does ⟨.peerLinkRead, Safety.peerRead⟩ := by
  intro s t hrun
  unfold Safety.peerRead at hrun
  change execPeerLinkRead s = _
  unfold execPeerLinkRead
  dsimp only at hrun ⊢
  by_cases hregister : s.inRegisters s.linkAddress = true
  · rw [if_pos hregister] at hrun ⊢
    cases hrun
    rfl
  rw [if_neg hregister] at hrun ⊢
  obtain ⟨hready, hrun⟩ := guard_bind.1 hrun
  rw [Bool.and_eq_true, Bool.not_eq_true'] at hready
  obtain ⟨hreach, hwaits⟩ := hready
  cases hrun
  rw [if_neg (by simp [hreach]), if_neg (by simp [hwaits])]

theorem peerLinkWrite_does : EventRow.Does ⟨.peerLinkWrite, Safety.peerWrite⟩ := by
  intro s t hrun
  unfold Safety.peerWrite at hrun
  change execPeerLinkWrite s = _
  unfold execPeerLinkWrite
  dsimp only at hrun ⊢
  by_cases hregister : s.inRegisters s.linkAddress = true
  · rw [if_pos hregister] at hrun ⊢
    cases hrun
    rfl
  rw [if_neg hregister] at hrun ⊢
  obtain ⟨hready, hrun⟩ := guard_bind.1 hrun
  simp only [Bool.and_eq_true, Bool.not_eq_true'] at hready
  obtain ⟨⟨hreach, haligned⟩, hwaits⟩ := hready
  obtain ⟨⟨u, old, time⟩, hlines, hrun⟩ := Option.bind_eq_some_iff.1 hrun
  cases hrun
  rw [if_neg (by simp [hreach, haligned]), if_neg (by simp [hwaits]), hlines]

theorem registerSpaceError_does : EventRow.Does (whenever .registerSpaceError
    (fun s => s.inRegisters s.linkAddress && if s.ev.word = 0
      then !regReadOk (localOf s.linkAddress) s.ev.third else !regWriteOk (localOf s.linkAddress) s.ev.third)
    (fun s => s.refusePeer s.peerId)) := by
  refine whenever_does fun s hbad => congrArg Host.Outcome.next (if_pos ?_)
  rw [Bool.and_eq_true] at hbad
  rw [State.regBad, Bool.and_eq_true]
  refine ⟨hbad.1, ?_⟩
  split at hbad
  · next hread => rw [if_pos hread]; exact hbad.2
  · next hwrite => rw [if_neg hwrite]; exact hbad.2

/-! ### The mailbox (19 R422) -/

/-- A lapsed claim changes nothing of the access that finds it so. -/
theorem lapsed_ev (s : State) : s.lapsed.ev = s.ev := by
  unfold State.lapsed
  split <;> rfl

theorem lapsed_peerId (s : State) : s.lapsed.peerId = s.peerId := by
  unfold State.peerId
  rw [lapsed_ev]

theorem mbxClaim_does : EventRow.Does ⟨.mbxClaim, claimed⟩ := by
  intro s t hrun
  obtain ⟨hidle, hrun⟩ := guard_bind.1 hrun
  change Host.Outcome.next (s.lapsed.claim s.peerId) = _
  unfold State.claim
  rw [if_neg (by simpa using hidle), ← lapsed_peerId]
  exact congrArg Host.Outcome.next (Option.some.inj hrun)

theorem mbxSubmit_does : EventRow.Does ⟨.mbxSubmit, submitted⟩ := by
  intro s t hrun
  obtain ⟨hheld, hrun⟩ := guard_bind.1 hrun
  cases hrun
  change Host.Outcome.next ((s.lapsed.submitRequest s.peerId s.ev.item).post ⟨s.peerId, 2, []⟩) = _
  unfold State.submitRequest
  rw [← lapsed_peerId, ← lapsed_ev, if_pos hheld]

theorem mbxNext_does : EventRow.Does ⟨.mbxNext, nextGiven⟩ := by
  intro s t hrun
  obtain ⟨hheld, hrun⟩ := guard_bind.1 hrun
  cases hrun
  change Host.Outcome.next ((s.lapsed.nextSegment s.peerId s.ev.item).post ⟨s.peerId, 2, []⟩) = _
  unfold State.nextSegment
  rw [← lapsed_peerId, ← lapsed_ev]
  dsimp only
  rw [if_pos hheld]

theorem mbxRelease_does : EventRow.Does ⟨.mbxRelease, claimReleased⟩ := by
  intro s t hrun
  obtain ⟨hheld, hrun⟩ := guard_bind.1 hrun
  cases hrun
  change Host.Outcome.next ((s.lapsed.releaseClaim s.peerId s.ev.item).post ⟨s.peerId, 2, []⟩) = _
  unfold State.releaseClaim
  rw [← lapsed_peerId, ← lapsed_ev, if_pos hheld]

theorem claimLapse_does : EventRow.Does (whenever .claimLapse State.claimLapsed fun s => s.modMbx Mailbox.idle) :=
  whenever_does fun _ hlapsed => congrArg Host.Outcome.next (if_pos hlapsed)

/-- Settles O23: each of these events does what its description says. -/
theorem peerEvents : Obligations.PeerEvents := by
  simp only [Obligations.PeerEvents, EventsDo, Safety.peerEvents, List.forall_mem_cons]
  exact ⟨peerLinkRead_does, peerLinkWrite_does, registerSpaceError_does, mbxClaim_does, mbxSubmit_does, mbxNext_does,
    mbxRelease_does, claimLapse_does, List.forall_mem_nil _⟩

end Sys2Proof.Proofs
end

section
/-! Requests to the supervisor: each is answered as described (19 R418-R427). -/
namespace Sys2Proof.Proofs
open Sys2Proof.Machine Sys2Proof.Safety Sys2Proof.Laws

/-! ### The request that is served (19 R419, R424) -/

/-- The request of a description is the one that is served. -/
theorem serve_serving {s t : State} {code : Nat} {r : Req} (h : serving s code = some (t, r)) (f : State → Req → State) :
    s.serve code f = f t r := by
  obtain ⟨hready, h⟩ := guard_bind.1 h
  cases h
  exact if_pos hready

theorem serveCtx_serving {s t : State} {code : Nat} {r : Req} {c : Ctx} (h : servingCtx s code = some (t, r, c))
    (f : State → Req → Ctx → State) : s.serveCtx code f = f t r c := by
  obtain ⟨⟨u, x⟩, hserving, h⟩ := Option.bind_eq_some_iff.1 h
  obtain ⟨d, hctx, h⟩ := Option.bind_eq_some_iff.1 h
  obtain ⟨hallowed, h⟩ := guard_bind.1 h
  cases h
  unfold State.serveCtx
  rw [serve_serving hserving, hctx]
  refine if_neg ?_
  rw [Bool.and_eq_true, Bool.or_eq_true] at hallowed
  rw [Bool.or_eq_true, Bool.and_eq_true]
  rintro (howner | ⟨hdestroying, hcode⟩)
  · exact bne_iff_ne.1 howner (beq_iff_eq.1 hallowed.1)
  · rcases hallowed.2 with hstate | hdestroy
    · exact bne_iff_ne.1 hstate (beq_iff_eq.1 hdestroying)
    · exact bne_iff_ne.1 hcode (beq_iff_eq.1 hdestroy)

theorem modMbx_ev (s : State) (f : Mailbox → Mailbox) : (s.modMbx f).ev = s.ev := rfl

/-- The examination of a request leaves the event's arguments. -/
theorem vet_ev (s : State) : s.vet.ev = s.ev := by
  unfold State.vet
  dsimp only
  split
  · rfl
  split
  · rfl
  split
  · rfl
  split <;> rfl

theorem serving_ev {s t : State} {code : Nat} {r : Req} (h : serving s code = some (t, r)) : t.ev = s.ev := by
  obtain ⟨hready, h⟩ := guard_bind.1 h
  cases h
  exact vet_ev s

/-! ### CREATE (19 R424, R430) -/

/-- Not all context numbers are taken while one is free. -/
theorem not_all_ctxs_taken {s : State} {n : Nat} (hn : n < 64) (hfree : (AMap.get s.ctxs n).isNone = true) :
    ¬ ((List.range 64).all fun c => (AMap.get s.ctxs c).isSome) = true := by
  intro h
  have htaken := List.all_eq_true.1 h n (List.mem_range.2 hn)
  rw [Option.isNone_iff_eq_none.1 hfree] at htaken
  cases htaken

theorem reqCreate_does : EventRow.Does ⟨.reqCreate, created⟩ := by
  intro s t hrun
  obtain ⟨⟨v, r⟩, hserving, hrun⟩ := Option.bind_eq_some_iff.1 hrun
  obtain ⟨hasked, hrun⟩ := guard_bind.1 hrun
  obtain ⟨hnumber, hrun⟩ := guard_bind.1 hrun
  obtain ⟨hmemory, hrun⟩ := guard_bind.1 hrun
  obtain ⟨⟨u, left, pages⟩, hpools, hrun⟩ := Option.bind_eq_some_iff.1 hrun
  have hev := serving_ev hserving
  simp only [Bool.and_eq_true, Bool.not_eq_true', decide_eq_true_eq, beq_iff_eq] at hasked hnumber hmemory
  obtain ⟨⟨⟨hlen, hsome⟩, hmost⟩, hmajors⟩ := hasked
  obtain ⟨⟨hn, hunused⟩, hnums⟩ := hnumber
  obtain ⟨⟨⟨hapart, haligned⟩, hbytes⟩, htables⟩ := hmemory
  cases hrun
  change Host.Outcome.next _ = Host.Outcome.next _
  rw [serve_serving hserving]
  dsimp only
  rw [hev, if_neg (by simp [hlen]; omega), if_neg (by simp [hmajors]), if_neg (not_all_ctxs_taken hn hunused),
    if_neg (by simp [hnums]), if_neg (by simp [hn, hapart, haligned, hbytes, htables, Option.isNone_iff_eq_none.1 hunused]), hpools]
  rfl

/-! ### MAP and UNMAP (14 R326, 19 R424) -/

/-- A range that MAP's description takes is none that the request is refused for. -/
theorem unmappable {va n bytes : Nat} {pages : List (Nat × Nat × Nat × Nat)}
    (h : (va % bytes == 0 && n % bytes == 0 && canonical (BitVec.ofNat 64 va) && decide (va + n ≤ 2 ^ 64)
      && canonical (BitVec.ofNat 64 (va + n - 1)) && (decide (va < 2 ^ 56) == decide (va + n - 1 < 2 ^ 56))
      && pages.all fun x => !overlap (va % 2 ^ 57) n x.1 x.2.1) = true) :
    ¬ (va % bytes != 0 || n % bytes != 0 || !canonical (BitVec.ofNat 64 va) || decide (2 ^ 64 < va + n)
        || !canonical (BitVec.ofNat 64 (va + n - 1)) || (decide (va < 2 ^ 56) != decide (va + n - 1 < 2 ^ 56))
        || (pages.any fun (w, len, _, _) => overlap (va % 2 ^ 57) n w len)) = true := by
  rw [List.all_eq_not_any_not] at h
  simp only [Bool.not_not, Bool.and_eq_true, Bool.not_eq_true', beq_iff_eq, decide_eq_true_eq] at h
  obtain ⟨⟨⟨⟨⟨⟨hva, hn⟩, hfirst⟩, hend⟩, hlast⟩, hhalf⟩, hpages⟩ := h
  have hfits : decide (2 ^ 64 < va + n) = false := decide_eq_false (Nat.not_lt.2 hend)
  have hapart : (pages.any fun (w, len, _, _) => overlap (va % 2 ^ 57) n w len) = false := hpages
  simp only [hva, hn, hfirst, hfits, hlast, hhalf, hapart, bne_self_eq_false, Bool.not_true, Bool.or_false, Bool.false_eq_true,
    not_false_eq_true]

theorem reqMap_does : EventRow.Does ⟨.reqMap, mapped⟩ := by
  intro s t hrun
  obtain ⟨⟨v, r, c⟩, hserving, hrun⟩ := Option.bind_eq_some_iff.1 hrun
  obtain ⟨hasked, hrun⟩ := guard_bind.1 hrun
  obtain ⟨hrange, hrun⟩ := guard_bind.1 hrun
  obtain ⟨hplace, hrun⟩ := guard_bind.1 hrun
  obtain ⟨hheld, hrun⟩ := guard_bind.1 hrun
  obtain ⟨⟨u, left⟩, hmapped, hrun⟩ := Option.bind_eq_some_iff.1 hrun
  cases hrun
  change Host.Outcome.next _ = Host.Outcome.next _
  rw [serveCtx_serving hserving]
  dsimp only at hasked hrange hplace hheld hmapped ⊢
  simp only [Bool.and_eq_true, decide_eq_true_eq, beq_iff_eq, bne_iff_ne] at hasked
  obtain ⟨⟨⟨⟨⟨hlen, hflags⟩, hsize⟩, hread⟩, hwrite⟩, hsome⟩ := hasked
  obtain ⟨hchosen, haligned⟩ := (Bool.and_eq_true _ _).mp hplace
  replace hchosen := bne_iff_ne.1 hchosen
  replace haligned := beq_iff_eq.1 haligned
  rw [if_neg (by simp [hlen, hread, hsome]; omega), if_neg (unmappable hrange)]
  by_cases hfresh : (r.field 0x18 8 == 2 ^ 64 - 1) = true
  · simp only [hfresh, if_true, Bool.and_eq_true] at hchosen haligned hheld hmapped ⊢
    rw [if_neg fun h => hchosen (beq_iff_eq.1 h.2), if_neg (by simp), if_neg (by simp [haligned, hheld.1, hheld.2]), hmapped]
  · rw [Bool.not_eq_true] at hfresh
    simp only [hfresh, Bool.false_eq_true, if_false, Bool.and_eq_true] at hchosen haligned hheld hmapped ⊢
    rw [if_neg (by simp), if_neg (by rw [hheld.2]; simp [haligned]), if_neg (by simp [hheld.1]), hmapped]

/-- Ranges cut at their pages' boundaries alone are none that UNMAP is refused for. -/
theorem cuts_no_page {lo hi : Nat × Nat × Nat × Nat → Nat} {hit : List (Nat × Nat × Nat × Nat)}
    (h : (hit.all fun x => lo x == 0 && hi x == 0) = true) : (hit.any fun x => lo x != 0 || hi x != 0) = false := by
  rw [List.any_eq_false]
  intro x hx
  have hcut := List.all_eq_true.1 h x hx
  rw [Bool.and_eq_true, beq_iff_eq, beq_iff_eq] at hcut
  simp [hcut]

theorem reqUnmap_does : EventRow.Does ⟨.reqUnmap, unmapped⟩ := by
  intro s t hrun
  obtain ⟨⟨v, r, c⟩, hserving, hrun⟩ := Option.bind_eq_some_iff.1 hrun
  obtain ⟨hrange, hrun⟩ := guard_bind.1 hrun
  obtain ⟨hwhole, hrun⟩ := guard_bind.1 hrun
  simp only [Bool.and_eq_true, beq_iff_eq] at hrange
  obtain ⟨⟨⟨hlen, hbase⟩, hbytes⟩, hcanonical⟩ := hrange
  change Host.Outcome.next _ = Host.Outcome.next _
  rw [serveCtx_serving hserving]
  dsimp only at hwhole hrun ⊢
  rw [if_neg (by simp [hlen]), if_neg]
  · split at hrun
    · next hnone =>
      obtain ⟨hplaced, hrun⟩ := guard_bind.1 hrun
      cases hrun
      rw [if_pos hnone, if_neg (by simpa using hplaced)]
    · next hsome =>
      cases hrun
      rw [if_neg hsome]
  · rw [hbase, hbytes, hcanonical]
    exact Bool.not_eq_true _ ▸ cuts_no_page hwhole

/-! ### QUEUE (17 R374, R382, 19 R424) -/

/-- Not all queue numbers are taken while one is free. -/
theorem not_all_queues_taken {s : State} {chosen : Bool} {q : Nat} (hq : q < 256) (hfree : s.queueFree q = true) :
    ¬ (chosen && (List.range 256).all fun q => !s.queueFree q) = true := by
  intro h
  have htaken := List.all_eq_true.1 ((Bool.and_eq_true _ _).mp h).2 q (List.mem_range.2 hq)
  rw [hfree] at htaken
  cases htaken

theorem reqQueueCreate_does : EventRow.Does ⟨.reqQueueCreate, queueCreated⟩ := by
  intro s t hrun
  obtain ⟨⟨v, r, c⟩, hserving, hrun⟩ := Option.bind_eq_some_iff.1 hrun
  obtain ⟨hasked, hrun⟩ := guard_bind.1 hrun
  simp only [Bool.and_eq_true, decide_eq_true_eq] at hasked
  obtain ⟨⟨⟨⟨hlen, hcreate⟩, hnumber⟩, hfree⟩, hlimits⟩ := hasked
  change Host.Outcome.next _ = Host.Outcome.next _
  rw [serveCtx_serving hserving]
  dsimp only at hrun ⊢
  rw [if_neg (by simp [beq_iff_eq.1 hcreate]), if_neg (by simp [bne, hlen, hcreate])]
  generalize ite ((r.field 8 8 == 2 ^ 64 - 1) = true) _ _ = q at hfree hnumber hrun ⊢
  rw [if_neg (not_all_queues_taken hnumber hfree), if_neg (by simp [hfree, hnumber]), if_neg (by simp [hfree, hnumber, hlimits])]
  rcases hread : v.readVirt [] r.ctx (BitVec.ofNat 64 (r.field 0x70 8)) (4 * r.field 0x14 4) .read with ⟨u, e | bs⟩
  · rw [hread] at hrun
    cases hrun
  rw [hread] at hrun
  obtain ⟨hverified, hrun⟩ := guard_bind.1 hrun
  dsimp only
  rw [if_neg (by simp [hverified])]
  rcases hring : u.writeVirt [] r.ctx (BitVec.ofNat 64 (r.field 0x20 8)) (List.replicate (64 * 2 ^ r.field 0x11 1) 0)
    with ⟨x, _ | e⟩
  · rw [hring] at hrun
    exact congrArg Host.Outcome.next (Option.some.inj hrun)
  · rw [hring] at hrun
    cases hrun

theorem reqQueueDestroy_does : EventRow.Does ⟨.reqQueueDestroy, queueDestroyed⟩ := by
  intro s t hrun
  obtain ⟨⟨v, r, c⟩, hserving, hrun⟩ := Option.bind_eq_some_iff.1 hrun
  obtain ⟨hasked, hrun⟩ := guard_bind.1 hrun
  obtain ⟨k, hlive, hrun⟩ := Option.bind_eq_some_iff.1 hrun
  obtain ⟨hown, hrun⟩ := guard_bind.1 hrun
  rw [Bool.and_eq_true, beq_iff_eq, beq_iff_eq] at hasked
  cases hrun
  change Host.Outcome.next _ = Host.Outcome.next _
  rw [serveCtx_serving hserving]
  dsimp only
  rw [if_neg (by simp [hasked.2]), if_neg (by simp [hasked.1]), hlive]
  exact congrArg Host.Outcome.next (if_neg (by simpa using hown))

/-! ### HALT, RESUME, ATTEST and DESTROY (18 R413, R414, 19 R418, R419) -/

theorem reqHalt_does : EventRow.Does ⟨.reqHalt, haltAsked⟩ := by
  intro s t hrun
  obtain ⟨⟨v, r, c⟩, hserving, hrun⟩ := Option.bind_eq_some_iff.1 hrun
  obtain ⟨hempty, hrun⟩ := guard_bind.1 hrun
  cases hrun
  change Host.Outcome.next _ = Host.Outcome.next _
  rw [serveCtx_serving hserving]
  exact congrArg Host.Outcome.next (if_neg (by simpa using hempty))

theorem reqResume_does : EventRow.Does ⟨.reqResume, resumeAsked⟩ := by
  intro s t hrun
  obtain ⟨⟨v, r, c⟩, hserving, hrun⟩ := Option.bind_eq_some_iff.1 hrun
  obtain ⟨hready, hrun⟩ := guard_bind.1 hrun
  rw [Bool.and_eq_true] at hready
  cases hrun
  change Host.Outcome.next _ = Host.Outcome.next _
  rw [serveCtx_serving hserving, if_neg (by simpa using hready.1), if_neg (by simpa using hready.2)]

theorem reqAttest_does : EventRow.Does ⟨.reqAttest, attested⟩ := by
  intro s t hrun
  obtain ⟨⟨v, r⟩, hserving, hrun⟩ := Option.bind_eq_some_iff.1 hrun
  obtain ⟨hlen, hrun⟩ := guard_bind.1 hrun
  cases hrun
  change Host.Outcome.next _ = Host.Outcome.next _
  rw [serve_serving hserving]
  exact congrArg Host.Outcome.next (if_neg (by simpa using hlen))

theorem reqDestroy_does : EventRow.Does ⟨.reqDestroy, destroyed⟩ := by
  intro s t hrun
  obtain ⟨⟨v, r, c⟩, hserving, hrun⟩ := Option.bind_eq_some_iff.1 hrun
  obtain ⟨hempty, hrun⟩ := guard_bind.1 hrun
  change Host.Outcome.next _ = Host.Outcome.next _
  rw [serveCtx_serving hserving]
  rw [if_neg (by simpa using hempty)]
  cases hstate : c.state with
  | running | halted | destroying =>
    rw [hstate] at hrun
    cases hrun
    rfl
  | free | halting | frozen =>
    rw [hstate] at hrun
    cases hrun

/-- Settles O24: each of these events does what its description says. -/
theorem supervisorRequests : Obligations.SupervisorRequests := by
  simp only [Obligations.SupervisorRequests, EventsDo, requestEvents, List.forall_mem_cons]
  exact ⟨reqCreate_does, reqMap_does, reqUnmap_does, reqQueueCreate_does, reqQueueDestroy_does, reqHalt_does, reqResume_does,
    reqAttest_does, reqDestroy_does, List.forall_mem_nil _⟩

end Sys2Proof.Proofs
end

section
/-! A trap records its four values and goes where its context routes it (18 R398-R400, R407). -/
namespace Sys2Proof.Proofs
open Sys2Proof.Machine Sys2Proof.Safety Sys2Proof.Laws

/-! ### What a write to a save area keeps of the trap queues (18 R392, R400) -/

/-- The contexts and the trap queues of the dies are the same. -/
structure SameRoutes (s t : State) : Prop where
  ctxs : t.ctxs = s.ctxs
  traps : ∀ d : Nat, (t.dies[d]?).map (·.traps) = (s.dies[d]?).map (·.traps)

namespace SameRoutes

theorem refl (s : State) : SameRoutes s s := ⟨rfl, fun _ => rfl⟩

theorem trans {s t u : State} (hst : SameRoutes s t) (htu : SameRoutes t u) : SameRoutes s u :=
  ⟨htu.ctxs.trans hst.ctxs, fun d => (htu.traps d).trans (hst.traps d)⟩

end SameRoutes

theorem OnlyAccess.sameRoutes {s t : State} (h : OnlyAccess s t) : SameRoutes s t := by
  unfold OnlyAccess at h
  rw [h]
  exact ⟨rfl, fun _ => rfl⟩

/-- A change of a die that leaves its trap queue. -/
theorem modDie_sameRoutes (s : State) (k : Nat) {g : Die → Die} (hg : ∀ x, (g x).traps = x.traps) :
    SameRoutes s (s.modDie k g) := by
  refine ⟨rfl, fun d => ?_⟩
  rw [State.modDie, List.getElem?_modify]
  cases s.dies[d]? with
  | none => rfl
  | some x =>
    refine congrArg some ?_
    dsimp only
    split
    · exact hg x
    · rfl

theorem fillTlb_sameRoutes (s : State) (e : TlbEntry) (t : Nat) : SameRoutes s (s.fillTlb e t) := by
  unfold State.fillTlb State.setTlb
  split
  · exact ⟨rfl, fun _ => rfl⟩
  · split
    · exact ⟨rfl, fun _ => rfl⟩
    · split
      · exact ⟨rfl, fun _ => rfl⟩
      · split
        · exact modDie_sameRoutes _ _ fun _ => rfl
        · exact modDie_sameRoutes _ _ fun _ => rfl

theorem fillTlbs_sameRoutes (e : TlbEntry) (chain : List Nat) (s : State) :
    SameRoutes s (chain.foldl (fun s t => s.fillTlb e t) s) := by
  induction chain generalizing s with
  | nil => exact .refl s
  | cons t chain ih => exact (fillTlb_sameRoutes s e t).trans (ih _)

theorem leaf_sameRoutes (s : State) (chain : List Nat) (ctx : Nat) (va : Word) : SameRoutes s (s.leaf chain ctx va).1 := by
  unfold State.leaf
  dsimp only
  split
  · exact .refl s
  · split
    · exact fillTlbs_sameRoutes _ chain s
    · split
      · exact fillTlbs_sameRoutes _ chain s
      · exact .refl s

theorem translate_sameRoutes (s : State) (chain : List Nat) (ctx : Nat) (va : Word) (acc : Acc) :
    SameRoutes s (s.translate chain ctx va acc).1 := by
  have hleaf := leaf_sameRoutes s chain ctx va
  unfold State.translate
  split
  · next hs => rwa [hs] at hleaf
  · next hs =>
    rw [hs] at hleaf
    dsimp only
    split
    · exact hleaf
    · split <;> exact hleaf

theorem reach_sameRoutes (s : State) (chain : List Nat) (ctx : Nat) (va : Word) (n : Nat) (acc : Acc) :
    SameRoutes s (s.reach chain ctx va n acc).1 := by
  have htranslate := translate_sameRoutes s chain ctx va acc
  unfold State.reach
  split
  · next hs => rwa [hs] at htranslate
  · next hs =>
    rw [hs] at htranslate
    split <;> exact htranslate

theorem untimedWrite_only (s : State) (pa : Nat) (bs : List Byte) : OnlyAccess s (s.untimedWrite pa bs) :=
  ((fillLine_only ..).trans (closeOver_only ..)).trans (rawStore_only ..)

theorem writeSectors_sameRoutes (chain : List Nat) (ctx : Nat) (xs : List (Word × List Byte)) (s : State) :
    SameRoutes s (writeSectors chain ctx xs s).1 := by
  induction xs generalizing s with
  | nil => exact .refl s
  | cons x xs ih =>
    obtain ⟨va, bs⟩ := x
    have hreach := reach_sameRoutes s chain ctx va bs.length .readWrite
    unfold writeSectors
    split
    · next hs => rwa [hs] at hreach
    · next hs =>
      rw [hs] at hreach
      exact hreach.trans ((untimedWrite_only ..).sameRoutes.trans (ih _))

theorem dropMove_sameRoutes (s : State) (what id : Nat) : SameRoutes s (s.dropMove what id) := by
  unfold State.dropMove
  split <;> exact ⟨rfl, fun _ => rfl⟩

theorem sendOut_sameRoutes (s : State) (chain : List Nat) (ctx what id : Nat) (base : Word) (ps : List (Nat × List Byte))
    (regs : List Nat) : SameRoutes s (s.sendOut chain ctx what id base ps regs).1 := by
  unfold State.sendOut
  dsimp only
  split
  · next hs => exact ((congrArg (SameRoutes s ·.1) hs).mp (writeSectors_sameRoutes chain ctx _ s)).trans (dropMove_sameRoutes ..)
  · next hs => exact ((congrArg (SameRoutes s ·.1) hs).mp (writeSectors_sameRoutes chain ctx _ s)).trans ⟨rfl, fun _ => rfl⟩

theorem recordFault_sameRoutes {s t : State} {die ctx unit : Nat} {acc : Acc} {k : FaultKind} {va : Word} {held : Held}
    (h : s.recordFault die ctx unit acc k va held = some t) : SameRoutes s t := by
  unfold State.recordFault at h
  split at h
  · cases h
  · split at h
    · cases h
      exact .refl s
    · split at h
      · cases h
        exact modDie_sameRoutes _ _ fun _ => rfl
      · cases h

/-- The write of a stopped warp's control part changes neither a context nor a trap queue. -/
theorem saveControl_sameRoutes (s : State) (wid : Nat) : SameRoutes s (s.saveControl wid) := by
  unfold State.saveControl
  split
  · exact .refl s
  · next w hw =>
    have hsend := sendOut_sameRoutes s [tlbCluster (clusterOf wid)] w.ctx 6 wid (s.saveBase w)
      (w.controlPieces (s.entriesOf wid).length ++ w.sourcePieces (s.entriesOf wid)) []
    dsimp only
    split
    · next hs => rwa [hs] at hsend
    · next t va k hs =>
      rw [hs] at hsend
      cases hfault : t.recordFault (dieOf wid) w.ctx 7 .readWrite k va (.control wid) with
      | none => exact hsend
      | some u => exact hsend.trans (recordFault_sameRoutes hfault)

/-! ### The routes (18 R398 step 3) -/

/-- The warp with the four values of a trap recorded, and the search at its PC given up. -/
def trapped (w : Warp) (c : Cause) (mask : Mask) (info tepc : Word) : Warp :=
  { w with
    tcause := BitVec.ofNat 64 c.code, tmask := mask, tepc := tepc, tinfo := info
    search := w.search.filter fun x => x.1 != tepc }

section
variable {s : State} {wid : Nat} {w : Warp} {k : Ctx} (hw : s.warp? wid = some w) (hk : AMap.get s.ctxs w.ctx = some k)
include hw hk

theorem takeTrap_eq (c : Cause) (bundle mask : Mask) (info tepc : Word) :
    s.takeTrap wid c bundle mask info tepc =
      if w.handler then
        (s.setWarp wid ((trapped w c mask info tepc).stopped (k.state != .running))).haltCtx w.ctx .double info (some w.saveIdx)
      else if routed k.deleg c && w.hvec != 0 then s.setWarp wid ((trapped w c mask info tepc).enterHandler bundle)
      else if routed k.supv c then
        ((s.setWarp wid { trapped w c mask info tepc with stop := true }).modDie (dieOf wid) fun d =>
          { d with traps := d.traps ++ [⟨w.ctx, wid, w.saveIdx, BitVec.ofNat 64 c.code, info⟩] }).saveControl wid
      else
        (s.setWarp wid ((trapped w c mask info tepc).stopped (k.state != .running))).haltCtx w.ctx c info (some w.saveIdx) := by
  unfold State.takeTrap
  rw [hw]
  dsimp only
  rw [hk]
  rfl

end

theorem setWarp_warp?_self (s : State) (wid : Nat) (w : Warp) : (s.setWarp wid w).warp? wid = some w :=
  AMap.get_set_self ..

theorem setWarp_warp?_ne (s : State) {wid x : Nat} (w : Warp) (h : x ≠ wid) : (s.setWarp wid w).warp? x = s.warp? x :=
  AMap.get_set_ne _ _ h

/-- A context that has not been halted takes the cause; any other keeps what it has. -/
theorem haltCtx_haltedBy {s : State} {ctx : Nat} {k : Ctx} (h : AMap.get s.ctxs ctx = some k) (c : Cause) (info : Word)
    (who : Option Nat) : ∃ k', AMap.get (s.haltCtx ctx c info who).ctxs ctx = some k' ∧ haltedBy s k k' c info who := by
  refine ⟨_, (AMap.get_modify_self ..).trans (congrArg (Option.map _) h), ?_⟩
  unfold haltedBy
  dsimp only
  by_cases hruns : k.state = .running
  · rw [if_pos hruns, if_pos (beq_iff_eq.2 hruns)]
    cases who <;> rfl
  · rw [if_neg hruns, if_neg (by simpa using hruns)]

theorem enterHandler_lane {w : Warp} {bundle : Mask} {l : Nat} {x : Lane} (h : w.lanes[l]? = some x) :
    ∃ y : Lane, (w.enterHandler bundle).lanes[l]? = some y ∧ if bundle.has l then enters w x y else y = x := by
  have hlane : (w.lanes.zipIdx)[l]? = some (x, l) := by rw [List.getElem?_zipIdx, h, Option.map_some, Nat.zero_add]
  refine ⟨_, by rw [Warp.enterHandler, Warp.modLanes, List.getElem?_map, hlane, Option.map_some], ?_⟩
  dsimp only
  split
  · exact ⟨rfl, rfl, rfl, rfl⟩
  · rfl

/-- A trap that halts its context, by its own cause or by DOUBLE: the warp with its four values, the halt, and nothing else. -/
theorem halting_trap {s : State} {wid : Nat} {w : Warp} {k : Ctx} (hk : AMap.get s.ctxs w.ctx = some k) (c c' : Cause) (mask : Mask)
    (info tepc : Word) :
    let t := (s.setWarp wid ((trapped w c mask info tepc).stopped (k.state != .running))).haltCtx w.ctx c' info (some w.saveIdx)
    ∃ w', t.warp? wid = some w' ∧ recorded w' c mask info tepc
      ∧ (∃ k', AMap.get t.ctxs w.ctx = some k' ∧ haltedBy s k k' c' info (some w.saveIdx))
      ∧ (∀ x, x ≠ wid → t.warp? x = s.warp? x) ∧ t = { s with warps := t.warps, ctxs := t.ctxs } :=
  ⟨_, setWarp_warp?_self .., ⟨rfl, rfl, rfl, rfl⟩, haltCtx_haltedBy hk c' info (some w.saveIdx),
    fun _ hx => setWarp_warp?_ne s _ hx, rfl⟩

/-- A trap left to the supervisor: the warp stands at it, and its record joins its die's queue. -/
theorem posted_postedIn (s : State) (wid : Nat) (w : Warp) (x : TrapRec) :
    postedIn s ((s.setWarp wid w).modDie (dieOf wid) fun d => { d with traps := d.traps ++ [x] }) wid x := by
  refine ⟨rfl, fun d => ?_⟩
  rw [State.modDie, List.getElem?_modify, State.setWarp_dies]
  cases s.dies[d]? with
  | none => rfl
  | some y =>
    refine congrArg some ?_
    dsimp only
    by_cases hdie : dieOf wid = d
    · rw [if_pos hdie, if_pos hdie.symm]
    · rw [if_neg hdie, if_neg (Ne.symm hdie)]

/-- Settles O40, route by route: the route that is taken gives what is claimed of it, and the frame with it. -/
theorem trapsAreRecordedAndRouted : Obligations.TrapsAreRecordedAndRouted := by
  intro s wid c bundle mask info tepc w k hw _ hk
  rw [takeTrap_eq hw hk]
  unfold Routed
  by_cases hhandler : w.handler = true
  · obtain ⟨w', hwarp, hrecorded, hhalted, hothers, hframe⟩ := halting_trap (wid := wid) hk c .double mask info tepc
    simp only [if_pos hhandler]
    refine ⟨w', hwarp, hrecorded, hhalted, hothers, ?_⟩
    rw [if_neg fun h => Bool.noConfusion (hhandler.symm.trans h.1)]
    exact hframe
  have huser : w.handler = false := Bool.not_eq_true _ ▸ hhandler
  simp only [if_neg hhandler]
  by_cases hdeleg : k.deleg.getLsbD c.code = true ∧ w.hvec ≠ 0
  · have hrouted : (routed k.deleg c && w.hvec != 0) = true := (Bool.and_eq_true _ _).mpr ⟨hdeleg.1, bne_iff_ne.2 hdeleg.2⟩
    simp only [if_pos hrouted, if_pos hdeleg]
    refine ⟨_, setWarp_warp?_self .., ⟨rfl, rfl, rfl, rfl⟩, ⟨rfl, hk, fun l x hx => enterHandler_lane hx⟩,
      fun _ hx => setWarp_warp?_ne s _ hx, ?_⟩
    rw [if_neg fun h => h.2.1 hdeleg]
    rfl
  have hstays : ¬ (routed k.deleg c && w.hvec != 0) = true := by
    rw [Bool.and_eq_true, bne_iff_ne]
    exact hdeleg
  simp only [if_neg hstays, if_neg hdeleg]
  by_cases hsupv : k.supv.getLsbD c.code = true
  · have hroute : routed k.supv c = true := hsupv
    simp only [if_pos hroute, if_pos hsupv]
    generalize hposted : (State.modDie _ _ _ : State) = u
    have hsaved := saveControl_sameRoutes u wid
    have hwarps : (u.saveControl wid).warps = AMap.set s.warps wid { trapped w c mask info tepc with stop := true } := by
      rw [saveControl_warps, ← hposted]
      rfl
    have hpost : postedIn s u wid ⟨w.ctx, wid, w.saveIdx, BitVec.ofNat 64 c.code, info⟩ := hposted ▸ posted_postedIn ..
    refine ⟨_, by rw [State.warp?, hwarps, AMap.get_set_self], ⟨rfl, rfl, rfl, rfl⟩, ⟨rfl, ?_, ?_⟩, fun x hx => ?_, ?_⟩
    · rw [hsaved.ctxs, ← hposted]
      exact hk
    · rw [hsaved.traps, hpost.2, Option.map_map]
      simp only [Function.comp_def, if_true]
    · rw [State.warp?, hwarps, AMap.get_set_ne _ _ hx, State.warp?]
    · rw [if_pos ⟨huser, hdeleg, hsupv⟩]
      exact ⟨u, rfl, hpost⟩
  · have hroute : ¬ routed k.supv c = true := hsupv
    obtain ⟨w', hwarp, hrecorded, hhalted, hothers, hframe⟩ := halting_trap (wid := wid) hk c c mask info tepc
    simp only [if_neg hroute, if_neg hsupv]
    refine ⟨w', hwarp, hrecorded, hhalted, hothers, ?_⟩
    rw [if_neg fun h => hsupv h.2.2]
    exact hframe

end Sys2Proof.Proofs
end

section
/-! A home's load where a reduction slot's key stands twice (12 R284, 13 R302). -/
namespace Sys2Proof.Proofs
open Sys2Proof.Machine

/-! ### The state that refutes O43

The statement speaks of every state, also of one whose slots list a key twice. `AMap.set` never makes such a list out of one with keys
rising, but no hypothesis of the statement excludes it. In that state a recall that must spill another slot writes what the second entry
of a key holds over the first, and so the load returns other bytes than the state before it has. -/

/-- A spilled slot whose sum is 0, with the latest contribution. -/
def spilledSlot : Slot :=
  { fmt := 0, a := 0, nan := false, pinf := false, ninf := false, ctx := 0, launch := 0, last := 2, spilled := true }

/-- A resident slot at positive infinity. -/
def infiniteSlot : Slot := { spilledSlot with pinf := true, spilled := false }

/-- A resident slot of two bytes, older than the others. -/
def narrowSlot : Slot := { spilledSlot with fmt := 1, last := 1, spilled := false }

/-- A slice with its 512 slots open, all of them under one key, and a spilled slot beside them. -/
def doubledSlots : State :=
  { State.reset with slots := (3, spilledSlot) :: (4, infiniteSlot) :: List.replicate 511 (4, narrowSlot) }

theorem doubledSlots_peek : doubledSlots.peek 6 1 = [0x80#8] := by decide +kernel

theorem doubledSlots_homeLoad : (doubledSlots.homeLoad 0 6 1 false).2.1 = [0#8] := by decide +kernel

theorem doubledSlots_mappedAt (pa : Nat) : doubledSlots.mappedAt pa = none := rfl

/-- Refutes O43: its first clause says that a load at the home returns what `peek` reads before it, in every state. Where the slots
hold a key twice, the recall of a spilled slot in a full slice replaces the first entry of that key by the second. -/
theorem not_homesKeepLogicalTime : ¬ Obligations.HomesKeepLogicalTime := by
  intro h
  have hmapped : ∀ al off, doubledSlots.mappedAt 6 = some (al, off) → ∃ a, AMap.get doubledSlots.allots al = some a := by
    intro al off hat
    rw [doubledSlots_mappedAt] at hat
    cases hat
  obtain ⟨t, hload, -⟩ := (h doubledSlots 0 6 hmapped).1 1 false
  have hbytes : (doubledSlots.homeLoad 0 6 1 false).2.1 = doubledSlots.peek 6 1 := by rw [hload]
  rw [doubledSlots_homeLoad, doubledSlots_peek] at hbytes
  exact absurd hbytes (by decide)

end Sys2Proof.Proofs
end
